-- ==== Sys2Proof/Word.lean ====
section
/-!
DEFINITION. Word types and their plainest arithmetic: the 64-bit word, the byte, bit fields (R2, R8: integer
expressions are exact, and narrowing happens only where it is written), and the sorted map used for sparse state.
-/
namespace Sys2Proof

/-- A 64-bit word (R24, R74). -/
abbrev Word := BitVec 64
/-- A byte (R2). -/
abbrev Byte := BitVec 8

/-- Bits `hi..lo` of a natural number (R3: ranges are written high:low). -/
def bits (x hi lo : Nat) : Nat := x / 2 ^ lo % 2 ^ (hi + 1 - lo)

/-- Bit `i` of a natural number. -/
def bit (x i : Nat) : Bool := x / 2 ^ i % 2 == 1

/-- The low `n` bits of `x` read as a two's-complement integer (R46). -/
def sextN (n x : Nat) : Int :=
  let y := x % 2 ^ n
  if 2 * y < 2 ^ n then (y : Int) else (y : Int) - (2 ^ n : Nat)

/-- An exact integer narrowed to `n` bits (R8, R135: the two's-complement pattern mod 2^n). -/
def narrow (n : Nat) (x : Int) : Nat := (x % ((2 ^ n : Nat) : Int)).toNat

/-- Little-endian value of a list of bytes (R2). -/
def leValue : List Byte → Nat
  | [] => 0
  | b :: r => b.toNat + 256 * leValue r

/-- The `n` little-endian bytes of a number (R2). -/
def leBytes : Nat → Nat → List Byte
  | 0, _ => []
  | n + 1, x => BitVec.ofNat 8 x :: leBytes n (x / 256)

/-- A sparse map: entries with strictly rising keys. An absent key reads as the default its user gives. -/
abbrev FMap (α : Type) := List (Nat × α)

namespace FMap
variable {α : Type}

/-- The entry at `k`, if it is listed. -/
def find (m : FMap α) (k : Nat) : Option α :=
  match m with
  | [] => none
  | (k', v) :: r => if k' = k then some v else find r k

/-- The value at `k`, or `d` where none is listed. -/
def getD (m : FMap α) (k : Nat) (d : α) : α := (find m k).getD d

/-- The map with `v` at `k`; keys stay in rising order. -/
def put (m : FMap α) (k : Nat) (v : α) : FMap α :=
  match m with
  | [] => [(k, v)]
  | (k', v') :: r =>
    if k < k' then (k, v) :: (k', v') :: r
    else if k = k' then (k, v) :: r
    else (k', v') :: put r k v

/-- The map without `k`. -/
def del (m : FMap α) (k : Nat) : FMap α :=
  match m with
  | [] => []
  | (k', v') :: r => if k = k' then r else if k < k' then (k', v') :: r else (k', v') :: del r k

/-- Keys strictly rising: the map's canonical form. -/
def sorted : FMap α → Bool
  | [] => true
  | [_] => true
  | (a, _) :: (b, v) :: r => decide (a < b) && sorted ((b, v) :: r)

end FMap

end Sys2Proof
end

