-- ==== Sys2Proof/Config.lean ====
section
/-!
DEFINITION. Config: what the spec leaves to the implementation or leaves open. Every opaque constant is a free value:
nothing in Lean can evaluate it, so a claim holds whatever it is. Each is applied to plain data: the model's counter
`State.free`, or the operands it depends on.
-/
namespace Sys2Proof.Config

/-- Ticks that an interlocked access takes until its result lands (Table 07-17 bounds none of them; assumption 6). -/
opaque accessDelay : Nat → Nat
/-- Ticks that a promised load takes until its data lands (R270; assumption 6). -/
opaque promiseDelay : Nat → Nat
/-- Ticks that an engine command takes until it is performed (R238; assumption 6). -/
opaque commandDelay : Nat → Nat
/-- Ticks that a fetch takes to bring a line that is not in the fetch buffer (R272; assumption 6). -/
opaque fetchDelay : Nat → Nat
/-- Ticks that a step of the scheduler takes: a dispatch, a save, a requeue, a sweep (R289, R303, R311; assumption 6). -/
opaque schedDelay : Nat → Nat
/-- Ticks that a walk or a model update takes (R173, R384; assumption 6). -/
opaque unitDelay : Nat → Nat
/-- A choice among outcomes that the spec allows, as a number the chooser reduces (assumption 7). -/
opaque choice : Nat → Nat
/-- A byte that a HOST or PEER access returns where the spec states no value (assumption 8). -/
opaque outsideByte : Nat → BitVec 8
/-- Whether a HOST access of a strand or a command fails with UR or CA (R180; assumption 8). -/
opaque hostFails : Nat → Bool
/-- Whether a failed HOST read ends in a completion timeout (Table 19-1; assumption 8). -/
opaque hostTimesOut : Nat → Bool
/-- The estimated rail current of a die in amperes (R369; assumption 9). -/
opaque railCurrent : Nat → BitVec 16
/-- The temperature that a sensor reads (R378; assumption 9). -/
opaque sensor : Nat → BitVec 16
/-- Whether an attempt to write an MRAM page reads back as it was written (R385; assumption 9). -/
opaque pageWriteHolds : Nat → Bool
/-- Whether a failed attempt has written a 256-byte unit of the page (R387; assumption 84). -/
opaque unitWritten : Nat → Bool
/-- The root of trust's fuses (R402, R404; assumption 92): four key hashes, which of them are revoked, the security version fused for
each type of image (0 boot, 1 management, 2 power controller), and the debug-disable fuse. -/
opaque fusedHash : Nat → List (BitVec 8)
opaque keyRevoked : Nat → Bool
opaque fusedVersion : Nat → Nat
opaque debugDisabled : Bool
/-- The ROM, and the images that a boot finds: image 3 × f + k is that of type k in the set f (R402; assumption 92). -/
opaque romImage : List (BitVec 8)
opaque fwImage : Nat → List (BitVec 8)
opaque fwKey : Nat → List (BitVec 8)
opaque fwSig : Nat → List (BitVec 8)
opaque fwVersion : Nat → Nat
/-- The Ed448 device key and the certificate chain that certifies it (R403; assumption 10). -/
opaque deviceKey : List (BitVec 8)
opaque certChain : List (BitVec 8)
/-- The responder's secret of a key exchange (R403; assumption 10). -/
opaque ephemeral : Nat → Nat
/-- The energy of an interval (R406; assumption 9). -/
opaque energy : Nat → Nat
/-- The eye margin of a lane (R396; assumption 9). -/
opaque eyeMargin : Nat → BitVec 8
/-- A word of a stationary buffer that holds an uncorrectable error, as a beat reads it (R391; assumption 88). -/
opaque badWord : Nat → BitVec 64
/-- Random bytes of the SPDM responder, and the bytes of its capabilities that no rule gives (R403; assumption 10). -/
opaque spdmByte : Nat → Nat → BitVec 8
/-- The mantissa of the scale that a requantised NaN block gets, by the old metadata word and the new scale (R221;
assumption 16). -/
opaque nanMantissa : BitVec 32 → BitVec 20 → BitVec 12

end Sys2Proof.Config
end

