-- ==== Sys2Proof/Syntax.lean ====
section
/-!
DEFINITION. Syntax: the one inductive `Instr`, one constructor per row of spec/opcode_table.json, and the operand
records of the layouts of Table 05-1 (R118). A slot instruction carries its layout record; a packet, a register
write or an event of the part carries the names of the things it acts on.
-/
namespace Sys2Proof

/-- PRED of a slot word (R96). `onClear 0` is not an encoding. -/
inductive Pred where
  | always
  | onSet (n : BitVec 3)
  | onClear (n : BitVec 3)
deriving DecidableEq, Repr

/-- Field D (R85): D[5] is `latchOnly`, D[4:0] is `n`, D[3:0] names the latch. -/
structure Dst where
  latchOnly : Bool
  n : BitVec 5
deriving DecidableEq, Repr

/-- A source field A, B or C (R97): a register of the layout's class, or a latch. -/
inductive Src where
  | reg (n : BitVec 5)
  | latch (n : BitVec 4)
deriving DecidableEq, Repr

/-- The sixteen element types (Table 05-2), in code order. -/
inductive Ty where
  | s4 | s8 | s16 | s32 | s64 | z4 | z8 | z16 | z32 | z64 | e2 | e4 | e5 | hf | bf | f
deriving DecidableEq, Repr

/-- Rounding modes (Table 03-8). -/
inductive Rm where
  | rne | rz | ru | rd | sr
deriving DecidableEq, Repr

/-- Which of the twin slots V0/V1 or C0/C1 holds the word (R116). -/
inductive Twin where
  | first | second
deriving DecidableEq, Repr

/-- The control registers (Table 04-3), in number order. -/
inductive CReg where
  | clock | due | flags | seqlen | fcause | faddr | fbundle | taskid | rseed | mstat | lc | stage
  | tvec | place | crew | alarm | watch | tstate | spill | fdata
deriving DecidableEq, Repr

/-- FORM of a memory access (Table 05-3). -/
inductive Form where
  | plain | wait | take | fill | force
deriving DecidableEq, Repr

/-- SIZE of a scalar access (Table 05-3): 1, 2, 4 or 8 bytes. -/
inductive Size where
  | b | h | w | d
deriving DecidableEq, Repr

/-- Layout N in slots S, M and L. -/
structure OpN where
  p : Pred
deriving DecidableEq, Repr
/-- Layout N in a twin slot. -/
structure OpNT where
  tw : Twin
  p : Pred
deriving DecidableEq, Repr
/-- Layout RRR. `rm` is RM where the operation rounds. -/
structure OpRRR where
  p : Pred
  d : Dst
  a : Src
  b : Src
  c : Src
  rm : Rm
deriving DecidableEq, Repr
/-- Layout RI; `imm` is the 44-bit immediate of R131. -/
structure OpRI where
  p : Pred
  d : Dst
  a : Src
  imm : BitVec 44
deriving DecidableEq, Repr
/-- Layout QRR. -/
structure OpQRR where
  p : Pred
  q : BitVec 3
  a : Src
  b : Src
deriving DecidableEq, Repr
/-- Layout QRI. -/
structure OpQRI where
  p : Pred
  q : BitVec 3
  a : Src
  imm : BitVec 44
deriving DecidableEq, Repr
/-- Layout BF: `len` is IMM[5:0], the field length minus 1 (R139). -/
structure OpBF where
  p : Pred
  d : Dst
  a : Src
  b : Src
  pos : BitVec 6
  len : BitVec 6
deriving DecidableEq, Repr
/-- Layout DI. -/
structure OpDI where
  p : Pred
  d : Dst
  a : Src
  imm : BitVec 44
deriving DecidableEq, Repr
/-- Layout SC. -/
structure OpSC where
  p : Pred
  d : Dst
  a : Src
  dty : Ty
  rm : Rm
  sty : Ty
deriving DecidableEq, Repr
/-- Layout CR, reading a control register. -/
structure OpCRr where
  p : Pred
  d : Dst
  n : CReg
deriving DecidableEq, Repr
/-- Layout CR, writing a control register. -/
structure OpCRw where
  p : Pred
  a : Src
  n : CReg
deriving DecidableEq, Repr
/-- Layout CR of `evt.set` and `evt.clr`. -/
structure OpEv where
  p : Pred
  n : BitVec 5
deriving DecidableEq, Repr
/-- Layout SM. `a` and `imm` give the address as Table 05-4 does for the space. -/
structure OpSM where
  p : Pred
  d : Dst
  a : Src
  form : Form
  sx : Bool
  size : Size
  c : Src
  imm : BitVec 44
deriving DecidableEq, Repr
/-- Layout SA. -/
structure OpSA where
  p : Pred
  d : Dst
  a : Src
  size : Size
  c : Src
  imm : BitVec 44
deriving DecidableEq, Repr
/-- Layout SS. -/
structure OpSS where
  p : Pred
  d : Dst
  a : Src
  c : Src
  imm : BitVec 44
deriving DecidableEq, Repr
/-- Layout BR: b register, signed row offset and 16-byte slot (R181). -/
structure OpBR where
  p : Pred
  d : Dst
  bn : BitVec 3
  off : BitVec 9
  slot : BitVec 3
  b : Src
  c : Src
deriving DecidableEq, Repr
/-- Layout VRRR. `k` is field C, a mask register or latch. -/
structure OpVRRR where
  tw : Twin
  p : Pred
  d : Dst
  a : Src
  b : Src
  k : Src
  ty : Ty
  rm : Rm
  sub : BitVec 5
deriving DecidableEq, Repr
/-- Layout VI. -/
structure OpVI where
  tw : Twin
  p : Pred
  d : Dst
  a : Src
  b : Src
  k : Src
  ty : Ty
  imm : BitVec 8
deriving DecidableEq, Repr
/-- Layout VF: `k` is a mask register number. -/
structure OpVF where
  tw : Twin
  p : Pred
  d : Dst
  a : Src
  b : Src
  c : Src
  ty : Ty
  rm : Rm
  neg : Bool
  k : BitVec 4
deriving DecidableEq, Repr
/-- Layout VK. -/
structure OpVK where
  tw : Twin
  p : Pred
  d : Dst
  a : Src
  b : Src
  k : Src
  ty : Ty
deriving DecidableEq, Repr
/-- Layout KK. -/
structure OpKK where
  tw : Twin
  p : Pred
  d : Dst
  a : Src
  b : Src
deriving DecidableEq, Repr
/-- Layout VC. -/
structure OpVC where
  tw : Twin
  p : Pred
  d : Dst
  a : Src
  sty : Ty
  k : Src
  dty : Ty
  rm : Rm
  half : Bool
deriving DecidableEq, Repr
/-- Layout VG. -/
structure OpVG where
  tw : Twin
  p : Pred
  d : Dst
  a : Src
  k : Src
  ty : Ty
deriving DecidableEq, Repr
/-- Layout MP. -/
structure OpMP where
  p : Pred
  a : Src
  ty : Ty
  half : Bool
  row : BitVec 7
deriving DecidableEq, Repr
/-- Layout MA. -/
structure OpMA where
  p : Pred
  t : BitVec 2
  a : Src
  ty : Ty
  half : Bool
  row : BitVec 6
deriving DecidableEq, Repr
/-- Layout MT. -/
structure OpMT where
  p : Pred
  t : BitVec 2
deriving DecidableEq, Repr
/-- Layout MD. -/
structure OpMD where
  p : Pred
  d : Dst
  t : BitVec 2
  half : Bool
  row : BitVec 6
deriving DecidableEq, Repr
/-- Layout MC. -/
structure OpMC where
  p : Pred
  t : BitVec 2
  b : Src
  c : Src
  add : Bool
deriving DecidableEq, Repr
/-- Layout MK. -/
structure OpMK where
  p : Pred
  a : Src
  pat : BitVec 8
deriving DecidableEq, Repr
/-- Layout CM. `c` is the store data; a decoding load holds its lane type in `ty`. -/
structure OpCM where
  tw : Twin
  p : Pred
  d : Dst
  a : Src
  form : Form
  dec : Bool
  c : Src
  ty : Ty
  imm : BitVec 12
deriving DecidableEq, Repr
/-- Layout CE. `m` holds the command modifiers of IMM. -/
structure OpCE where
  tw : Twin
  p : Pred
  d : Dst
  a : Src
  b : Src
  c : Src
  m : BitVec 12
deriving DecidableEq, Repr
/-- Layout CP. -/
structure OpCP where
  tw : Twin
  p : Pred
  d : Dst
  a : Src
  b : Src
  c : Src
deriving DecidableEq, Repr
/-- Layout LB: signed 30-bit offset in units of two bytes (R119). -/
structure OpLB where
  p : Pred
  off : BitVec 30
deriving DecidableEq, Repr
/-- Layout LR. -/
structure OpLR where
  p : Pred
  d : Dst
  a : Src
  b : Src
deriving DecidableEq, Repr
/-- Layout LI. -/
structure OpLI where
  p : Pred
  imm : BitVec 12
deriving DecidableEq, Repr

/-- An SPDM message as it arrives (R403): on channel 0, the management port, or on channel 1 + p, the Data Object Exchange capability of
port p's PF; plainly, or as a record of the channel's secured session with its AES-256-GCM tag; and the two parameters and the body of
a message whose row names no operand. -/
structure SpdmVia where
  ch : Nat := 0
  tag : Option (BitVec 128) := none
  p1 : Byte := 0
  p2 : Byte := 0
  body : List Byte := []
deriving DecidableEq, Repr

/-- What CHALLENGE asks (R403): a slot, a kind of measurement summary, the nonce and the requester's context. -/
structure SpdmChallenge where
  slot : Byte
  summary : Byte
  nonce : BitVec 256
  ctx : Word
deriving DecidableEq, Repr

/-- What GET_MEASUREMENTS asks (R404): a block, the nonce where a signature is asked, and the requester's context. -/
structure SpdmMeasure where
  block : Byte
  nonce : Option (BitVec 256)
  ctx : Word
deriving DecidableEq, Repr

/-- What KEY_EXCHANGE brings (R403): a slot and a kind of summary, the requester's session number and policy, its random and exchange
data, and its opaque data. -/
structure SpdmExchange where
  slot : Byte
  summary : Byte
  session : BitVec 16
  policy : Byte
  random : BitVec 256
  point : BitVec 768
  extra : List Byte
deriving DecidableEq, Repr

/-- A stream head (R20): port 0 or 1, function 0 for the PF or n + 1 for VF n, head 0 to 3. -/
structure StreamId where
  port : Nat
  fn : Nat
  head : Nat
deriving DecidableEq, Repr

/-- What every packet carries (Table 01-12): its stream, PE and LEN. -/
structure PkH where
  st : StreamId
  pe : Bool
  len : Byte
deriving DecidableEq, Repr

/-- Space of a packet address: SP 0b00 or 0b01 (Table 01-12). -/
inductive PkSpace where
  | host | dev
deriving DecidableEq, Repr

/-- CMP of the comparison packets (R31). -/
inductive PkCmp where
  | eq | ne | geu | ltu
deriving DecidableEq, Repr

/-- The windows through which registers are reached: BAR 0 of a function, or the management window (R13, R363). -/
inductive RegWindow where
  | bar (port fn : Nat)
  | mgmt
deriving DecidableEq, Repr

/-- Causes of a tamper alarm (R401). -/
inductive Tamper where
  | volt | clock | temp | mesh
deriving DecidableEq, Repr

/-- Requester tag of a PEER request (R325): source module and die and sequence number; `dest` is the module the request goes
to. -/
structure Tag where
  mod : Nat
  die : Nat
  seq : Nat
  dest : Nat
deriving DecidableEq, Repr

/-- A negative acknowledgement of a request, and the scale-up port that it comes through (R395). -/
structure PortNak where
  tag : Tag
  port : Nat
deriving DecidableEq, Repr

/-- What an answer to a request brings (R394, R395): its value, the scale-up port that it comes through, and its CRC-32C. -/
structure PortAnswer where
  value : BitVec 1024
  port : Nat
  crc : BitVec 32
deriving DecidableEq, Repr

/-- The ten atomic operations (Table 07-9). -/
inductive AtomOp where
  | add | and | or | xor | mins | minz | maxs | maxz | swap | cas
deriving DecidableEq, Repr

/-- What a PEER request asks of its destination home (R323, R179, R186). A store of a copy command fills the words that it writes
whole (R240). -/
inductive ShardOp where
  | load (addr n : Nat)
  | store (addr : Nat) (data : List Byte) (fill : Bool)
  | atomic (op : AtomOp) (addr : Nat) (operand expected : Word)
  | reduce (ty : Ty) (line : Nat) (row : List Byte) (flag cnt : Nat)
  | addElems (ty : Ty) (addr : Nat) (data : List Byte)
deriving DecidableEq, Repr

/-- A request shard arriving at an L2 slice of this module (R394): the ASN its source presents, the scale-up port it
came through, the CRC-32C that it carries, and whether its header is intact. -/
structure Shard where
  tag : Tag
  asn : Nat
  op : ShardOp
  port : Nat
  crc : BitVec 32
  headerOk : Bool
deriving DecidableEq, Repr

/-- The steps of the part: one constructor per row of spec/opcode_table.json, the events, packets and waits first. -/
inductive Instr where
  /-- FUNC_JOB_WRITE (R14). -/
  | funcJobWrite (port vf : Nat) (v : Word)
  /-- SEM_CLAIM (R17). -/
  | semClaim (port n : Nat)
  /-- SEM_RELEASE (R17). -/
  | semRelease (port n : Nat)
  /-- SEM_FORCED_RELEASE (R17). -/
  | semForcedRelease (port n : Nat)
  /-- DOORBELL (R21). -/
  | doorbell (st : StreamId) (v : Word)
  /-- STREAM_ENABLE (R22). -/
  | streamEnable (st : StreamId)
  /-- STREAM_PAUSE (R22). -/
  | streamPause (st : StreamId)
  /-- ABORT (R23). -/
  | abort (st : StreamId)
  /-- CLRERR (R26). -/
  | clrerr (st : StreamId)
  /-- FUNCTION_LEVEL_RESET (R15). -/
  | functionLevelReset (port fn : Nat)
  /-- LINK_DOWN (R15). -/
  | linkDown (port : Nat)
  /-- PK_NOP (R37). -/
  | pkNop (h : PkH)
  /-- PK_WRITE_STORE (R29). -/
  | pkWriteStore (h : PkH) (sp : PkSpace) (addr : Word) (data : List Word)
  /-- PK_WRITE_ADD (R29). -/
  | pkWriteAdd (h : PkH) (sp : PkSpace) (addr v : Word)
  /-- PK_WRITE_FORCE (R29). -/
  | pkWriteForce (h : PkH) (addr : Word) (data : List Word)
  /-- PK_COPY (R30). -/
  | pkCopy (h : PkH) (ssp : PkSpace) (src : Word) (dsp : PkSpace) (dst : Word) (n : BitVec 32)
  /-- PK_PRED (R31). -/
  | pkPred (h : PkH) (sp : PkSpace) (cmp : PkCmp) (addr mask value : Word)
  /-- PK_LOOP (R32). -/
  | pkLoop (h : PkH) (count : BitVec 16) (body : BitVec 10)
  /-- PK_CALL (R33). -/
  | pkCall (h : PkH) (sp : PkSpace) (addr : Word) (n : BitVec 24)
  /-- PK_RET (R33). -/
  | pkRet (h : PkH)
  /-- BUFFER_END (R33). -/
  | bufferEnd (st : StreamId)
  /-- PK_FFENCE (R40). -/
  | pkFfence (h : PkH)
  /-- PK_WAITMEM (R31). -/
  | pkWaitmem (h : PkH) (sp : PkSpace) (cmp : PkCmp) (addr mask value : Word) (tlim : BitVec 24)
  /-- WAITMEM_READ (R31). -/
  | waitmemRead (st : StreamId)
  /-- PK_LAUNCH (R34). -/
  | pkLaunch (h : PkH) (die : BitVec 2) (addr : Word)
  /-- PK_SIGNAL (R35). -/
  | pkSignal (h : PkH) (sp : PkSpace) (force : Bool) (addr value : Word)
  /-- PK_SIGNAL_STORE (R35). -/
  | pkSignalStore (st : StreamId)
  /-- PK_JOB (R36). -/
  | pkJob (h : PkH) (job : BitVec 12)
  /-- PK_IRQ (R36). -/
  | pkIrq (h : PkH) (vec : BitVec 11)
  /-- HOST_WRITE_COMPLETE (R43). -/
  | hostWriteComplete (st : StreamId) (ok : Bool)
  /-- REGISTER_WRITE (R5). -/
  | registerWrite (w : RegWindow) (off : Nat) (v : Word)
  /-- I3C_DYNAMIC_ADDRESS (R19). -/
  | i3cDynamicAddress (a : BitVec 7)
  /-- MCTP_CONTROL (R19). -/
  | mctpControl (cmd : Byte)
  /-- VDM_REGISTER_READ (R19). -/
  | vdmRegisterRead (off : Nat)
  /-- VDM_REGISTER_WRITE (R363). -/
  | vdmRegisterWrite (off : Nat) (v : Word)
  /-- GET_VERSION (R403). -/
  | getVersion
  /-- GET_CAPABILITIES (R403). -/
  | getCapabilities
  /-- NEGOTIATE_ALGORITHMS (R403). -/
  | negotiateAlgorithms
  /-- GET_DIGESTS (R403). -/
  | getDigests
  /-- GET_CERTIFICATE (R403). -/
  | getCertificate (slot : Byte) (off len : BitVec 16)
  /-- CHALLENGE (R403). -/
  | challenge (q : SpdmChallenge)
  /-- GET_MEASUREMENTS (R404). -/
  | getMeasurements (q : SpdmMeasure)
  /-- KEY_EXCHANGE (R403). -/
  | keyExchange (q : SpdmExchange)
  /-- FINISH (R403). -/
  | finish (verify : BitVec 512)
  /-- HEARTBEAT (R403). -/
  | heartbeat
  /-- KEY_UPDATE (R403). -/
  | keyUpdate
  /-- END_SESSION (R403). -/
  | endSession
  /-- KEY_SET (R399). -/
  | keySet (slot : Byte) (asn : BitVec 16) (k1 k2 : BitVec 256)
  /-- KEY_CLEAR (R399). -/
  | keyClear (slot : Byte)
  /-- KICK (R382). -/
  | kick
  /-- HARDB_WRITE (R380). -/
  | hardbWrite (die region : Nat) (v : BitVec 32)
  /-- MU_OPEN (R384). -/
  | muOpen (die : Nat)
  /-- MU_STAGE (R384). -/
  | muStage (die : Nat)
  /-- MU_COMMIT (R384). -/
  | muCommit (die : Nat)
  /-- MU_ABORT (R384). -/
  | muAbort (die : Nat)
  /-- RELEASE (R377). -/
  | release
  /-- DISCARD (R377). -/
  | discard
  /-- ERRCNT_CLR (R393). -/
  | errcntClr (die : Nat)
  /-- SLOTCLR (R407). -/
  | slotclr (slot : Byte)
  /-- PORT_UP (R396). -/
  | portUp (p : Nat)
  /-- TIMER_PENDING (R91). -/
  | timerPending (cx : Nat)
  /-- TIMER (R91). -/
  | timer (cx : Nat)
  /-- MKAT_COMPARE_END (R234). -/
  | mkatCompareEnd (cx : Nat)
  /-- KAT_MISMATCH (R234). -/
  | katMismatch (cx : Nat)
  /-- SLEEP_WAKE (R154). -/
  | sleepWake (cx : Nat)
  /-- HOLDING_BUNDLE_PRESENT (R175). -/
  | holdingBundlePresent (cx : Nat)
  /-- FE_HOME_TRY (R176). -/
  | feHomeTry (cx : Nat)
  /-- HOLD_COMMIT (R175). -/
  | holdCommit (cx : Nat)
  /-- FE_BUDGET_SPENT (R176). -/
  | feBudgetSpent (cx : Nat)
  /-- PARK_SAVE_COMPLETE (R277). -/
  | parkSaveComplete (task : Nat)
  /-- PARKED_TASK_REQUEUE (R311). -/
  | parkedTaskRequeue (word : Nat)
  /-- BAR_WAIT_TIMEOUT (R184). -/
  | barWaitTimeout (cx : Nat)
  /-- SECTOR_LAND (R183). -/
  | sectorLand (core row slot : Nat)
  /-- SECTOR_SETTLE_ERROR (R389). -/
  | sectorSettleError (core row slot : Nat) (code : Byte)
  /-- COMMAND_COMPLETE (R321). -/
  | commandComplete (cx queue : Nat)
  /-- ROT_CLU_MATCH (R185). -/
  | rotCluMatch (task : Nat)
  /-- RED_ADD_CONTRIBUTION (R187). -/
  | redAddContribution (cx : Nat)
  /-- INTERLOCKED_RESULT_LAND (R201). -/
  | interlockedResultLand (cx id : Nat) (v : BitVec 1024)
  /-- PROMISE_STALL (R270). -/
  | promiseStall (cx : Nat)
  /-- PROMISED_DATA_LAND (R270). -/
  | promisedDataLand (cx id : Nat)
  /-- RESULT_READABLE (R267). -/
  | resultReadable (cx : Nat)
  /-- DIVIDER_FREE (R134). -/
  | dividerFree (core : Nat)
  /-- QUANTUM_EXPIRY (R273). -/
  | quantumExpiry (core : Nat)
  /-- CORE_UNGATE (R274). -/
  | coreUngate (core : Nat)
  /-- FETCH_LINE_ARRIVE (R272). -/
  | fetchLineArrive (cx : Nat)
  /-- FUSE_LINE_RISE (R157). -/
  | fuseLineRise (task : Nat)
  /-- LNS_TEMPLATE_ISSUE (R250). -/
  | lnsTemplateIssue (core : Nat)
  /-- LNS_FAULT_TAKEN (R252). -/
  | lnsFaultTaken (cx : Nat)
  /-- PAGEIN_WALK_END (R173). -/
  | pageinWalkEnd (cx id : Nat)
  /-- ASN_SWEEP_END (R301). -/
  | asnSweepEnd (asn : Nat)
  /-- MIXSIZE_PROBE_ANSWER (R329). -/
  | mixsizeProbeAnswer (cx : Nat)
  /-- DISPATCH_DECISION (R289). -/
  | dispatchDecision (die : Nat)
  /-- PREEMPTION (R303). -/
  | preemption (task : Nat)
  /-- CREW_BIND (R294). -/
  | crewBind (task : Nat)
  /-- FAULT_RECORD_DELIVERY (R307). -/
  | faultRecordDelivery (job : Nat)
  /-- AGING_STEP (R312). -/
  | agingStep (task : Nat)
  /-- SLEW_STEP (R368). -/
  | slewStep (cluster : Nat)
  /-- CURRENT_LIMIT_STEP (R369). -/
  | currentLimitStep (die : Nat) (amps : BitVec 16)
  /-- THERMAL_SAMPLE (R378). -/
  | thermalSample (die region : Nat) (temp : BitVec 16)
  /-- OVERTEMP_SHUTDOWN (R381). -/
  | overtempShutdown
  /-- WATCHDOG_EXPIRY (R382). -/
  | watchdogExpiry
  /-- NIGHTFALL (R370). -/
  | nightfall (cluster : Nat)
  /-- DORMANT_WAKE_EVENT (R370). -/
  | dormantWakeEvent (cx : Nat)
  /-- DAYBREAK (R371). -/
  | daybreak (cluster : Nat)
  /-- POWER_FAIL (R373). -/
  | powerFail
  /-- POWER_ON_BOOT (R388). -/
  | powerOnBoot
  /-- TAMPER_ALARM (R401). -/
  | tamperAlarm (cause : Tamper)
  /-- EYE_MARGIN_SAMPLE (R396). -/
  | eyeMarginSample (p : Nat) (margins : List Byte)
  /-- PORT_RETRAIN_END (R396). -/
  | portRetrainEnd (p : Nat)
  /-- SHARD_RECEIVE (R394). -/
  | shardReceive (sh : Shard)
  /-- SHARD_NAK (R395). -/
  | shardNak (n : PortNak)
  /-- RETRANSMIT_TIMEOUT (R395). -/
  | retransmitTimeout (tag : Tag)
  /-- SHARD_ACK (R395). -/
  | shardAck (tag : Tag) (code : Byte) (v : PortAnswer)
  /-- ENERGY_INTERVAL (R406). -/
  | energyInterval (cluster energy : Nat)
  /-- WAIT_SET (R102). -/
  | waitSet (fold wflag : BitVec 6)
  /-- WAIT_CLR (R102). -/
  | waitClr (fold wflag : BitVec 6)
  /-- WAIT_DUE (R102). -/
  | waitDue (fold wflag : BitVec 6)
  /-- PCIE_LINK_UP (R11). -/
  | pcieLinkUp (port : Nat) (flit : Bool)
  /-- EMPTY_BUNDLE (R100). -/
  | emptyBundle (fold : BitVec 6) (stop : Bool)
  /-- FETCH_FAULT (R104). -/
  | fetchFault (cx : Nat)
  /-- FLAGS_DUE_RISE (R102). -/
  | flagsDueRise (cx : Nat)
  /-- MU_COMMIT_DONE (R384). -/
  | muCommitDone (die : Nat)
  /-- NOP (R162): slot S, OP 0x00. -/
  | nop (o : OpN)
  /-- ADD (R135): slot S, OP 0x01. -/
  | add (o : OpRRR)
  /-- SUB (R135): slot S, OP 0x02. -/
  | sub (o : OpRRR)
  /-- MUL (R135): slot S, OP 0x03. -/
  | mul (o : OpRRR)
  /-- MULH_S64 (R135): slot S, OP 0x04. -/
  | mulhS64 (o : OpRRR)
  /-- MULH_Z64 (R135): slot S, OP 0x05. -/
  | mulhZ64 (o : OpRRR)
  /-- DIV_S64 (R136): slot S, OP 0x06. -/
  | divS64 (o : OpRRR)
  /-- DIV_Z64 (R136): slot S, OP 0x07. -/
  | divZ64 (o : OpRRR)
  /-- REM_S64 (R136): slot S, OP 0x08. -/
  | remS64 (o : OpRRR)
  /-- REM_Z64 (R136): slot S, OP 0x09. -/
  | remZ64 (o : OpRRR)
  /-- MIN_S64 (R135): slot S, OP 0x0A. -/
  | minS64 (o : OpRRR)
  /-- MIN_Z64 (R135): slot S, OP 0x0B. -/
  | minZ64 (o : OpRRR)
  /-- MAX_S64 (R135): slot S, OP 0x0C. -/
  | maxS64 (o : OpRRR)
  /-- MAX_Z64 (R135): slot S, OP 0x0D. -/
  | maxZ64 (o : OpRRR)
  /-- ADD_IMM (R135): slot S, OP 0x11. -/
  | addImm (o : OpRI)
  /-- SUB_IMM (R135): slot S, OP 0x12. -/
  | subImm (o : OpRI)
  /-- MUL_IMM (R135): slot S, OP 0x13. -/
  | mulImm (o : OpRI)
  /-- MULH_S64_IMM (R135): slot S, OP 0x14. -/
  | mulhS64Imm (o : OpRI)
  /-- MULH_Z64_IMM (R135): slot S, OP 0x15. -/
  | mulhZ64Imm (o : OpRI)
  /-- DIV_S64_IMM (R136): slot S, OP 0x16. -/
  | divS64Imm (o : OpRI)
  /-- DIV_Z64_IMM (R136): slot S, OP 0x17. -/
  | divZ64Imm (o : OpRI)
  /-- REM_S64_IMM (R136): slot S, OP 0x18. -/
  | remS64Imm (o : OpRI)
  /-- REM_Z64_IMM (R136): slot S, OP 0x19. -/
  | remZ64Imm (o : OpRI)
  /-- MIN_S64_IMM (R135): slot S, OP 0x1A. -/
  | minS64Imm (o : OpRI)
  /-- MIN_Z64_IMM (R135): slot S, OP 0x1B. -/
  | minZ64Imm (o : OpRI)
  /-- MAX_S64_IMM (R135): slot S, OP 0x1C. -/
  | maxS64Imm (o : OpRI)
  /-- MAX_Z64_IMM (R135): slot S, OP 0x1D. -/
  | maxZ64Imm (o : OpRI)
  /-- AND (R137): slot S, OP 0x20. -/
  | and (o : OpRRR)
  /-- OR (R137): slot S, OP 0x21. -/
  | or (o : OpRRR)
  /-- XOR (R137): slot S, OP 0x22. -/
  | xor (o : OpRRR)
  /-- ANDN (R137): slot S, OP 0x23. -/
  | andn (o : OpRRR)
  /-- SHL (R137): slot S, OP 0x24. -/
  | shl (o : OpRRR)
  /-- SHR_Z64 (R137): slot S, OP 0x25. -/
  | shrZ64 (o : OpRRR)
  /-- SHR_S64 (R137): slot S, OP 0x26. -/
  | shrS64 (o : OpRRR)
  /-- ROT (R137): slot S, OP 0x27. -/
  | rot (o : OpRRR)
  /-- AND_IMM (R137): slot S, OP 0x30. -/
  | andImm (o : OpRI)
  /-- OR_IMM (R137): slot S, OP 0x31. -/
  | orImm (o : OpRI)
  /-- XOR_IMM (R137): slot S, OP 0x32. -/
  | xorImm (o : OpRI)
  /-- ANDN_IMM (R137): slot S, OP 0x33. -/
  | andnImm (o : OpRI)
  /-- SHL_IMM (R137): slot S, OP 0x34. -/
  | shlImm (o : OpRI)
  /-- SHR_Z64_IMM (R137): slot S, OP 0x35. -/
  | shrZ64Imm (o : OpRI)
  /-- SHR_S64_IMM (R137): slot S, OP 0x36. -/
  | shrS64Imm (o : OpRI)
  /-- ROT_IMM (R137): slot S, OP 0x37. -/
  | rotImm (o : OpRI)
  /-- POPC (R138): slot S, OP 0x28. -/
  | popc (o : OpRRR)
  /-- CLZ (R138): slot S, OP 0x29. -/
  | clz (o : OpRRR)
  /-- CTZ (R138): slot S, OP 0x2A. -/
  | ctz (o : OpRRR)
  /-- BEXT (R139): slot S, OP 0x2B. -/
  | bext (o : OpBF)
  /-- BINS (R139): slot S, OP 0x2C. -/
  | bins (o : OpBF)
  /-- SEXT (R139): slot S, OP 0x2D. -/
  | sext (o : OpBF)
  /-- CMP_EQ (R140): slot S, OP 0x40. -/
  | cmpEq (o : OpRRR)
  /-- CMP_NE (R140): slot S, OP 0x41. -/
  | cmpNe (o : OpRRR)
  /-- CMP_LT_S64 (R140): slot S, OP 0x42. -/
  | cmpLtS64 (o : OpRRR)
  /-- CMP_LT_Z64 (R140): slot S, OP 0x43. -/
  | cmpLtZ64 (o : OpRRR)
  /-- CMP_LE_S64 (R140): slot S, OP 0x44. -/
  | cmpLeS64 (o : OpRRR)
  /-- CMP_LE_Z64 (R140): slot S, OP 0x45. -/
  | cmpLeZ64 (o : OpRRR)
  /-- CMP_EQ_Q (R140): slot S, OP 0x48. -/
  | cmpEqQ (o : OpQRR)
  /-- CMP_NE_Q (R140): slot S, OP 0x49. -/
  | cmpNeQ (o : OpQRR)
  /-- CMP_LT_S64_Q (R140): slot S, OP 0x4A. -/
  | cmpLtS64Q (o : OpQRR)
  /-- CMP_LT_Z64_Q (R140): slot S, OP 0x4B. -/
  | cmpLtZ64Q (o : OpQRR)
  /-- CMP_LE_S64_Q (R140): slot S, OP 0x4C. -/
  | cmpLeS64Q (o : OpQRR)
  /-- CMP_LE_Z64_Q (R140): slot S, OP 0x4D. -/
  | cmpLeZ64Q (o : OpQRR)
  /-- CMP_EQ_IMM (R140): slot S, OP 0x50. -/
  | cmpEqImm (o : OpRI)
  /-- CMP_NE_IMM (R140): slot S, OP 0x51. -/
  | cmpNeImm (o : OpRI)
  /-- CMP_LT_S64_IMM (R140): slot S, OP 0x52. -/
  | cmpLtS64Imm (o : OpRI)
  /-- CMP_LT_Z64_IMM (R140): slot S, OP 0x53. -/
  | cmpLtZ64Imm (o : OpRI)
  /-- CMP_LE_S64_IMM (R140): slot S, OP 0x54. -/
  | cmpLeS64Imm (o : OpRI)
  /-- CMP_LE_Z64_IMM (R140): slot S, OP 0x55. -/
  | cmpLeZ64Imm (o : OpRI)
  /-- CMP_EQ_Q_IMM (R140): slot S, OP 0x58. -/
  | cmpEqQImm (o : OpQRI)
  /-- CMP_NE_Q_IMM (R140): slot S, OP 0x59. -/
  | cmpNeQImm (o : OpQRI)
  /-- CMP_LT_S64_Q_IMM (R140): slot S, OP 0x5A. -/
  | cmpLtS64QImm (o : OpQRI)
  /-- CMP_LT_Z64_Q_IMM (R140): slot S, OP 0x5B. -/
  | cmpLtZ64QImm (o : OpQRI)
  /-- CMP_LE_S64_Q_IMM (R140): slot S, OP 0x5C. -/
  | cmpLeS64QImm (o : OpQRI)
  /-- CMP_LE_Z64_Q_IMM (R140): slot S, OP 0x5D. -/
  | cmpLeZ64QImm (o : OpQRI)
  /-- SEL (R141): slot S, OP 0x60. -/
  | sel (o : OpRRR)
  /-- LI (R142): slot S, OP 0x62. -/
  | li (o : OpDI)
  /-- LIH (R142): slot S, OP 0x63. -/
  | lih (o : OpDI)
  /-- MOV_FROM_CR (R143): slot S, OP 0x64. -/
  | movFromCr (o : OpCRr)
  /-- MOV_TO_CR (R143): slot S, OP 0x65. -/
  | movToCr (o : OpCRw)
  /-- EVT_SET (R144): slot S, OP 0x66. -/
  | evtSet (o : OpEv)
  /-- EVT_CLR (R144): slot S, OP 0x67. -/
  | evtClr (o : OpEv)
  /-- FADD_F (R146): slot S, OP 0x70. -/
  | faddF (o : OpRRR)
  /-- FSUB_F (R146): slot S, OP 0x71. -/
  | fsubF (o : OpRRR)
  /-- FMUL_F (R146): slot S, OP 0x72. -/
  | fmulF (o : OpRRR)
  /-- FMA_F (R146): slot S, OP 0x73. -/
  | fmaF (o : OpRRR)
  /-- FMIN_F (R147): slot S, OP 0x74. -/
  | fminF (o : OpRRR)
  /-- FMAX_F (R147): slot S, OP 0x75. -/
  | fmaxF (o : OpRRR)
  /-- CVT (R148): slot S, OP 0x77. -/
  | cvt (o : OpSC)
  /-- PAGEIN (R173): slot S, OP 0x78. -/
  | pagein (o : OpRI)
  /-- LD_LOC (R168): slot S, OP 0x80. -/
  | ldLoc (o : OpSM)
  /-- ST_LOC (R168): slot S, OP 0x81. -/
  | stLoc (o : OpSM)
  /-- LD_CLU (R168): slot S, OP 0x82. -/
  | ldClu (o : OpSM)
  /-- ST_CLU (R168): slot S, OP 0x83. -/
  | stClu (o : OpSM)
  /-- LD_DEV (R168): slot S, OP 0x84. -/
  | ldDev (o : OpSM)
  /-- ST_DEV (R168): slot S, OP 0x85. -/
  | stDev (o : OpSM)
  /-- LD_PEER (R168): slot S, OP 0x86. -/
  | ldPeer (o : OpSM)
  /-- ST_PEER (R168): slot S, OP 0x87. -/
  | stPeer (o : OpSM)
  /-- LD_HOST (R168): slot S, OP 0x88. -/
  | ldHost (o : OpSM)
  /-- ST_HOST (R168): slot S, OP 0x89. -/
  | stHost (o : OpSM)
  /-- SP_LD (R149): slot S, OP 0x90. -/
  | spLd (o : OpSS)
  /-- SP_ST (R149): slot S, OP 0x91. -/
  | spSt (o : OpSS)
  /-- SP_VLD (R149): slot S, OP 0x92. -/
  | spVld (o : OpSS)
  /-- SP_VST (R149): slot S, OP 0x93. -/
  | spVst (o : OpSS)
  /-- ATOM_ADD_LOC (R179): slot S, OP 0xA0. -/
  | atomAddLoc (o : OpSA)
  /-- ATOM_AND_LOC (R179): slot S, OP 0xA1. -/
  | atomAndLoc (o : OpSA)
  /-- ATOM_OR_LOC (R179): slot S, OP 0xA2. -/
  | atomOrLoc (o : OpSA)
  /-- ATOM_XOR_LOC (R179): slot S, OP 0xA3. -/
  | atomXorLoc (o : OpSA)
  /-- ATOM_MINS_LOC (R179): slot S, OP 0xA4. -/
  | atomMinsLoc (o : OpSA)
  /-- ATOM_MINZ_LOC (R179): slot S, OP 0xA5. -/
  | atomMinzLoc (o : OpSA)
  /-- ATOM_MAXS_LOC (R179): slot S, OP 0xA6. -/
  | atomMaxsLoc (o : OpSA)
  /-- ATOM_MAXZ_LOC (R179): slot S, OP 0xA7. -/
  | atomMaxzLoc (o : OpSA)
  /-- ATOM_SWAP_LOC (R179): slot S, OP 0xA8. -/
  | atomSwapLoc (o : OpSA)
  /-- ATOM_CAS_LOC (R179): slot S, OP 0xA9. -/
  | atomCasLoc (o : OpSA)
  /-- ATOM_ADD_CLU (R179): slot S, OP 0xB0. -/
  | atomAddClu (o : OpSA)
  /-- ATOM_AND_CLU (R179): slot S, OP 0xB1. -/
  | atomAndClu (o : OpSA)
  /-- ATOM_OR_CLU (R179): slot S, OP 0xB2. -/
  | atomOrClu (o : OpSA)
  /-- ATOM_XOR_CLU (R179): slot S, OP 0xB3. -/
  | atomXorClu (o : OpSA)
  /-- ATOM_MINS_CLU (R179): slot S, OP 0xB4. -/
  | atomMinsClu (o : OpSA)
  /-- ATOM_MINZ_CLU (R179): slot S, OP 0xB5. -/
  | atomMinzClu (o : OpSA)
  /-- ATOM_MAXS_CLU (R179): slot S, OP 0xB6. -/
  | atomMaxsClu (o : OpSA)
  /-- ATOM_MAXZ_CLU (R179): slot S, OP 0xB7. -/
  | atomMaxzClu (o : OpSA)
  /-- ATOM_SWAP_CLU (R179): slot S, OP 0xB8. -/
  | atomSwapClu (o : OpSA)
  /-- ATOM_CAS_CLU (R179): slot S, OP 0xB9. -/
  | atomCasClu (o : OpSA)
  /-- ATOM_ADD_DEV (R179): slot S, OP 0xC0. -/
  | atomAddDev (o : OpSA)
  /-- ATOM_AND_DEV (R179): slot S, OP 0xC1. -/
  | atomAndDev (o : OpSA)
  /-- ATOM_OR_DEV (R179): slot S, OP 0xC2. -/
  | atomOrDev (o : OpSA)
  /-- ATOM_XOR_DEV (R179): slot S, OP 0xC3. -/
  | atomXorDev (o : OpSA)
  /-- ATOM_MINS_DEV (R179): slot S, OP 0xC4. -/
  | atomMinsDev (o : OpSA)
  /-- ATOM_MINZ_DEV (R179): slot S, OP 0xC5. -/
  | atomMinzDev (o : OpSA)
  /-- ATOM_MAXS_DEV (R179): slot S, OP 0xC6. -/
  | atomMaxsDev (o : OpSA)
  /-- ATOM_MAXZ_DEV (R179): slot S, OP 0xC7. -/
  | atomMaxzDev (o : OpSA)
  /-- ATOM_SWAP_DEV (R179): slot S, OP 0xC8. -/
  | atomSwapDev (o : OpSA)
  /-- ATOM_CAS_DEV (R179): slot S, OP 0xC9. -/
  | atomCasDev (o : OpSA)
  /-- ATOM_ADD_PEER (R179): slot S, OP 0xD0. -/
  | atomAddPeer (o : OpSA)
  /-- ATOM_AND_PEER (R179): slot S, OP 0xD1. -/
  | atomAndPeer (o : OpSA)
  /-- ATOM_OR_PEER (R179): slot S, OP 0xD2. -/
  | atomOrPeer (o : OpSA)
  /-- ATOM_XOR_PEER (R179): slot S, OP 0xD3. -/
  | atomXorPeer (o : OpSA)
  /-- ATOM_MINS_PEER (R179): slot S, OP 0xD4. -/
  | atomMinsPeer (o : OpSA)
  /-- ATOM_MINZ_PEER (R179): slot S, OP 0xD5. -/
  | atomMinzPeer (o : OpSA)
  /-- ATOM_MAXS_PEER (R179): slot S, OP 0xD6. -/
  | atomMaxsPeer (o : OpSA)
  /-- ATOM_MAXZ_PEER (R179): slot S, OP 0xD7. -/
  | atomMaxzPeer (o : OpSA)
  /-- ATOM_SWAP_PEER (R179): slot S, OP 0xD8. -/
  | atomSwapPeer (o : OpSA)
  /-- ATOM_CAS_PEER (R179): slot S, OP 0xD9. -/
  | atomCasPeer (o : OpSA)
  /-- BAR_INIT (R182): slot S, OP 0xE0. -/
  | barInit (o : OpBR)
  /-- BAR_ARRIVE (R182): slot S, OP 0xE1. -/
  | barArrive (o : OpBR)
  /-- BAR_WAIT (R184): slot S, OP 0xE2. -/
  | barWait (o : OpBR)
  /-- BAR_TEST (R182): slot S, OP 0xE3. -/
  | barTest (o : OpBR)
  /-- VNOP (R124): slot V, OP 0x00. -/
  | vnop (o : OpNT)
  /-- VADD (R202): slot V, OP 0x01. -/
  | vadd (o : OpVRRR)
  /-- VSUB (R202): slot V, OP 0x02. -/
  | vsub (o : OpVRRR)
  /-- VMUL (R202): slot V, OP 0x03. -/
  | vmul (o : OpVRRR)
  /-- VMULH (R202): slot V, OP 0x04. -/
  | vmulh (o : OpVRRR)
  /-- VMIN (R202): slot V, OP 0x05. -/
  | vmin (o : OpVRRR)
  /-- VMAX (R202): slot V, OP 0x06. -/
  | vmax (o : OpVRRR)
  /-- VADDS (R202): slot V, OP 0x07. -/
  | vadds (o : OpVRRR)
  /-- VSUBS (R202): slot V, OP 0x08. -/
  | vsubs (o : OpVRRR)
  /-- VAVG (R202): slot V, OP 0x09. -/
  | vavg (o : OpVRRR)
  /-- VABS (R202): slot V, OP 0x0A. -/
  | vabs (o : OpVRRR)
  /-- VNEG (R202): slot V, OP 0x0B. -/
  | vneg (o : OpVRRR)
  /-- VMOV (R202): slot V, OP 0x0C. -/
  | vmov (o : OpVRRR)
  /-- VAND (R203): slot V, OP 0x10. -/
  | vand (o : OpVRRR)
  /-- VOR (R203): slot V, OP 0x11. -/
  | vor (o : OpVRRR)
  /-- VXOR (R203): slot V, OP 0x12. -/
  | vxor (o : OpVRRR)
  /-- VANDN (R203): slot V, OP 0x13. -/
  | vandn (o : OpVRRR)
  /-- VNOT (R203): slot V, OP 0x14. -/
  | vnot (o : OpVRRR)
  /-- VSHL (R204): slot V, OP 0x18. -/
  | vshl (o : OpVRRR)
  /-- VSHR (R204): slot V, OP 0x19. -/
  | vshr (o : OpVRRR)
  /-- VSHRR (R204): slot V, OP 0x1A. -/
  | vshrr (o : OpVRRR)
  /-- VSHL_IMM (R204): slot V, OP 0x1C. -/
  | vshlImm (o : OpVI)
  /-- VSHR_IMM (R204): slot V, OP 0x1D. -/
  | vshrImm (o : OpVI)
  /-- VSHRR_IMM (R204): slot V, OP 0x1E. -/
  | vshrrImm (o : OpVI)
  /-- VFADD (R205): slot V, OP 0x20. -/
  | vfadd (o : OpVRRR)
  /-- VFSUB (R205): slot V, OP 0x21. -/
  | vfsub (o : OpVRRR)
  /-- VFMUL (R205): slot V, OP 0x22. -/
  | vfmul (o : OpVRRR)
  /-- VFMA (R206): slot V, OP 0x23. -/
  | vfma (o : OpVF)
  /-- VFMIN (R207): slot V, OP 0x24. -/
  | vfmin (o : OpVRRR)
  /-- VFMAX (R207): slot V, OP 0x25. -/
  | vfmax (o : OpVRRR)
  /-- VFABS (R207): slot V, OP 0x26. -/
  | vfabs (o : OpVRRR)
  /-- VFNEG (R207): slot V, OP 0x27. -/
  | vfneg (o : OpVRRR)
  /-- VEXP2 (R208): slot V, OP 0x28. -/
  | vexp2 (o : OpVRRR)
  /-- VRCP (R208): slot V, OP 0x29. -/
  | vrcp (o : OpVRRR)
  /-- VCMP_EQ (R209): slot V, OP 0x30. -/
  | vcmpEq (o : OpVK)
  /-- VCMP_NE (R209): slot V, OP 0x31. -/
  | vcmpNe (o : OpVK)
  /-- VCMP_LT (R209): slot V, OP 0x32. -/
  | vcmpLt (o : OpVK)
  /-- VCMP_LE (R209): slot V, OP 0x33. -/
  | vcmpLe (o : OpVK)
  /-- KAND (R210): slot V, OP 0x38. -/
  | kand (o : OpKK)
  /-- KOR (R210): slot V, OP 0x39. -/
  | kor (o : OpKK)
  /-- KXOR (R210): slot V, OP 0x3A. -/
  | kxor (o : OpKK)
  /-- KANDN (R210): slot V, OP 0x3B. -/
  | kandn (o : OpKK)
  /-- KNOT (R210): slot V, OP 0x3C. -/
  | knot (o : OpKK)
  /-- VSEL (R211): slot V, OP 0x40. -/
  | vsel (o : OpVRRR)
  /-- VPERM (R212): slot V, OP 0x41. -/
  | vperm (o : OpVRRR)
  /-- VBCAST (R213): slot V, OP 0x42. -/
  | vbcast (o : OpVI)
  /-- VBCAST_G (R213): slot V, OP 0x43. -/
  | vbcastG (o : OpVG)
  /-- VSLIDE_UP (R214): slot V, OP 0x44. -/
  | vslideUp (o : OpVI)
  /-- VSLIDE_DN (R214): slot V, OP 0x45. -/
  | vslideDn (o : OpVI)
  /-- VROTM (R215): slot V, OP 0x46. -/
  | vrotm (o : OpVI)
  /-- VSPLAT (R213): slot V, OP 0x47. -/
  | vsplat (o : OpVI)
  /-- VREDSUM (R216): slot V, OP 0x50. -/
  | vredsum (o : OpVRRR)
  /-- VREDMAX (R216): slot V, OP 0x51. -/
  | vredmax (o : OpVRRR)
  /-- VREDMIN (R216): slot V, OP 0x52. -/
  | vredmin (o : OpVRRR)
  /-- VCVT (R217): slot V, OP 0x58. -/
  | vcvt (o : OpVC)
  /-- VCVT_W (R217): slot V, OP 0x59. -/
  | vcvtW (o : OpVC)
  /-- VCVT_N (R217): slot V, OP 0x5A. -/
  | vcvtN (o : OpVC)
  /-- VKPACK (R219): slot V, OP 0x60. -/
  | vkpack (o : OpVRRR)
  /-- VKUNPK (R220): slot V, OP 0x61. -/
  | vkunpk (o : OpVRRR)
  /-- VRQ (R221): slot V, OP 0x62. -/
  | vrq (o : OpVRRR)
  /-- MNOP (R125): slot M, OP 0x00. -/
  | mnop (o : OpN)
  /-- MPUSH_V (R227): slot M, OP 0x01. -/
  | mpushV (o : OpMP)
  /-- MPUSH_SP (R227): slot M, OP 0x02. -/
  | mpushSp (o : OpMP)
  /-- MPUSH_W (R228): slot M, OP 0x03. -/
  | mpushW (o : OpMP)
  /-- MSWAP (R229): slot M, OP 0x04. -/
  | mswap (o : OpN)
  /-- MACC_V (R230): slot M, OP 0x08. -/
  | maccV (o : OpMA)
  /-- MACC_SP (R230): slot M, OP 0x09. -/
  | maccSp (o : OpMA)
  /-- MSHIFT (R231): slot M, OP 0x0A. -/
  | mshift (o : OpMT)
  /-- MZERO (R231): slot M, OP 0x0B. -/
  | mzero (o : OpMT)
  /-- MDRAIN (R232): slot M, OP 0x0C. -/
  | mdrain (o : OpMD)
  /-- MDRAIN_CP (R233): slot M, OP 0x0D. -/
  | mdrainCp (o : OpMC)
  /-- MKAT (R234): slot M, OP 0x0E. -/
  | mkat (o : OpMK)
  /-- CNOP (R126): slot C, OP 0x00. -/
  | cnop (o : OpNT)
  /-- VLD_LOC (R170): slot C, OP 0x01. -/
  | vldLoc (o : OpCM)
  /-- VST_LOC (R170): slot C, OP 0x02. -/
  | vstLoc (o : OpCM)
  /-- VLD_CLU (R170): slot C, OP 0x03. -/
  | vldClu (o : OpCM)
  /-- VST_CLU (R170): slot C, OP 0x04. -/
  | vstClu (o : OpCM)
  /-- VLD_DEV (R170): slot C, OP 0x05. -/
  | vldDev (o : OpCM)
  /-- VST_DEV (R170): slot C, OP 0x06. -/
  | vstDev (o : OpCM)
  /-- VLD_PEER (R170): slot C, OP 0x07. -/
  | vldPeer (o : OpCM)
  /-- VST_PEER (R170): slot C, OP 0x08. -/
  | vstPeer (o : OpCM)
  /-- VLD_HOST (R170): slot C, OP 0x09. -/
  | vldHost (o : OpCM)
  /-- VST_HOST (R170): slot C, OP 0x0A. -/
  | vstHost (o : OpCM)
  /-- VLD_KV (R171): slot C, OP 0x0B. -/
  | vldKv (o : OpCM)
  /-- VST_KV (R171): slot C, OP 0x0C. -/
  | vstKv (o : OpCM)
  /-- CP_GO (R243): slot C, OP 0x10. -/
  | cpGo (o : OpCE)
  /-- CP_ADV (R244): slot C, OP 0x11. -/
  | cpAdv (o : OpNT)
  /-- CP (R240): slot C, OP 0x12. -/
  | cp (o : OpCE)
  /-- CP_TSR (R242): slot C, OP 0x13. -/
  | cpTsr (o : OpCE)
  /-- GATH_KV (R247): slot C, OP 0x14. -/
  | gathKv (o : OpCE)
  /-- ROT_CLU (R185): slot C, OP 0x15. -/
  | rotClu (o : OpCE)
  /-- RED_ADD (R186): slot C, OP 0x16. -/
  | redAdd (o : OpCE)
  /-- KV_BIND (R246): slot C, OP 0x18. -/
  | kvBind (o : OpCE)
  /-- PFX_HASH (R256): slot C, OP 0x20. -/
  | pfxHash (o : OpCP)
  /-- PFX_LOOK (R257): slot C, OP 0x21. -/
  | pfxLook (o : OpCP)
  /-- PFX_CMP (R258): slot C, OP 0x22. -/
  | pfxCmp (o : OpCP)
  /-- PFX_INS (R259): slot C, OP 0x23. -/
  | pfxIns (o : OpCP)
  /-- PFX_PIN (R260): slot C, OP 0x24. -/
  | pfxPin (o : OpCP)
  /-- PFX_UNPIN (R260): slot C, OP 0x25. -/
  | pfxUnpin (o : OpCP)
  /-- LNOP (R162): slot L, OP 0x00. -/
  | lnop (o : OpN)
  /-- BR (R150): slot L, OP 0x01. -/
  | br (o : OpLB)
  /-- CALL (R150): slot L, OP 0x02. -/
  | call (o : OpLB)
  /-- JMP (R150): slot L, OP 0x03. -/
  | jmp (o : OpLR)
  /-- CALL_R (R150): slot L, OP 0x04. -/
  | callR (o : OpLR)
  /-- LOOP (R152): slot L, OP 0x05. -/
  | loop (o : OpLB)
  /-- LOOP_MOD (R153): slot L, OP 0x06. -/
  | loopMod (o : OpLB)
  /-- SLEEP_DUE (R154): slot L, OP 0x08. -/
  | sleepDue (o : OpN)
  /-- SLEEP_N (R155): slot L, OP 0x09. -/
  | sleepN (o : OpLR)
  /-- FUSE (R157): slot L, OP 0x0A. -/
  | fuse (o : OpN)
  /-- DECOUPLE (R157): slot L, OP 0x0B. -/
  | decouple (o : OpN)
  /-- REJOIN (R157): slot L, OP 0x0C. -/
  | rejoin (o : OpN)
  /-- BRK (R160): slot L, OP 0x10. -/
  | brk (o : OpLI)
  /-- SYS (R160): slot L, OP 0x11. -/
  | sys (o : OpLI)
  /-- ERET (R161): slot L, OP 0x12. -/
  | eret (o : OpN)
  /-- TASK_SPAWN (R192): slot L, OP 0x18. -/
  | taskSpawn (o : OpLR)
  /-- TASK_SIG (R192): slot L, OP 0x19. -/
  | taskSig (o : OpLR)
  /-- TASK_YIELD (R192): slot L, OP 0x1A. -/
  | taskYield (o : OpN)
  /-- TASK_END (R192): slot L, OP 0x1B. -/
  | taskEnd (o : OpN)
  /-- CREW_SYNC (R191): slot L, OP 0x1C. -/
  | crewSync (o : OpN)
  /-- ASN_RETIRE (R194): slot L, OP 0x1D. -/
  | asnRetire (o : OpLR)
  /-- FENCE_Q (R189): slot L, OP 0x20. -/
  | fenceQ (o : OpLI)
  /-- FENCE_PEER (R190): slot L, OP 0x21. -/
  | fencePeer (o : OpN)
  /-- FENCE_HOST (R190): slot L, OP 0x22. -/
  | fenceHost (o : OpN)
  /-- LNS_TMPL (R249): slot L, OP 0x28. -/
  | lnsTmpl (o : OpLR)
  /-- LNS_LVL (R249): slot L, OP 0x29. -/
  | lnsLvl (o : OpLR)
  /-- LNS_RUN (R250): slot L, OP 0x2A. -/
  | lnsRun (o : OpN)
  /-- LNS_RESUME (R253): slot L, OP 0x2B. -/
  | lnsResume (o : OpLR)
  /-- LNS_ABORT (R253): slot L, OP 0x2C. -/
  | lnsAbort (o : OpN)
deriving DecidableEq, Repr

end Sys2Proof
end

