-- ==== Sys2Proof/Machine/State.lean ====
section
/-!
DEFINITION. State: everything the spec gives the machine, as plain data; the fault and refusal reasons; and
`State.reset`, the machine right after module reset (R7, R388).
-/
namespace Sys2Proof.Machine

/-- Reasons for which the machine stops. -/
inductive Fault where
  /-- Raised by no instruction of this model: every event the spec describes has a next state (safe). -/
  | stuck
deriving DecidableEq, Repr

/-- Reasons for which an instruction has no meaning here. -/
inductive Refusal where
  /-- Raised by an arm of `exec` that is not written yet (safe: nothing can be proved of its next state). -/
  | notModelled (mnemonic : String)
deriving DecidableEq, Repr

/-! ## Registers of one context (Table 04-1) -/

/-- A g register: 64 bits and a residue, code 15 untracked (R77). -/
structure GVal where
  val : Word := 0
  res : BitVec 4 := 0
deriving DecidableEq, Repr

/-- A v register: 1,024 bits and 32 lane residues; residue j is bits 4j+3..4j of `res` (R81). -/
structure VVal where
  val : BitVec 1024 := 0
  res : BitVec 128 := 0
deriving DecidableEq, Repr

/-- A bypass latch (R85): its bits, the residue a scalar read takes, and the lane residues a vector read takes. -/
structure Latch where
  val : BitVec 1024 := 0
  sres : BitVec 4 := 0
  vres : BitVec 128 := 0
deriving DecidableEq, Repr

/-- A word of the spill store (R93): written by `sp.st` with one residue, or by `sp.vst` with two lane residues. -/
structure SpillWord where
  val : Word := 0
  scalar : Bool := true
  r0 : BitVec 4 := 0
  r1 : BitVec 4 := 0
  /-- it holds an uncorrectable error (R391) -/
  bad : Bool := false
deriving DecidableEq, Repr

/-- The control registers that hold a value of their own (Table 04-4). `%clock`, `%flags` bits 38 to 32, `%place`
and the module number are computed where they are read. -/
structure Ctl where
  due : Word := 0
  evt : BitVec 32 := 0
  resFlag : Bool := false
  seqlen : BitVec 32 := 0
  fcause : Word := 0
  faddr : Word := 0
  fbundle : BitVec 56 := 0
  job : BitVec 12 := 0
  record : BitVec 49 := 0
  rseed : Word := 0
  mstat : BitVec 8 := 0
  lc : BitVec 32 := 0
  stage : BitVec 16 := 0
  tvec : BitVec 56 := 0
  fused : Bool := false
  crewM1 : BitVec 3 := 0
  member : BitVec 3 := 0
  alarm : Word := 0
  watch : BitVec 56 := 0
  intrap : Bool := false
  spillSize : BitVec 16 := 0
  fdata : Word := 0
deriving DecidableEq, Repr

/-- Fault causes (Table 04-9), in code order from 0x01. -/
inductive Cause where
  | illBundle | illOp | illOperand | fetchNr | fetchProt | extentMiss | prot | sealed | computeOnly | mixsize
  | feRetry | missedPromise | kvFault | kvShared | residue | asnBusy | katMismatch | spillRange | brk | sys
  | watch | timer
deriving DecidableEq, Repr

/-- A fault as it is reported: cause, slot code, `%faddr`, `%fdata`, the bundle `%fbundle` names and its length. -/
structure FaultInfo where
  cause : Cause
  slot : Nat
  addr : Nat := 0
  data : Nat := 0
  pc : BitVec 56 := 0
  len : Nat := 0
  /-- `%clock` at the event (R307) -/
  tick : Nat := 0
deriving DecidableEq, Repr

/-- An exact value (R70): m × 2^e, minus zero, an infinity or NaN. -/
inductive XNum where
  | fin (m e : Int)
  | negZero
  | inf (neg : Bool)
  | nan
deriving DecidableEq, Repr

/-- Format tag of a stationary buffer (Table 09-1). -/
inductive BufTag where
  | none | s4 | z4 | e2 | k4o | s8 | z8 | e4 | e5 | hf | bf
deriving DecidableEq, Repr

/-- A stationary buffer (R222, R225): rows by index (an unlisted row is zero), tag, SEALED mark, and the list of
`mpush.w` addresses and rows that filled it; `mixed` marks one of whose rows another push wrote (R360). A K4O row holds its block's
metadata in bits 31..0 and its payload above. `bad` lists its 64-bit words that hold an uncorrectable error (R391): word k of row r is
16 r + k. -/
structure Buffer where
  rows : FMap (BitVec 1024) := []
  tag : BufTag := .none
  sealed : Bool := false
  fills : List (Nat × Nat) := []
  mixed : Bool := false
  bad : List Nat := []
deriving DecidableEq, Repr

/-- What an entry of the in-flight table does at its readable cycle (R267, R359). -/
inductive FlightOp where
  | g (n : Nat) (v : GVal)
  | v (n : Nat) (v : VVal)
  | k (n : Nat) (m : BitVec 256)
  | q (mask val : BitVec 8)
  | latchOnly
  | macc (tile row : Nat) (fp : Bool) (sums : List XNum) (nv : Bool)
  | mshift (tile : Nat)
  | mzero (tile : Nat)
  | push (rows : List (Nat × BitVec 1024)) (tag : Option BufTag) (isSealed : Bool) (src : Option (Nat × Nat))
  | mkat (chk : Word) (bad : Bool)
deriving DecidableEq, Repr

/-- A place a command reads or writes: a scratchpad byte (reached as LOCAL or as CLUSTER), a physical byte, a peer or a
host byte, or zeros. -/
inductive Place where
  | loc (key : Nat)
  | clu (key : Nat)
  | dev (pa : Nat)
  | peer (mod va : Nat)
  | host (port addr : Nat)
  | zero
deriving DecidableEq, Repr

/-- A read of the prefix table as it is performed again (R358): the bundle's bytes, the place of its word there and the operands that
it read. -/
structure Redo where
  bytes : List Byte
  word : Nat
  g : FMap GVal
  x : FMap Latch
  q : BitVec 8
deriving DecidableEq, Repr

/-- How the access of a result that has not landed at a power loss is issued again (R358): its bytes, 0 for a vector or the byte
count of a scalar, with 16 added where it is sign-extended, the operation of an atomic with its operand and expected value, of
a decoding load the type of its elements, none for K4O blocks, with that of its lanes, and of a read of the prefix table `redo`. -/
structure Again where
  places : List (Place × Nat)
  how : Nat
  atom : Option (AtomOp × Nat × Nat) := none
  dec : Option (Option Ty × Ty) := none
  redo : Option Redo := none
deriving DecidableEq, Repr

/-- An entry of the in-flight table (R267): the operation, the latch it still may write (R86), the cycles left, whether
they are core cycles of a sequencer template (R251), and, for a promised load, the tick its data lands (R270). `missed` is set
once its missed promise has been counted. `ord` is its place in the order of issue among interlocked results: those whose identity is
lower were issued before it, and it replaces them if both arrive in one cycle (R87). -/
structure Flight where
  op : FlightOp
  latch : Option (Nat × Latch) := none
  left : Nat
  coreCount : Bool := false
  lands : Option Nat := none
  again : Option Again := none
  missed : Bool := false
  ord : Nat := 0
deriving DecidableEq, Repr

/-- A register named by an instruction, for the waits of R201. -/
inductive RegName where
  | g (n : Nat) | v (n : Nat) | k (n : Nat)
deriving DecidableEq, Repr

/-- What an interlocked result waits for (R201). -/
inductive PendKind where
  /-- a value already read, landing at a tick -/
  | value (v : BitVec 1024) (res tick : Nat)
  /-- a value landing after so many cycles of the core (R271) -/
  | cycles (v : BitVec 1024) (res left : Nat)
  /-- a PEER request with this sequence number -/
  | peer (seq : Nat)
  /-- a walk of `pagein` for a virtual address -/
  | walk (va tick : Nat)
  /-- the sweep of a retiring ASN, ending at a tick -/
  | sweep (asn tick : Nat)
  /-- an action that follows the PEER accesses of earlier slots of its bundle (R192, R333): the bundle's bytes, the place of the word
  among its words, and the operands as it read them -/
  | later (bytes : List Byte) (word : Nat) (g : FMap GVal) (x : FMap Latch) (q : BitVec 8)
deriving DecidableEq, Repr

/-- An interlocked result in flight. `k15` is the lane count a non-resident vector load sets in k15 (R172). -/
structure Pend where
  id : Nat
  reg : Option RegName
  kind : PendKind
  latch : Option Nat := none
  vec : Bool := false
  again : Option Again := none
deriving DecidableEq, Repr

/-- A KV binding (R246, R338): the descriptor's address and the copies of descriptor and geometry. -/
structure KvBind where
  desc : Nat
  w : List Word
  geom : List Word
deriving DecidableEq, Repr

/-- What a context is doing (R273). -/
inductive Mode where
  | run
  | wait
  | hold
  | sleep (tick : Nat) (check : Bool)
  | fuseWait
  | frozen
  | ended
deriving DecidableEq, Repr

/-- Where a full/empty word lies: a scratchpad key or a physical address. -/
inductive Word64 where
  | loc (key : Nat)
  | dev (pa : Nat)
deriving DecidableEq, Repr

/-- What the S slot of a held bundle asks of its home (R174 to R176, R184), with its operands as read at presentation. -/
inductive HoldReq where
  /-- a full/empty form: the word, the form, the store data, the address FE_RETRY reports, and the space code -/
  | fe (w : Word64) (form : Form) (data : Word) (addr space : Nat)
  /-- `bar.wait`: the barrier's key, the phase waited past, and the limit tick -/
  | bar (key phase : Nat) (limit : Option Nat)
deriving DecidableEq, Repr

/-- What the L slot of a held bundle waits for (R189 to R192). -/
inductive HoldL where
  | fenceQ (mask : Nat)
  | fencePeer
  | fenceHost
  | crewSync
  | taskEnd
deriving DecidableEq, Repr

/-- A held bundle (R175): the tick of its presentation, `%flags` as read then, what its slots wait for, and the value that
the S slot's home has returned. `was` holds the word's bytes and its bit before the form was performed, and `synced` says that a `crew.sync`
has been released (R191). -/
structure Hold where
  presented : Nat
  flags : Word := 0
  req : Option HoldReq := none
  lreq : Option HoldL := none
  got : Option Word := none
  was : Option (List Byte × Bool) := none
  synced : Bool := false
  /-- the retry budget of the job in ticks (R176) -/
  budget : Nat := 0
  /-- the registers that the slots read at presentation (R175) -/
  g : FMap GVal := []
  v : FMap VVal := []
  k : FMap (BitVec 256) := []
  q : BitVec 8 := 0
  /-- the bundle's bytes -/
  bytes : List Byte := []
deriving DecidableEq, Repr

/-- What a slot asks for at the end of its bundle. -/
inductive After where
  | none
  | sleepDue
  | sleepTo (tick : Nat)
  | fuse
  | decouple
  | yield_
  | endStrand
  | eret
deriving DecidableEq, Repr

/-- The registers and pipelines of one strand: what a pre-emption saves (R303 step 4). -/
structure Strand where
  g : FMap GVal := []
  v : FMap VVal := []
  k : FMap (BitVec 256) := []
  b : FMap Word := []
  q : BitVec 8 := 0
  acc : FMap (BitVec 32) := []
  /-- the 64-bit words of its tiles that hold an uncorrectable error (R391), each two elements: half the key of the first -/
  accBad : List Nat := []
  ctl : Ctl := {}
  spill : FMap SpillWord := []
  pc : BitVec 56 := 0
  /-- the empty cycles that the last bundle still has to run (R100, R151), and what it asked for at its end -/
  owed : Nat := 0
  asked : After := .none
  flight : List Flight := []
  pend : List Pend := []
  active : Buffer := {}
  shadow : Buffer := {}
  kv : Option KvBind := none
  schedNext : Nat := 0
  schedDone : Bool := false
  promises : FMap Nat := []
  mode : Mode := .run
  ended : Bool := false
  kat : Option Word := none
  lnsFault : Option FaultInfo := none
  /-- the limit tick of a `bar.wait` that a pre-emption interrupted, with its bundle (R184) -/
  barLimit : Option (BitVec 56 × Nat) := none
  syncs : Nat := 0
  rots : Nat := 0
deriving DecidableEq, Repr

/-- A run of a strand's run table (R299). Sizes are in bytes. `page` is the size of its first leaf; `pages` lists where in the run
leaves of another size begin, and their size. `drops` saturates at 65,535 (R172). -/
structure Run where
  va : Nat
  size : Nat
  page : Nat := 4096
  pages : List (Nat × Nat) := []
  pa : Nat := 0
  resident : Bool := false
  r : Bool := false
  w : Bool := false
  x : Bool := false
  fe : Bool := false
  efmt : Nat := 0
  bgeo : Nat := 0
  lclass : Nat := 0
  isSealed : Bool := false
  co : Bool := false
  drops : Nat := 0
deriving DecidableEq, Repr

/-- An outstanding PEER request (R325, R395): destination module, what it asks, last transmission, retransmissions,
the interlocked result or the command it serves, where a command's load lands, the number of sectors that its answer alone
settles, and the destination sectors that it shares with other requests of its command. `waiting` holds a request back: until
its strand's earlier request to that module has ended (R323), or until fewer than 4,096 are unacknowledged (R325). `id` is its
identity, which rises in the order of issue. -/
structure OutReq where
  tag : Tag
  mod : Nat
  op : ShardOp
  sent : Nat
  tries : Nat
  cx : Nat
  pend : Option Nat
  cmd : Option Nat
  port : Nat
  tracked : Bool := true
  dst : Option Place := none
  sectors : Nat := 0
  dfe : Bool := true
  secs : List (Nat × Nat) := []
  waiting : Bool := false
  id : Nat := 0
deriving DecidableEq, Repr

/-- A hardware context (R74): the strand bound to it and what belongs to the place, not to the strand. -/
structure Ctx where
  task : Option Nat := none
  st : Strand := {}
  x : FMap Latch := []
  runs : List Run := []
  rowBase : Nat := 0
  rows : Nat := 0
  tiles : Nat := 0
  cyc : Nat := 0
  hold : Option Hold := none
  fetchBase : Nat := 0
  fetchBuf : List Byte := []
  fetchAt : Option Nat := none
  atBoundary : Bool := true
  eligFor : Nat := 0
  dormant : Bool := false
  dawnHeld : Bool := false
  freeze : Bool := false
  /-- a stall of its bundle is in progress, to be completed before a freeze (R303) -/
  inStall : Bool := false
  probe : Option Nat := none
  probed : Bool := false
  /-- `%flags` as an unsatisfied wait's test saw them (R102) -/
  waitFlags : Word := 0
  /-- event bits that engines set in tick `evtTick`, which a program's clear in that tick does not undo (R89) -/
  evtNow : BitVec 32 := 0
  evtTick : Nat := 0
  /-- `%mstat` flags that results of earlier bundles set in tick `mstatTick`, which a program's write in that tick does not undo (R87) -/
  mstatNow : BitVec 8 := 0
  mstatTick : Nat := 0
  /-- registers and latches in which interlocked results have landed in the current cycle of the core, with the identity of each
  (R87) -/
  landRegs : List (RegName × Nat) := []
  landLatches : List (Nat × Nat) := []
  /-- set in a strand that a Dawn has restored until its context cycle 1: the PEER requests that had no answer, issued again then with
  its other unlanded accesses (R358, R362) -/
  reissue : Option (List OutReq) := none
deriving DecidableEq, Repr

/-! ## Cores, clusters, dies -/

/-- State of a loop-nest sequencer (R248). -/
inductive LnsMode where
  | idle | running | stopped
deriving DecidableEq, Repr

/-- A template record (Table 09-10): the three slot words, EN, GTY, GROW and GCOORD. -/
structure Tmpl where
  mw : Nat := 0
  v0w : Nat := 0
  v1w : Nat := 0
  en : Nat := 0
  gty : Nat := 0
  grow : Nat := 0
  gcoord : Nat := 0
deriving DecidableEq, Repr

/-- A loop-nest sequencer (R248 to R253). -/
structure Lns where
  mode : LnsMode := .idle
  owner : Option Nat := none
  tmpl : FMap Tmpl := []
  lvl : FMap (Nat × Nat) := []
  rra : Nat := 0
  cnt : List Nat := [0, 0, 0, 0, 0, 0]
  trips : List Nat := [1, 1, 1, 1, 1, 1]
  slot : Nat := 0
  pair : Nat × Nat := (0, 0)
deriving DecidableEq, Repr

/-- A core: its selector, clock gating (R273, R274), divider (R134) and sequencer. `kept` is set while the running context has
not given up the issue width since it was chosen; `seen` holds `%flags` of the core's contexts as they stood when it was gated. -/
structure Core where
  running : Nat := 0
  kept : Bool := true
  seen : List Word := []
  gated : Bool := false
  wakeIn : Nat := 0
  divBusy : Nat := 0
  lns : Lns := {}
  working : Bool := true
  gatedSince : Nat := 0
deriving DecidableEq, Repr

/-- Cluster power states (Table 18-1, Table 18-3). -/
inductive ClusterMode where
  | active | doze | night | nightfall | daybreak
deriving DecidableEq, Repr

/-- A cluster (R364 to R368). `since` is the tick at which it entered DOZE or became fully gated; `timer` is the tick
at which a Nightfall in progress ends or a Daybreak has restored the cluster; `waking` holds one of the four places of its
die's Daybreak controller (R371); `spilled` is the save space that its dormant strands hold (R370). -/
structure Cluster where
  mode : ClusterMode := .night
  eff : BitVec 16 := 0
  target : BitVec 16 := 0xFFFF
  since : Nat := 0
  timer : Nat := 0
  waking : Bool := false
  spilled : Nat := 0
deriving DecidableEq, Repr

/-- A thermal region (Table 18-6). -/
structure Therm where
  d : BitVec 32 := 0
  temp : BitVec 16 := 0
  allow : BitVec 12 := 256
  hard : Bool := false
  soft : Bool := false
  hardb : BitVec 32 := 1048576
  softb : BitVec 32 := 524288
  hardbWritten : Bool := false
deriving DecidableEq, Repr

/-- States of a model update (R384). -/
inductive MuMode where
  | idle | opened | staging | committing | done
deriving DecidableEq, Repr

/-- A journal entry of a bank (R384): destination page, journal page, the page's CRC-32C (which no rule reads), its seal tag, and
whether a commit record covers it. -/
structure Journal where
  txn : Nat
  dest : Nat
  page : Nat
  crc : Nat
  sealTag : Nat
  committed : Bool := false
deriving DecidableEq, Repr

/-- The model-update unit of a die (Table 18-9). `failed` is set where an error has stopped the copy of a committed transaction
(R385). -/
structure Mu where
  txn : BitVec 16 := 0
  keyslot : Byte := 0
  src : BitVec 36 := 0
  dst : BitVec 36 := 0
  stxn : BitVec 16 := 0
  err : Byte := 0
  retries : Byte := 0
  staged : BitVec 16 := 0
  mode : MuMode := .idle
  wearlim : BitVec 32 := 4000000
  journal : List Journal := []
  doneAt : Nat := 0
  failed : Bool := false
deriving DecidableEq, Repr

/-- An entry of the prefix table (R255). -/
structure PfxEntry where
  valid : Bool := false
  asn : Nat := 0
  hash : Word := 0
  page : Nat := 0
  tok : Nat := 0
  use : BitVec 32 := 0
deriving DecidableEq, Repr

/-- A leaf as a walk yields it (Table 13-4). `size` is in bytes. -/
structure Leaf where
  va : Nat
  size : Nat
  pa : Nat
  r : Bool
  w : Bool
  x : Bool
  fe : Bool
  isSealed : Bool
  co : Bool
  bgeo : Nat
  efmt : Nat
  lclass : Nat
deriving DecidableEq, Repr

/-- An entry of the block translation buffer (R342). -/
structure BtbEntry where
  asn : Nat
  entryPa : Nat
  leaf : Leaf
deriving DecidableEq, Repr

/-- An entry of a park directory (R310): the word's physical address, the job, region indices in list order with the task and form
of each, and the tasks that a change of the bit allowed and that have not been requeued yet (R177, R311). -/
structure ParkList where
  job : Nat
  word : Nat
  items : List (Nat × Nat × Form)
  woken : List Nat := []
deriving DecidableEq, Repr

/-- A die: scheduler, translation unit, prefix table, error counters and limits. -/
structure Die where
  levels : FMap (List Nat) := []
  saveUsed : Nat := 0
  tlb : List (Nat × Leaf) := []
  /-- the walk caches: ASN, level of a table entry, VA bits from that level up, and the table it names (R298) -/
  walks : List (Nat × Nat × Nat × Nat) := []
  btb : List BtbEntry := []
  parks : FMap ParkList := []
  pfx : FMap PfxEntry := []
  useCtr : BitVec 32 := 0
  decide : Bool := false
  waking : List Nat := []
  /-- clusters whose wake has been requested and has not started, in order (R371) -/
  dayQueue : List Nat := []
  capCount : Nat := 16
  iest : BitVec 16 := 0
  ilim : BitVec 16 := 900
  mu : Mu := {}
  corr : Word := 0
  uncorr : Word := 0
  lastPa : BitVec 48 := 0
deriving DecidableEq, Repr

/-! ## Tasks -/

/-- STATE of a task record (Table 13-2). -/
inductive TaskState where
  | idle | held | ready | resident | parked | suspended | ended
deriving DecidableEq, Repr

/-- What a crew holds while it is saved (R303): the member's core index, its strand, its rows with those of their words that are
in error, and its sequencer. -/
structure SavedMember where
  core : Nat
  st : Strand
  rowBytes : FMap Byte
  rowFull : List Nat
  rowBad : List Nat := []
  lns : Option Lns
deriving DecidableEq, Repr

/-- Where a crew stands: die-relative cluster and, for each member, core, context and first row. -/
structure Placement where
  cluster : Nat
  members : List (Nat × Nat × Nat)
deriving DecidableEq, Repr

/-- What the scheduler is doing with a task. -/
inductive TaskPhase where
  | rest
  | binding
  | freezing (after : TaskState) (fault : Option FaultInfo) (member : Nat) (record : Bool)
  | saving (after : TaskState) (tick : Nat) (fault : Option FaultInfo) (member : Nat) (record : Bool)
deriving DecidableEq, Repr

/-- A task the scheduler knows, keyed by the physical address of its record (R283, R286). -/
structure Task where
  va : Nat
  asn : Nat
  job : Nat
  die : Nat
  prio : Nat
  level : Nat
  size : Nat
  acc : Nat
  rows : Nat
  spill : Nat
  keep : Bool
  code : Nat
  sched : Nat
  extents : List Word
  succ : Nat
  nsucc : Nat
  state : TaskState
  phase : TaskPhase := .rest
  place : Option Placement := none
  saved : Option (List SavedMember) := none
  /-- what is saved holds an uncorrectable error (R391) -/
  savedBad : Bool := false
  readyAt : Nat := 0
  boundAt : Nat := 0
  bindAt : Nat := 0
  victims : List Nat := []
  runs : List Run := []
  stream : Option StreamId := none
  fuseUp : Bool := false
  parkWord : Option Nat := none
  /-- the job's record, W0 to W7, as the scheduler last read it (R280) -/
  jrec : List Word := []
deriving DecidableEq, Repr

/-- A fault record waiting for its queue slot (R307). -/
structure FaultRecord where
  kind : Nat
  cause : Nat
  slot : Nat
  len : Nat
  member : Nat
  task : Nat
  record : Nat
  addr : Nat
  data : Nat
  bundle : Nat
  tick : Nat
  place : Nat
deriving DecidableEq, Repr

/-! ## Engine commands -/

/-- One contiguous piece of a command's movement, and whether the words of each side carry full/empty bits (R240). -/
structure Piece where
  src : Place
  dst : Place
  n : Nat
  sfe : Bool := true
  dfe : Bool := true
deriving DecidableEq, Repr

/-- What a command does when it is performed (R321). -/
inductive CmdKind where
  /-- bytes moved, after some are zeroed; `fe` moves the full/empty bits of words with them (R240, R242) -/
  | move (zeros pieces : List Piece) (fe : Bool)
  /-- tokens gathered: the key of each token's first row and where its vector lies, none for a masked token; elements in a
  vector, format of the page, and lane type (R247) -/
  | gather (rows : List (Nat × Option Nat)) (hd efmt : Nat) (sk : Bool) (ty : Ty)
  /-- rows of converted tile elements stored, or added at their homes: the places of a row's bytes, and the bytes (R233); `lost`
  names the sectors of elements that could not be read (R392) -/
  | drain (rows : List (List (Place × Nat) × List Byte)) (ty : Ty) (add : Bool) (lost : List (Nat × Nat))
  /-- a row added into a line, and counted toward a flag word (R186) -/
  | reduce (ty : Ty) (row : Nat) (line : Place) (flag : Option Place) (cnt : Nat)
  /-- the k-th rotation of a member: first row, rows, direction (R185) -/
  | rotate (index first n : Nat) (down : Bool)
  /-- nothing moves; every sector settles with the command's code -/
  | settle
deriving DecidableEq, Repr

/-- A command in a queue (R183, R188, R238). `barrier` is the scratchpad key of its barrier. -/
structure Cmd where
  id : Nat
  cx : Nat
  queue : Nat
  kind : CmdKind
  barrier : Option Nat
  sectors : Nat
  code : Nat := 0
  promised : Nat
  doneAt : Nat
  evt : Option Nat := none
  isCopy : Bool := true
  /-- it has been performed, and its PEER requests have been sent -/
  started : Bool := false
  /-- destination sectors that an answered request has failed and another has still to answer, with the code -/
  errs : List ((Nat × Nat) × Nat) := []
  /-- what it has written so far while answers are outstanding -/
  written : List Piece := []
  /-- the pieces that answers have brought, with their bytes, none where the answer failed: each waits for the other answers of its
  sector (R389) -/
  arrived : List (Piece × Option (List Byte)) := []
deriving DecidableEq, Repr

/-- A reduction round at its home (R187). -/
structure RedRound where
  line : Nat
  flag : Nat
  count : Nat
  cnt : Nat
deriving DecidableEq, Repr

/-- A recorded store or probe for MIXTRAP (R329): its size as R329 codes it, and the bytes that it covers. -/
structure MixRecord where
  strand : Nat
  addr : Nat
  size : Nat
  len : Nat
  tick : Nat
  probe : Bool
deriving DecidableEq, Repr

/-! ## Host side -/

/-- An open indirect buffer, level 1 or 2 of a stream (R20, R33): the space its packets are read from, the next address, its
end, and the predicate (R28). -/
structure Level where
  sp : PkSpace
  pos : Nat
  stop : Nat
  pred : Bool := true
deriving DecidableEq, Repr

/-- An active pk.loop (R32): its level, where the body starts, the body's bytes (none where one carries an uncorrectable
error), the passes left, and the offset of the next packet in the body. -/
structure LoopState where
  level : Nat
  start : Nat
  body : List (Option Byte)
  left : Nat
  at_ : Nat
deriving DecidableEq, Repr

/-- What the packet in progress waits for: the reads of pk.waitmem at 4,096-tick intervals, the last at the limit tick (R31);
the tasks of pk.signal (R35); or the completion of a HOST write, at a tick (R43). -/
inductive StreamWait where
  | none
  | waitmem (h : PkH) (sp : PkSpace) (cmp : PkCmp) (addr mask value : Word) (next : Nat) (limit : Option Nat)
  | signal (h : PkH) (sp : PkSpace) (force : Bool) (addr value : Word)
  | hostWrite (h : PkH) (due : Nat) (ok : Bool)
deriving DecidableEq, Repr

/-- A stream head: the registers of Tables 01-5 to 01-11 (`base` holds BASE and SP, `level` is SH_STATUS.LEVEL) and the front
end's own state of the stream. `levels` holds levels above 0, the innermost first. `window` is the fetch window: the offset
of its first byte in the level, and its bytes (R39). `skipFrom` is set while RPTR has passed WPTR over the body of a pk.loop
that was not performed (R32): the offset of that pk.loop. -/
structure StreamHead where
  base : Word := 0
  wptr : Nat := 0
  rptr : Nat := 0
  log2 : Nat := 12
  errirq : Bool := false
  errvec : Byte := 0
  en : Bool := false
  level : Nat := 0
  halted : Bool := false
  err : Nat := 0
  erraddr : Word := 0
  job : BitVec 12 := 0xFFF
  done : BitVec 32 := 0
  levels : List Level := []
  pred0 : Bool := true
  loop : Option LoopState := none
  window : Option (Nat × List (Option Byte)) := none
  wait : StreamWait := .none
  skipFrom : Option Nat := none
deriving DecidableEq, Repr

/-- A PCIe function: its stream heads, MSI-X table and pending bits (R13). -/
structure Fn where
  heads : FMap StreamHead := []
  msix : FMap (BitVec 32) := []
  pending : Word := 0
deriving DecidableEq, Repr

/-- A semaphore (R16 to R18): owner, tick of the last claim, and what a same-cycle resolution needs. -/
structure Sem where
  owner : BitVec 2 := 0
  since : Nat := 0
  cycle : Option Nat := none
  owner0 : BitVec 2 := 0
  since0 : Nat := 0
  firstPort : Nat := 0
  firstCode : BitVec 2 := 0
deriving DecidableEq, Repr

/-- A raised MSI-X vector: the message of its table entry, as the host receives it. -/
structure Irq where
  port : Nat
  fn : Nat
  vec : Nat
  addr : Nat
  data : Nat
  tick : Nat
deriving DecidableEq, Repr

/-- The data of a completion that a port returns for a read or a FetchAdd of BAR 0 (R12, R13). -/
structure Completion where
  port : Nat
  fn : Nat
  off : Nat
  data : Word
deriving DecidableEq, Repr

/-- A message the management port sends (R19, R403). -/
inductive MgmtMsg where
  | mctp (cmd : Byte)
  | readData (off : Nat) (v : Word)
  | writeDone (off : Nat)
  | spdm (ch : Nat) (bytes : List Byte)
  | secured (ch : Nat) (bytes : List Byte)
  | alert (die region : Nat)
deriving DecidableEq, Repr

/-- The SPDM responder of one channel (R403): what has been negotiated, the transcripts of the negotiation (`vca`), of the certificates
and of the measurements, and the session: a handshake or an open one, its id, the secrets of its two directions, the records that each
has carried, the handshake's secret, and the handshake's transcript. -/
structure Spdm where
  versioned : Bool := false
  capable : Bool := false
  negotiated : Bool := false
  exchanging : Bool := false
  session : Bool := false
  vca : List Byte := []
  certs : List Byte := []
  measured : List Byte := []
  th : List Byte := []
  id : List Byte := []
  reqSecret : List Byte := []
  resSecret : List Byte := []
  handshake : List Byte := []
  reqSeq : Nat := 0
  resSeq : Nat := 0
deriving DecidableEq, Repr

/-- A slot of the key store (R399). -/
structure KeySlot where
  loaded : Bool := false
  asn : BitVec 16 := 0
  k1 : BitVec 256 := 0
  k2 : BitVec 256 := 0
deriving DecidableEq, Repr

/-- A scale-up port (Table 19-5). `low` counts consecutive samples below DNTH, `highSince` the tick since which the
margin has stayed at or above UPTH, `retrain` the tick at which a retraining ends. -/
structure Port where
  minmarg : Byte := 0
  dnth : Byte := 16
  upth : Byte := 48
  autoup : Bool := false
  rate : BitVec 2 := 0
  feccorr : BitVec 32 := 0
  fecunc : BitVec 32 := 0
  crcdrop : BitVec 32 := 0
  retx : BitVec 32 := 0
  lost : BitVec 32 := 0
  steps : BitVec 32 := 0
  low : Nat := 0
  highSince : Option Nat := none
  retrain : Option Nat := none
deriving DecidableEq, Repr

/-- An answer to a request of another module: a code of Table 19-1 and a value, or a negative acknowledgement, with its CRC-32C (R394). -/
structure Answer where
  tag : Tag
  code : Option Byte
  value : BitVec 1024
  crc : BitVec 32
deriving DecidableEq, Repr

/-- A tag that a destination home slice has applied, with its result (R325). -/
structure Applied where
  tag : Tag
  home : Nat
  result : BitVec 1024
deriving DecidableEq, Repr

/-! ## The bundle being issued -/

/-- A hardware update of control state that a bundle makes, applied after the program's writes (R87). -/
inductive HwUpd where
  | mstat (mask : BitVec 8)
  | due (v : Word)
  | lc (v : BitVec 32)
  | stage (v : BitVec 16)
  | resFlag
  | k15 (n : Nat)
  | rotate
deriving DecidableEq, Repr

/-- The issue registers of the core model: the context and bundle on whose behalf a slot instruction acts, and what the
bundle has asked for so far. -/
structure Issue where
  cx : Nat := 0
  pc : BitVec 56 := 0
  len : Nat := 4
  fold : Nat := 0
  stop : Bool := false
  target : Option (BitVec 56) := none
  prog : List (CReg × Word) := []
  hw : List HwUpd := []
  after : After := .none
  unsatisfied : Bool := false
  faulted : Option FaultInfo := none
  /-- no slot of the bundle takes effect yet: a fence of it is not satisfied (R189, R190), or a member of a fused set presents it
  (R158) -/
  fenced : Bool := false
  /-- the bundle has to hold (R175) -/
  held : Bool := false
  req : Option HoldReq := none
  lreq : Option HoldL := none
  /-- the bundle is committing after a hold: what the hold had read and been answered -/
  committed : Option Hold := none
  template : Bool := false
  /-- the generator state after the draws that this bundle has made so far (R60) -/
  seed : Option Word := none
deriving DecidableEq, Repr

/-! ## Power loss -/

/-- A byte memory: (address, byte) pairs, addresses strictly rising, none holding zero, which is what an unlisted
address reads as. -/
abbrev Memory := List Host.Cell

/-- The Dusk image (R360). -/
structure Image where
  valid : Bool
  crcOk : Bool
  clock : Word
  modid : BitVec 9
  ctxs : FMap Ctx
  cores : FMap Core
  tasks : FMap Task
  /-- record words W0 and W15 of the resident tasks -/
  recs : List (Nat × Nat × Nat)
  /-- the keep windows: their bytes, their full words, and those in error -/
  loc : Memory
  locFull : List Nat
  locBad : List Nat
  /-- sequence numbers of PEER requests (R325) -/
  seqs : FMap Nat
  /-- barriers in keep windows, and the sectors that abandoned commands owed them (R358) -/
  owed : List (Nat × Nat)
deriving DecidableEq, Repr

/-- Boot and image status (Table 18-10). -/
structure Boot where
  ready : Bool := false
  image : BitVec 2 := 0
  held : Bool := false
  releaseReq : Bool := false
  jobtab : Nat := 0
  asntab : Nat := 0
  savesz : BitVec 16 := 4096
  modid : BitVec 9 := 0
  dispatched : Bool := false
  powered : Bool := true
  locked : Bool := false
  bootAt : Option Nat := some 0
  fw : Nat := 0
  powerRefused : Bool := false
  dawn : List Nat := []
deriving DecidableEq, Repr

/-- What the outside world does to the machine: a step of the opcode table that it causes, an SPDM message with the channel that it
comes on, a store to the host's own
memory, a write, a read or a FetchAdd (R12) of a register on a port, a write of device memory by peer DMA (R324), a stored-data
error in a physical word, a scratchpad word, a spill word, tile word or stationary-buffer word of a strand, or a task's saved state
(R391), one that was corrected, what a link's error correction met, or a link
between two dies that loses what it carries, or does so no more (R395). -/
inductive Input where
  | step (i : Instr)
  | message (via : SpdmVia) (i : Instr)
  | hostStore (port addr : Nat) (data : List Byte)
  | barWrite (port fn off : Nat) (v : Word)
  | barRead (port fn off : Nat)
  | barAdd (port fn off : Nat) (v : Word)
  | hostDma (pa : Nat) (data : List Byte)
  | stuckWord (pa : Nat)
  | stuckRowWord (key : Nat)
  | stuckSpillWord (cx word : Nat)
  | stuckTileWord (cx word : Nat)
  | stuckBufferWord (cx : Nat) (shadow : Bool) (word : Nat)
  | stuckSave (task : Nat)
  | corrected (die : Nat)
  | fec (p corrected lost : Nat)
  | dieLink (a b : Nat) (lost : Bool)
deriving DecidableEq, Repr

/-- What moves next within a tick. -/
inductive Agent where
  /-- an event of the opcode table that is due -/
  | ev (i : Instr)
  /-- one edge of a core's clock -/
  | core (c : Nat)
  /-- the front end's turn for a stream -/
  | stream (st : StreamId)
  /-- something from outside lands -/
  | input (x : Input)
  /-- the n-th group of what a tick may bring -/
  | stage (n : Nat)
deriving DecidableEq, Repr

/-- The whole machine. -/
structure State where
  /-- `%clock`.TICK (R1, R88) -/
  clock : Word := 0
  /-- inputs not yet taken, each with the tick from which it may land -/
  inputs : List (Nat × Input) := []
  /-- what is still to move in this tick -/
  agenda : List Agent := []
  /-- the issue registers -/
  iss : Issue := {}
  /-- device memory by physical address (Table 14-2) -/
  mem : Memory := []
  /-- the full words of LPDDR6, by word number PA / 8 (R331); every other word is empty -/
  full : List Nat := []
  /-- scratchpad bytes, at core × 2^20 + row × 128 + byte -/
  loc : Memory := []
  /-- the full words of the scratchpads, by key / 8 -/
  locFull : List Nat := []
  /-- host memory behind port 0 and port 1 -/
  host0 : Memory := []
  host1 : Memory := []
  /-- words that hold an uncorrectable error, by PA / 8 (R391) -/
  bad : List Nat := []
  /-- scratchpad words that hold an uncorrectable error, by key / 8 -/
  locBad : List Nat := []
  ctxs : FMap Ctx := []
  cores : FMap Core := []
  clusters : FMap Cluster := []
  dies : FMap Die := []
  therm : FMap Therm := []
  tasks : FMap Task := []
  /-- fault records of each job that wait for their slot (R307) -/
  records : FMap (List FaultRecord) := []
  cmds : List Cmd := []
  reds : List RedRound := []
  mix : List MixRecord := []
  fns : FMap Fn := []
  funcJob : FMap Word := []
  sems : FMap Sem := []
  tie : Nat := 0
  irqs : List Irq := []
  completions : List Completion := []
  linkUp : FMap Bool := []
  /-- the ports' links run in FLIT mode (R11) -/
  linkFlit : FMap Bool := []
  i3cAddr : Option (BitVec 7) := none
  mgmtOut : List MgmtMsg := []
  /-- interrupts to the power controller: die and region whose SOFT has risen (R379) -/
  powerIrqs : List (Nat × Nat) := []
  spdm : FMap Spdm := []
  /-- the SPDM message at hand (R403): how it came, its parameters and its body -/
  mail : SpdmVia := {}
  keys : FMap KeySlot := []
  tamper : BitVec 5 := 0
  /-- seal tag and wear counter of MRAM pages by page number (R397, R385) -/
  seals : FMap Byte := []
  wear : FMap (BitVec 32) := []
  ports : FMap Port := []
  outReqs : List OutReq := []
  seqs : FMap Nat := []
  applied : List Applied := []
  /-- answers sent to other modules -/
  replies : List Answer := []
  /-- answers that no port could carry yet (R396) -/
  repliesDue : List Answer := []
  /-- pairs of dies between which shards are lost after their retransmissions, the lower die times 4 plus the other (R395) -/
  lostLinks : List Nat := []
  acct : FMap Word := []
  energyRem : FMap Nat := []
  held : FMap Nat := []
  idleEnergy : Nat := 0
  nightdly : BitVec 32 := 12500000
  govmode : Bool := true
  updPend : Bool := false
  lastKick : Nat := 0
  boot : Boot := {}
  image : Option Image := none
  /-- the model's own counters: free values drawn so far, and identities given so far -/
  free : Nat := 0
  nextId : Nat := 1
deriving DecidableEq, Repr

/-- The machine right after module reset (R7, R388): `%clock` 0, no image, boot not yet run, every cluster in NIGHT, the
schedulers empty and every register at its Reset value. -/
def State.reset : State := {}

end Sys2Proof.Machine
end

