-- ==== Sys2Proof/Machine/Mem.lean ====
section
/-!
DEFINITION. Mem: byte memories in one canonical form, and the sets of full words. Addresses rise strictly and no entry
holds zero, which is what an unlisted byte reads as.
-/
namespace Sys2Proof.Machine

/-- The byte at an address; an unlisted byte is zero (R361, R388; assumption 2). -/
def Memory.get (m : Memory) (a : Nat) : Byte := FMap.getD m a 0

/-- The memory with `v` at `a`. -/
def Memory.put (m : Memory) (a : Nat) (v : Byte) : Memory := if v = 0 then FMap.del m a else FMap.put m a v

/-- The `n` bytes from `a`, lowest address first. -/
def Memory.bytes (m : Memory) (a : Nat) : Nat → List Byte
  | 0 => []
  | n + 1 => Memory.get m a :: Memory.bytes m (a + 1) n

/-- The memory with a list of bytes stored from `a`. -/
def Memory.store (m : Memory) (a : Nat) : List Byte → Memory
  | [] => m
  | b :: r => Memory.store (Memory.put m a b) (a + 1) r

/-- The little-endian number held in `n` bytes from `a` (R2). -/
def Memory.num (m : Memory) (a n : Nat) : Nat := leValue (Memory.bytes m a n)

/-- The aligned 64-bit word of device memory at `a`. -/
def Memory.word (m : Memory) (a : Nat) : Nat := Memory.num m a 8

/-- The memory with `n` little-endian bytes of a number stored from `a` (R2). -/
def Memory.setNum (m : Memory) (a n v : Nat) : Memory := Memory.store m a (leBytes n v)

/-- The canonical form: addresses strictly rising, no byte zero. -/
def Memory.wf (m : Memory) : Bool := FMap.sorted m && m.all fun c => c.2 != 0

/-! ## Sets of numbers, strictly rising -/

/-- Whether a number is in the set. -/
def inSet (l : List Nat) (k : Nat) : Bool :=
  match l with
  | [] => false
  | a :: r => if a = k then true else inSet r k

/-- The set with a number. -/
def addSet (l : List Nat) (k : Nat) : List Nat :=
  match l with
  | [] => [k]
  | a :: r => if k < a then k :: a :: r else if k = a then a :: r else a :: addSet r k

/-- The set without a number. -/
def delSet (l : List Nat) (k : Nat) : List Nat :=
  match l with
  | [] => []
  | a :: r => if a = k then r else if k < a then a :: r else a :: delSet r k

/-- The set with or without a number. -/
def putSet (l : List Nat) (k : Nat) (b : Bool) : List Nat := if b then addSet l k else delSet l k

/-- Strictly rising: the canonical form of a set. -/
def risingSet : List Nat → Bool
  | [] => true
  | [_] => true
  | a :: b :: r => decide (a < b) && risingSet (b :: r)

end Sys2Proof.Machine
end

