-- ==== Sys2Proof/WellFormed.lean ====
section
/-!
DEFINITION. WellFormed: the operand limits that a slot word meets or fails by its own bits (R97, R99, R118 to R127 and
the operand limits of the instruction chapters), for every constructor of `Instr`.
-/
namespace Sys2Proof

/-- Width of an element in bits (Table 08-1). -/
def Ty.width : Ty → Nat
  | .s4 | .z4 | .e2 => 4
  | .s8 | .z8 | .e4 | .e5 => 8
  | .s16 | .z16 | .hf | .bf => 16
  | .s32 | .z32 | .f => 32
  | .s64 | .z64 => 64

/-- Elements of the type in a v register (R79). -/
def Ty.count (t : Ty) : Nat := 1024 / t.width

/-- An integer type. -/
def Ty.isInt : Ty → Bool
  | .s4 | .s8 | .s16 | .s32 | .s64 | .z4 | .z8 | .z16 | .z32 | .z64 => true
  | _ => false

/-- A signed integer type. -/
def Ty.isSigned : Ty → Bool
  | .s4 | .s8 | .s16 | .s32 | .s64 => true
  | _ => false

/-- Set I of Table 08-1. -/
def Ty.setI (t : Ty) : Bool := t.isInt && decide (8 ≤ t.width)
/-- Set F of Table 08-1. -/
def Ty.setF : Ty → Bool
  | .f | .hf | .bf => true
  | _ => false
/-- The operand types of the lattice (R224). -/
def Ty.lattice : Ty → Bool
  | .s4 | .z4 | .e2 | .s8 | .z8 | .e4 | .e5 | .hf | .bf => true
  | _ => false
/-- The element types of a reduction (R186). -/
def Ty.redTy : Ty → Bool
  | .s32 | .z32 | .f | .bf => true
  | _ => false
/-- Depth K of a beat with operands of this type (R222). -/
def Ty.depth (t : Ty) : Nat := if t.width = 4 then 128 else if t.width = 8 then 64 else 32

/-- A predicate that is an encoding (R96). -/
def Pred.wf : Pred → Bool
  | .onClear n => n != 0
  | _ => true
/-- D[5] needs D[4] clear (R85). -/
def Dst.wf (d : Dst) : Bool := !d.latchOnly || decide (d.n.toNat < 16)
/-- A destination of class k: D[4] is clear. -/
def Dst.wfK (d : Dst) : Bool := decide (d.n.toNat < 16)
/-- An unused destination field. -/
def Dst.zero (d : Dst) : Bool := d == ⟨false, 0⟩
/-- An unused source field. -/
def Src.zero (s : Src) : Bool := s == .reg 0
/-- A source of a class of `n` registers (R97). -/
def Src.below (s : Src) (n : Nat) : Bool :=
  match s with
  | .reg r => decide (r.toNat < n)
  | .latch _ => true
/-- A register, not a latch, below `n` (R119, R122, R141). -/
def Src.plainBelow (s : Src) (n : Nat) : Bool :=
  match s with
  | .reg r => decide (r.toNat < n)
  | .latch _ => false
/-- An even register that names a pair (R119). -/
def Src.pair (s : Src) : Bool :=
  match s with
  | .reg r => r.toNat % 2 == 0
  | .latch _ => false
/-- The immediate fits IMM alone, as it must where XS is not allowed (R98, R122). -/
def fits12 (imm : BitVec 44) : Bool := (imm.setWidth 12).signExtend 44 == imm

namespace Wf
/-- Layout RRR: which of B and C are read, and whether the operation rounds. -/
def rrr (o : OpRRR) (useB useC rounds : Bool) : Bool :=
  o.p.wf && o.d.wf && (useB || o.b.zero) && (useC || o.c.zero) && (rounds || o.rm == .rne)
/-- Layout RI. -/
def ri (o : OpRI) : Bool := o.p.wf && o.d.wf
/-- Layout BF (R139). -/
def bf (o : OpBF) (useB : Bool) : Bool :=
  o.p.wf && o.d.wf && (useB || o.b.zero) && decide (o.pos.toNat + o.len.toNat + 1 ≤ 64)
/-- A scalar load (R121, R122, R167). `sp`: 0 LOCAL, 1 CLUSTER, 2 DEVICE, 3 PEER, 4 HOST. -/
def smLoad (o : OpSM) (sp : Nat) : Bool :=
  o.p.wf && o.d.wf && o.c.zero &&
  (o.form == .plain || ((o.form == .wait || o.form == .take) && decide (sp < 3) && o.size == .d)) &&
  !(o.sx && o.size == .d) && (sp == 2 || o.size == .d) &&
  (sp != 0 || o.a.plainBelow 8) && (decide (2 ≤ sp) || fits12 o.imm) && (decide (sp < 3) || o.a.pair)
/-- A scalar store. -/
def smStore (o : OpSM) (sp : Nat) : Bool :=
  o.p.wf && o.d.zero && !o.sx &&
  (o.form == .plain || ((o.form == .fill || o.form == .force) && decide (sp < 3) && o.size == .d)) &&
  (sp == 2 || o.size == .d) &&
  (sp != 0 || o.a.plainBelow 8) && (decide (2 ≤ sp) || fits12 o.imm) && (decide (sp < 3) || o.a.pair)
/-- An atomic (R121, R178). -/
def sa (o : OpSA) (sp : Nat) : Bool :=
  o.p.wf && o.d.wf && (o.size == .d || (o.size == .w && sp == 2)) &&
  (sp != 0 || o.a.plainBelow 8) && (decide (2 ≤ sp) || fits12 o.imm) && (decide (sp < 3) || o.a.pair)
/-- Layout SS (R149). -/
def ss (o : OpSS) (load : Bool) : Bool :=
  o.p.wf && (if load then o.d.wf && o.c.zero else o.d.zero)
/-- Layout BR (R182). -/
def br (o : OpBR) (useD useB useC : Bool) : Bool :=
  o.p.wf && o.d.wf && (useD || o.d.zero) && (useB || o.b.zero) && (useC || o.c.zero)
/-- Layout VRRR. -/
def vrrr (o : OpVRRR) (tys useB rounds : Bool) (subMax : Nat) : Bool :=
  o.p.wf && o.d.wf && o.k.below 16 && tys && (useB || o.b.zero) && (rounds || o.rm == .rne) &&
  decide (o.sub.toNat ≤ subMax)
/-- Layout VI. -/
def vi (o : OpVI) (tys useA useB : Bool) : Bool :=
  o.p.wf && o.d.wf && o.k.below 16 && tys && (useA || o.a.zero) && (useB || o.b.zero)
/-- Layout VK. -/
def vk (o : OpVK) : Bool := o.p.wf && o.d.wfK && o.k.below 16 && (o.ty.setI || o.ty.setF)
/-- Layout KK. -/
def kk (o : OpKK) (useB : Bool) : Bool :=
  o.p.wf && o.d.wfK && o.a.below 16 && o.b.below 16 && (useB || o.b.zero)
/-- Layout VC with the width rule of Table 08-6. -/
def vc (o : OpVC) (widths half : Bool) : Bool := o.p.wf && o.d.wf && o.k.below 16 && widths && (half || !o.half)
/-- Layout MP of the register and scratchpad pushes (R227). -/
def mp (o : OpMP) (a : Bool) : Bool :=
  o.p.wf && a && o.ty.lattice && !(o.half && o.ty.width == 16) && decide (o.row.toNat < o.ty.depth)
/-- Layout MA (R230). -/
def ma (o : OpMA) (a : Bool) : Bool := o.p.wf && a && o.ty.lattice
/-- A vector load (R121, R169). `sp`: as `smLoad`, and 5 KV. -/
def cmLoad (o : OpCM) (sp : Nat) : Bool :=
  o.p.wf && o.d.wf && o.c.zero && o.form == .plain && (o.dec || o.ty == .s4) && (!o.dec || sp == 2) &&
  (sp != 0 || o.a.plainBelow 8) && (decide (sp < 3) || o.a.pair) && (sp != 5 || o.imm == 0)
/-- A vector store. -/
def cmStore (o : OpCM) (sp : Nat) : Bool :=
  o.p.wf && o.d.zero && o.form == .plain && !o.dec && o.ty == .s4 &&
  (sp != 0 || o.a.plainBelow 8) && (decide (sp < 3) || o.a.pair) && (sp != 5 || o.imm == 0)
/-- Layout CE: which fields are read, and the modifiers allowed. -/
def ce (o : OpCE) (useD useB useC mods : Bool) : Bool :=
  o.p.wf && o.d.wf && (useD || o.d.zero) && (useB || o.b.zero) && (useC || o.c.zero) && mods
/-- Modifiers of `cp` (R240). -/
def cpMods (m : BitVec 12) : Bool :=
  let ssp := (m.extractLsb' 5 3).toNat
  let dsp := (m.extractLsb' 2 3).toNat
  m.extractLsb' 10 2 == 0 && m.extractLsb' 0 2 == 0 && decide (ssp ≤ 4) && decide (dsp ≤ 4) &&
  !(decide (3 ≤ ssp) && decide (3 ≤ dsp)) && !(m.getLsbD 9 && (decide (3 ≤ ssp) || decide (3 ≤ dsp)))
/-- The type a code names (Table 05-2). -/
def tyOf (c : BitVec 4) : Ty :=
  match c.toNat with
  | 0 => .s4 | 1 => .s8 | 2 => .s16 | 3 => .s32 | 4 => .s64 | 5 => .z4 | 6 => .z8 | 7 => .z16
  | 8 => .z32 | 9 => .z64 | 10 => .e2 | 11 => .e4 | 12 => .e5 | 13 => .hf | 14 => .bf | _ => .f
/-- Modifiers of `gath.kv` (R247). -/
def gathMods (m : BitVec 12) : Bool :=
  let t := tyOf (m.extractLsb' 8 4)
  m.extractLsb' 0 7 == 0 &&
  (if m.getLsbD 7 then (t == .s4 || t == .s8 || t == .s16) else (t == .bf || t == .hf || t == .f || t == .e4))
/-- Layout CP (C0 only, R116). -/
def cp (o : OpCP) (useB useC : Bool) : Bool :=
  o.p.wf && o.d.wf && o.tw == .first && (useB || o.b.zero) && (useC || o.c.zero)
/-- Layout LR. -/
def lr (o : OpLR) (useD useB : Bool) : Bool := o.p.wf && o.d.wf && (useD || o.d.zero) && (useB || o.b.zero)
end Wf

/-- The limits of each instruction. An event or a register write carries no operand limit of its own. -/
def Instr.wf : Instr → Bool
  | .funcJobWrite _ _ _ | .semClaim _ _ | .semRelease _ _ | .semForcedRelease _ _ | .doorbell _ _ | .streamEnable _
    | .streamPause _ | .abort _ | .clrerr _ | .functionLevelReset _ _ | .linkDown _ | .pkNop _ | .pkWriteStore _ _ _ _
    | .pkWriteAdd _ _ _ _ | .pkWriteForce _ _ _ | .pkCopy _ _ _ _ _ _ | .pkPred _ _ _ _ _ _ | .pkLoop _ _ _
    | .pkCall _ _ _ _ | .pkRet _ | .bufferEnd _ | .pkFfence _ | .pkWaitmem _ _ _ _ _ _ _ | .waitmemRead _
    | .pkLaunch _ _ _ | .pkSignal _ _ _ _ _ | .pkSignalStore _ | .pkJob _ _ | .pkIrq _ _ | .hostWriteComplete _ _
    | .registerWrite _ _ _ | .i3cDynamicAddress _ | .mctpControl _ | .vdmRegisterRead _ | .vdmRegisterWrite _ _
    | .getVersion | .getCapabilities | .negotiateAlgorithms | .getDigests | .getCertificate _ _ _
    | .challenge _ | .getMeasurements _ | .keyExchange _ | .finish _ | .heartbeat
    | .keyUpdate | .endSession | .keySet _ _ _ _ | .keyClear _ | .kick | .hardbWrite _ _ _ | .muOpen _ | .muStage _ | .muCommit _ | .muAbort _ | .release | .discard
    | .errcntClr _ | .slotclr _ | .portUp _ | .timerPending _ | .timer _ | .mkatCompareEnd _ | .katMismatch _
    | .sleepWake _ | .holdingBundlePresent _ | .feHomeTry _ | .holdCommit _ | .feBudgetSpent _ | .parkSaveComplete _
    | .parkedTaskRequeue _ | .barWaitTimeout _ | .sectorLand _ _ _ | .sectorSettleError _ _ _ _ | .commandComplete _ _
    | .rotCluMatch _ | .redAddContribution _ | .interlockedResultLand _ _ _ | .promiseStall _ | .promisedDataLand _ _
    | .resultReadable _ | .dividerFree _ | .quantumExpiry _ | .coreUngate _ | .fetchLineArrive _ | .fuseLineRise _
    | .lnsTemplateIssue _ | .lnsFaultTaken _ | .pageinWalkEnd _ _ | .asnSweepEnd _ | .mixsizeProbeAnswer _
    | .dispatchDecision _ | .preemption _ | .crewBind _ | .faultRecordDelivery _ | .agingStep _ | .slewStep _
    | .currentLimitStep _ _ | .thermalSample _ _ _ | .overtempShutdown | .watchdogExpiry | .nightfall _
    | .dormantWakeEvent _ | .daybreak _ | .powerFail | .powerOnBoot | .tamperAlarm _ | .eyeMarginSample _ _
    | .portRetrainEnd _ | .shardReceive _ | .shardNak _ | .retransmitTimeout _ | .shardAck _ _ _ | .energyInterval _ _
    => true
  | .waitSet _ wflag => decide (wflag.toNat < 40)
  | .waitClr _ wflag => decide (wflag.toNat < 40)
  | .waitDue _ wflag => decide (wflag.toNat < 40)
  | .nop o => o.p.wf
  | .add o | .sub o | .mul o | .mulhS64 o | .mulhZ64 o | .divS64 o | .divZ64 o | .remS64 o | .remZ64 o | .minS64 o
    | .minZ64 o | .maxS64 o | .maxZ64 o => Wf.rrr o true false false
  | .addImm o | .subImm o | .mulImm o | .mulhS64Imm o | .mulhZ64Imm o | .divS64Imm o | .divZ64Imm o | .remS64Imm o
    | .remZ64Imm o | .minS64Imm o | .minZ64Imm o | .maxS64Imm o | .maxZ64Imm o => Wf.ri o
  | .and o | .or o | .xor o | .andn o | .shl o | .shrZ64 o | .shrS64 o | .rot o => Wf.rrr o true false false
  | .andImm o | .orImm o | .xorImm o | .andnImm o | .shlImm o | .shrZ64Imm o | .shrS64Imm o | .rotImm o => Wf.ri o
  | .popc o | .clz o | .ctz o => Wf.rrr o false false false
  | .bext o => Wf.bf o false
  | .bins o => Wf.bf o true
  | .sext o => Wf.bf o false
  | .cmpEq o | .cmpNe o | .cmpLtS64 o | .cmpLtZ64 o | .cmpLeS64 o | .cmpLeZ64 o => Wf.rrr o true false false
  | .cmpEqQ o | .cmpNeQ o | .cmpLtS64Q o | .cmpLtZ64Q o | .cmpLeS64Q o | .cmpLeZ64Q o => o.p.wf
  | .cmpEqImm o | .cmpNeImm o | .cmpLtS64Imm o | .cmpLtZ64Imm o | .cmpLeS64Imm o | .cmpLeZ64Imm o => Wf.ri o
  | .cmpEqQImm o | .cmpNeQImm o | .cmpLtS64QImm o | .cmpLtZ64QImm o | .cmpLeS64QImm o | .cmpLeZ64QImm o => o.p.wf
  | .sel o => Wf.rrr o true true false && o.c.plainBelow 8
  | .li o => o.p.wf && o.d.wf && o.a.zero
  | .lih o => o.p.wf && o.d.wf
  | .movFromCr o => o.p.wf && o.d.wf
  | .movToCr o => o.p.wf
  | .evtSet o | .evtClr o => o.p.wf
  | .faddF o | .fsubF o | .fmulF o => Wf.rrr o true false true
  | .fmaF o => Wf.rrr o true true true
  | .fminF o | .fmaxF o => Wf.rrr o true false false
  | .cvt o => o.p.wf && o.d.wf
  | .pagein o => Wf.ri o
  | .ldLoc o => Wf.smLoad o 0
  | .stLoc o => Wf.smStore o 0
  | .ldClu o => Wf.smLoad o 1
  | .stClu o => Wf.smStore o 1
  | .ldDev o => Wf.smLoad o 2
  | .stDev o => Wf.smStore o 2
  | .ldPeer o => Wf.smLoad o 3
  | .stPeer o => Wf.smStore o 3
  | .ldHost o => Wf.smLoad o 4
  | .stHost o => Wf.smStore o 4
  | .spLd o => Wf.ss o true
  | .spSt o => Wf.ss o false
  | .spVld o => Wf.ss o true
  | .spVst o => Wf.ss o false
  | .atomAddLoc o | .atomAndLoc o | .atomOrLoc o | .atomXorLoc o | .atomMinsLoc o | .atomMinzLoc o | .atomMaxsLoc o
    | .atomMaxzLoc o | .atomSwapLoc o | .atomCasLoc o => Wf.sa o 0
  | .atomAddClu o | .atomAndClu o | .atomOrClu o | .atomXorClu o | .atomMinsClu o | .atomMinzClu o | .atomMaxsClu o
    | .atomMaxzClu o | .atomSwapClu o | .atomCasClu o => Wf.sa o 1
  | .atomAddDev o | .atomAndDev o | .atomOrDev o | .atomXorDev o | .atomMinsDev o | .atomMinzDev o | .atomMaxsDev o
    | .atomMaxzDev o | .atomSwapDev o | .atomCasDev o => Wf.sa o 2
  | .atomAddPeer o | .atomAndPeer o | .atomOrPeer o | .atomXorPeer o | .atomMinsPeer o | .atomMinzPeer o
    | .atomMaxsPeer o | .atomMaxzPeer o | .atomSwapPeer o | .atomCasPeer o => Wf.sa o 3
  | .barInit o => Wf.br o false true false
  | .barArrive o | .barWait o => Wf.br o true true true
  | .barTest o => Wf.br o true false false
  | .vnop o => o.p.wf
  | .vadd o | .vsub o | .vmul o => Wf.vrrr o o.ty.setI true false 0
  | .vmulh o => Wf.vrrr o o.ty.setI true false 1
  | .vmin o | .vmax o | .vadds o | .vsubs o | .vavg o => Wf.vrrr o o.ty.setI true false 0
  | .vabs o | .vneg o => Wf.vrrr o (o.ty.setI && o.ty.isSigned) false false 0
  | .vmov o => Wf.vrrr o true false false 0
  | .vand o | .vor o | .vxor o | .vandn o => Wf.vrrr o true true false 0
  | .vnot o => Wf.vrrr o true false false 0
  | .vshl o | .vshr o | .vshrr o => Wf.vrrr o o.ty.setI true false 0
  | .vshlImm o | .vshrImm o | .vshrrImm o => Wf.vi o o.ty.setI true false
  | .vfadd o | .vfsub o | .vfmul o => Wf.vrrr o o.ty.setF true true 0
  | .vfma o => o.p.wf && o.d.wf && o.ty.setF
  | .vfmin o | .vfmax o => Wf.vrrr o o.ty.setF true false 0
  | .vfabs o | .vfneg o => Wf.vrrr o o.ty.setF false false 0
  | .vexp2 o | .vrcp o => Wf.vrrr o o.ty.setF false false 0 && o.tw == .second
  | .vcmpEq o | .vcmpNe o | .vcmpLt o | .vcmpLe o => Wf.vk o
  | .kand o | .kor o | .kxor o | .kandn o => Wf.kk o true
  | .knot o => Wf.kk o false
  | .vsel o => Wf.vrrr o true true false 0
  | .vperm o => Wf.vrrr o (decide (8 ≤ o.ty.width)) true false 0 && o.tw == .first
  | .vbcast o => Wf.vi o (decide (o.imm.toNat < o.ty.count)) true false
  | .vbcastG o => o.p.wf && o.d.wf && o.k.below 16
  | .vslideUp o | .vslideDn o => Wf.vi o true true false
  | .vrotm o => Wf.vi o (decide (o.imm.toNat < 128)) true true
  | .vsplat o => Wf.vi o (o.ty.setI || o.ty.setF) false false
  | .vredsum o => Wf.vrrr o (o.ty.setI || o.ty.setF) false o.ty.setF (if o.ty.setI then 3 else 1) && o.tw == .first
  | .vredmax o | .vredmin o => Wf.vrrr o (o.ty.setI || o.ty.setF) false false 0 && o.tw == .first
  | .vcvt o => Wf.vc o (o.dty.width == o.sty.width) false
  | .vcvtW o => Wf.vc o (o.dty.width == 2 * o.sty.width) true
  | .vcvtN o => Wf.vc o (2 * o.dty.width == o.sty.width) true
  | .vkpack o => Wf.vrrr o (o.ty == .s16 || o.ty == .hf || o.ty == .bf) true true 0 && o.k.zero && o.tw == .first
  | .vkunpk o => Wf.vrrr o (o.ty.width == 8 || o.ty.width == 16) (o.ty.width == 8) true 0
  | .vrq o => Wf.vrrr o (o.ty == .s4) true true 0 && o.k.zero
  | .mnop o => o.p.wf
  | .mpushV o => Wf.mp o true
  | .mpushSp o => Wf.mp o o.a.pair
  | .mpushW o => o.p.wf && o.ty == .s4 && !o.half
  | .mswap o => o.p.wf
  | .maccV o => Wf.ma o true
  | .maccSp o => Wf.ma o o.a.pair
  | .mshift o | .mzero o => o.p.wf
  | .mdrain o => o.p.wf && o.d.wf
  | .mdrainCp o => o.p.wf
  | .mkat o => o.p.wf
  | .cnop o => o.p.wf
  | .vldLoc o => Wf.cmLoad o 0
  | .vstLoc o => Wf.cmStore o 0
  | .vldClu o => Wf.cmLoad o 1
  | .vstClu o => Wf.cmStore o 1
  | .vldDev o => Wf.cmLoad o 2
  | .vstDev o => Wf.cmStore o 2
  | .vldPeer o => Wf.cmLoad o 3
  | .vstPeer o => Wf.cmStore o 3
  | .vldHost o => Wf.cmLoad o 4
  | .vstHost o => Wf.cmStore o 4
  | .vldKv o => Wf.cmLoad o 5
  | .vstKv o => Wf.cmStore o 5
  | .cpGo o => Wf.ce o true true false (o.m == 0)
  | .cpAdv o => o.p.wf && o.tw == .first
  | .cp o => Wf.ce o true true true (Wf.cpMods o.m)
  | .cpTsr o => Wf.ce o true true true (o.m.extractLsb' 2 10 == 0)
  | .gathKv o => Wf.ce o true true true (Wf.gathMods o.m)
  | .rotClu o => Wf.ce o false true true (o.m.extractLsb' 1 11 == 0)
  | .redAdd o => Wf.ce o false true true (Wf.tyOf (o.m.extractLsb' 8 4)).redTy
  | .kvBind o => Wf.ce o true false false (o.m == 0) && o.tw == .first
  | .pfxHash o | .pfxLook o | .pfxCmp o => Wf.cp o true false
  | .pfxIns o => Wf.cp o true true
  | .pfxPin o | .pfxUnpin o => Wf.cp o false false
  | .lnop o => o.p.wf
  | .br o | .call o => o.p.wf
  | .jmp o | .callR o => Wf.lr o false false
  | .loop o | .loopMod o => o.p.wf
  | .sleepDue o => o.p.wf
  | .sleepN o => Wf.lr o false false
  | .fuse o | .decouple o | .rejoin o => o.p.wf
  | .brk o | .sys o => o.p.wf
  | .eret o => o.p.wf
  | .taskSpawn o | .taskSig o => Wf.lr o true false
  | .taskYield o | .taskEnd o | .crewSync o => o.p.wf
  | .asnRetire o => Wf.lr o true false
  | .fenceQ o => o.p.wf && o.imm.extractLsb' 5 7 == 0
  | .fencePeer o | .fenceHost o => o.p.wf
  | .lnsTmpl o | .lnsLvl o => Wf.lr o true true
  | .lnsRun o => o.p.wf
  | .lnsResume o => Wf.lr o true false
  | .lnsAbort o => o.p.wf
  | .pcieLinkUp _ _ => true
  | .emptyBundle fold _ => fold != 0
  | .fetchFault _ | .flagsDueRise _ | .muCommitDone _ => true

end Sys2Proof
end

