-- ==== Sys2Proof/Decode.lean ====
section
/-!
DEFINITION. Decode: bundle headers, slot words and packets, read from the encoding tables of the spec (Tables 01-12,
01-14, 04-6, 04-7 and 05-1 to 05-9), and the encoder written from the same tables. Decoding is total and refuses by
name.
-/
namespace Sys2Proof

/-- Why a slot word is not an instruction (Table 05-10). -/
inductive DecErr where
  | illOp
  | illOperand
deriving DecidableEq, Repr

/-- The slots of a bundle in the order of R94. -/
inductive SlotPos where
  | s | v0 | v1 | m | c0 | c1 | l
deriving DecidableEq, Repr

/-- The slot code of `%fcause`.SLOT (Table 04-4). -/
def SlotPos.code (p : SlotPos) : Nat := p.ctorIdx

/-- The fields of a slot word (Table 04-7) and the extension word, if the bundle has one. -/
structure Raw where
  pred : BitVec 4
  op : BitVec 8
  d : BitVec 6
  a : BitVec 6
  b : BitVec 6
  c : BitVec 6
  imm : BitVec 12
  xw : Option (BitVec 32)
deriving DecidableEq, Repr

/-- The fields of a 48-bit slot word. -/
def Raw.ofWord (w : BitVec 48) (xw : Option (BitVec 32)) : Raw :=
  { pred := w.extractLsb' 44 4, op := w.extractLsb' 36 8, d := w.extractLsb' 30 6, a := w.extractLsb' 24 6,
    b := w.extractLsb' 18 6, c := w.extractLsb' 12 6, imm := w.extractLsb' 0 12, xw := xw }

/-- The 48-bit slot word of the fields. -/
def Raw.word (r : Raw) : BitVec 48 := r.pred ++ r.op ++ r.d ++ r.a ++ r.b ++ r.c ++ r.imm

/-! ## Fields -/

/-- PRED (R96). Code 0b0000 is `always`. -/
def Pred.of4 (x : BitVec 4) : Pred :=
  if x = 0 then .always
  else if x.getLsbD 3 then .onSet (x.extractLsb' 0 3) else .onClear (x.extractLsb' 0 3)
/-- The code of a predicate. -/
def Pred.to4 : Pred → BitVec 4
  | .always => 0
  | .onSet n => 1#1 ++ n
  | .onClear n => 0#1 ++ n
/-- Field D (R85). -/
def Dst.of6 (x : BitVec 6) : Dst := ⟨x.getLsbD 5, x.extractLsb' 0 5⟩
/-- The bits of field D. -/
def Dst.to6 (d : Dst) : BitVec 6 := BitVec.ofBool d.latchOnly ++ d.n
/-- A source field (R97): 0 to 31 a register, 32 to 47 a latch, 48 to 63 no operand. -/
def Src.of6 (x : BitVec 6) : Option Src :=
  if !x.getLsbD 5 then some (.reg (x.extractLsb' 0 5))
  else if !x.getLsbD 4 then some (.latch (x.extractLsb' 0 4))
  else none
/-- The bits of a source field. -/
def Src.to6 : Src → BitVec 6
  | .reg n => 0#1 ++ n
  | .latch n => 2#2 ++ n
/-- TY (Table 05-2). -/
def Ty.of4 (x : BitVec 4) : Ty := Wf.tyOf x
/-- The code of a type. -/
def Ty.to4 (t : Ty) : BitVec 4 := BitVec.ofNat 4 t.ctorIdx
/-- RM (Table 03-8); 0b101 to 0b111 are no mode (R57). -/
def Rm.of3 (x : BitVec 3) : Option Rm :=
  match x.toNat with
  | 0 => some .rne | 1 => some .rz | 2 => some .ru | 3 => some .rd | 4 => some .sr | _ => none
/-- The code of a rounding mode. -/
def Rm.to3 (r : Rm) : BitVec 3 := BitVec.ofNat 3 r.ctorIdx
/-- FORM (Table 05-3). -/
def Form.of3 (x : BitVec 3) : Option Form :=
  match x.toNat with
  | 0 => some .plain | 1 => some .wait | 2 => some .take | 3 => some .fill | 4 => some .force | _ => none
/-- The code of a form. -/
def Form.to3 (f : Form) : BitVec 3 := BitVec.ofNat 3 f.ctorIdx
/-- SIZE (Table 05-3). -/
def Size.of2 (x : BitVec 2) : Size :=
  match x.toNat with
  | 0 => .b | 1 => .h | 2 => .w | _ => .d
/-- The code of a size. -/
def Size.to2 (z : Size) : BitVec 2 := BitVec.ofNat 2 z.ctorIdx
/-- The control registers by number (Table 04-3). -/
def CReg.all : List CReg :=
  [.clock, .due, .flags, .seqlen, .fcause, .faddr, .fbundle, .taskid, .rseed, .mstat, .lc, .stage, .tvec, .place, .crew,
    .alarm, .watch, .tstate, .spill, .fdata]
/-- A control-register number; 0x14 to 0x3F are none (R88). -/
def CReg.of6 (x : BitVec 6) : Option CReg := CReg.all[x.toNat]?
/-- The number of a control register. -/
def CReg.to6 (c : CReg) : BitVec 6 := BitVec.ofNat 6 c.ctorIdx
/-- The immediate of R131: IMM sign-extended, or XW × 4,096 + IMM read in 44 bits. -/
def Raw.imm44 (r : Raw) : BitVec 44 :=
  match r.xw with
  | none => r.imm.signExtend 44
  | some x => x ++ r.imm
/-- No extension word stands where the layout has no immediate (R98). -/
def Raw.noX (r : Raw) : Bool := r.xw.isNone

/-! ## Layouts (Table 05-1): from fields to operand records. `none` is ILL_OPERAND. -/

namespace Lay
def n (r : Raw) : Option OpN :=
  if r.noX && r.d == 0 && r.a == 0 && r.b == 0 && r.c == 0 && r.imm == 0 then some ⟨.of4 r.pred⟩ else none
def nt (tw : Twin) (r : Raw) : Option OpNT :=
  if r.d == 0 && r.a == 0 && r.b == 0 && r.c == 0 && r.imm == 0 then some ⟨tw, .of4 r.pred⟩ else none
def rrr (r : Raw) : Option OpRRR := do
  let a ← Src.of6 r.a; let b ← Src.of6 r.b; let c ← Src.of6 r.c; let rm ← Rm.of3 (r.imm.extractLsb' 5 3)
  if r.noX && r.imm.extractLsb' 8 4 == 0 && r.imm.extractLsb' 0 5 == 0 then
    some ⟨.of4 r.pred, .of6 r.d, a, b, c, rm⟩
  else none
def ri (r : Raw) : Option OpRI := do
  let a ← Src.of6 r.a
  if r.b == 0 && r.c == 0 then some ⟨.of4 r.pred, .of6 r.d, a, r.imm44⟩ else none
def qrr (r : Raw) : Option OpQRR := do
  let a ← Src.of6 r.a; let b ← Src.of6 r.b
  if r.noX && r.d.extractLsb' 3 3 == 0 && r.c == 0 && r.imm == 0 then
    some ⟨.of4 r.pred, r.d.extractLsb' 0 3, a, b⟩
  else none
def qri (r : Raw) : Option OpQRI := do
  let a ← Src.of6 r.a
  if r.d.extractLsb' 3 3 == 0 && r.b == 0 && r.c == 0 then
    some ⟨.of4 r.pred, r.d.extractLsb' 0 3, a, r.imm44⟩
  else none
def bf (r : Raw) : Option OpBF := do
  let a ← Src.of6 r.a; let b ← Src.of6 r.b
  if r.noX && r.c == 0 then
    some ⟨.of4 r.pred, .of6 r.d, a, b, r.imm.extractLsb' 6 6, r.imm.extractLsb' 0 6⟩
  else none
def di (r : Raw) : Option OpDI := do
  let a ← Src.of6 r.a
  if r.b == 0 && r.c == 0 then some ⟨.of4 r.pred, .of6 r.d, a, r.imm44⟩ else none
def sc (r : Raw) : Option OpSC := do
  let a ← Src.of6 r.a; let rm ← Rm.of3 (r.imm.extractLsb' 5 3)
  if r.noX && r.b == 0 && r.c == 0 && !r.imm.getLsbD 4 then
    some ⟨.of4 r.pred, .of6 r.d, a, .of4 (r.imm.extractLsb' 8 4), rm, .of4 (r.imm.extractLsb' 0 4)⟩
  else none
def crr (r : Raw) : Option OpCRr := do
  let k ← CReg.of6 (r.imm.extractLsb' 0 6)
  if r.noX && r.a == 0 && r.b == 0 && r.c == 0 && r.imm.extractLsb' 6 6 == 0 then
    some ⟨.of4 r.pred, .of6 r.d, k⟩
  else none
def crw (r : Raw) : Option OpCRw := do
  let k ← CReg.of6 (r.imm.extractLsb' 0 6); let a ← Src.of6 r.a
  if r.noX && r.d == 0 && r.b == 0 && r.c == 0 && r.imm.extractLsb' 6 6 == 0 then some ⟨.of4 r.pred, a, k⟩ else none
def ev (r : Raw) : Option OpEv :=
  if r.noX && r.d == 0 && r.a == 0 && r.b == 0 && r.c == 0 && r.imm.extractLsb' 5 7 == 0 then
    some ⟨.of4 r.pred, r.imm.extractLsb' 0 5⟩
  else none
def sm (r : Raw) : Option OpSM := do
  let a ← Src.of6 r.a; let c ← Src.of6 r.c; let form ← Form.of3 (r.b.extractLsb' 3 3)
  some ⟨.of4 r.pred, .of6 r.d, a, form, r.b.getLsbD 2, .of2 (r.b.extractLsb' 0 2), c, r.imm44⟩
def sa (r : Raw) : Option OpSA := do
  let a ← Src.of6 r.a; let c ← Src.of6 r.c
  if r.b.extractLsb' 2 4 == 0 then
    some ⟨.of4 r.pred, .of6 r.d, a, .of2 (r.b.extractLsb' 0 2), c, r.imm44⟩
  else none
def ss (r : Raw) : Option OpSS := do
  let a ← Src.of6 r.a; let c ← Src.of6 r.c
  if r.b == 0 then some ⟨.of4 r.pred, .of6 r.d, a, c, r.imm44⟩ else none
def br (r : Raw) : Option OpBR := do
  let b ← Src.of6 r.b; let c ← Src.of6 r.c
  if r.noX && r.a.extractLsb' 3 3 == 0 then
    some ⟨.of4 r.pred, .of6 r.d, r.a.extractLsb' 0 3, r.imm.extractLsb' 3 9, r.imm.extractLsb' 0 3, b, c⟩
  else none
def vrrr (tw : Twin) (r : Raw) : Option OpVRRR := do
  let a ← Src.of6 r.a; let b ← Src.of6 r.b; let k ← Src.of6 r.c; let rm ← Rm.of3 (r.imm.extractLsb' 5 3)
  some ⟨tw, .of4 r.pred, .of6 r.d, a, b, k, .of4 (r.imm.extractLsb' 8 4), rm, r.imm.extractLsb' 0 5⟩
def vi (tw : Twin) (r : Raw) : Option OpVI := do
  let a ← Src.of6 r.a; let b ← Src.of6 r.b; let k ← Src.of6 r.c
  some ⟨tw, .of4 r.pred, .of6 r.d, a, b, k, .of4 (r.imm.extractLsb' 8 4), r.imm.extractLsb' 0 8⟩
def vf (tw : Twin) (r : Raw) : Option OpVF := do
  let a ← Src.of6 r.a; let b ← Src.of6 r.b; let c ← Src.of6 r.c; let rm ← Rm.of3 (r.imm.extractLsb' 5 3)
  some ⟨tw, .of4 r.pred, .of6 r.d, a, b, c, .of4 (r.imm.extractLsb' 8 4), rm, r.imm.getLsbD 4, r.imm.extractLsb' 0 4⟩
def vk (tw : Twin) (r : Raw) : Option OpVK := do
  let a ← Src.of6 r.a; let b ← Src.of6 r.b; let k ← Src.of6 r.c
  if r.imm.extractLsb' 0 8 == 0 then
    some ⟨tw, .of4 r.pred, .of6 r.d, a, b, k, .of4 (r.imm.extractLsb' 8 4)⟩
  else none
def kk (tw : Twin) (r : Raw) : Option OpKK := do
  let a ← Src.of6 r.a; let b ← Src.of6 r.b
  if r.c == 0 && r.imm == 0 then some ⟨tw, .of4 r.pred, .of6 r.d, a, b⟩ else none
def vc (tw : Twin) (r : Raw) : Option OpVC := do
  let a ← Src.of6 r.a; let k ← Src.of6 r.c; let rm ← Rm.of3 (r.imm.extractLsb' 5 3)
  if r.b.extractLsb' 4 2 == 0 && r.imm.extractLsb' 1 4 == 0 then
    some ⟨tw, .of4 r.pred, .of6 r.d, a, .of4 (r.b.extractLsb' 0 4), k, .of4 (r.imm.extractLsb' 8 4), rm,
      r.imm.getLsbD 0⟩
  else none
def vg (tw : Twin) (r : Raw) : Option OpVG := do
  let a ← Src.of6 r.a; let k ← Src.of6 r.c
  if r.b == 0 && r.imm.extractLsb' 0 8 == 0 then
    some ⟨tw, .of4 r.pred, .of6 r.d, a, k, .of4 (r.imm.extractLsb' 8 4)⟩
  else none
def mp (r : Raw) : Option OpMP := do
  let a ← Src.of6 r.a
  if r.d == 0 && r.b == 0 && r.c == 0 then
    some ⟨.of4 r.pred, a, .of4 (r.imm.extractLsb' 8 4), r.imm.getLsbD 7, r.imm.extractLsb' 0 7⟩
  else none
def ma (r : Raw) : Option OpMA := do
  let a ← Src.of6 r.a
  if r.d.extractLsb' 2 4 == 0 && r.b == 0 && r.c == 0 && !r.imm.getLsbD 6 then
    some ⟨.of4 r.pred, r.d.extractLsb' 0 2, a, .of4 (r.imm.extractLsb' 8 4), r.imm.getLsbD 7, r.imm.extractLsb' 0 6⟩
  else none
def mt (r : Raw) : Option OpMT :=
  if r.d.extractLsb' 2 4 == 0 && r.a == 0 && r.b == 0 && r.c == 0 && r.imm == 0 then
    some ⟨.of4 r.pred, r.d.extractLsb' 0 2⟩
  else none
def md (r : Raw) : Option OpMD :=
  if r.a.extractLsb' 2 4 == 0 && r.b == 0 && r.c == 0 && r.imm.extractLsb' 7 5 == 0 then
    some ⟨.of4 r.pred, .of6 r.d, r.a.extractLsb' 0 2, r.imm.getLsbD 6, r.imm.extractLsb' 0 6⟩
  else none
def mc (r : Raw) : Option OpMC := do
  let b ← Src.of6 r.b; let c ← Src.of6 r.c
  if r.d == 0 && r.a.extractLsb' 2 4 == 0 && r.imm.extractLsb' 1 11 == 0 then
    some ⟨.of4 r.pred, r.a.extractLsb' 0 2, b, c, r.imm.getLsbD 0⟩
  else none
def mk (r : Raw) : Option OpMK := do
  let a ← Src.of6 r.a
  if r.d == 0 && r.b == 0 && r.c == 0 && r.imm.extractLsb' 8 4 == 0 then
    some ⟨.of4 r.pred, a, r.imm.extractLsb' 0 8⟩
  else none
def cm (tw : Twin) (r : Raw) : Option OpCM := do
  let a ← Src.of6 r.a; let form ← Form.of3 (r.b.extractLsb' 3 3)
  if r.b.extractLsb' 0 2 != 0 then none
  else if r.b.getLsbD 2 then
    if r.c.extractLsb' 4 2 == 0 then
      some ⟨tw, .of4 r.pred, .of6 r.d, a, form, true, .reg 0, .of4 (r.c.extractLsb' 0 4), r.imm⟩
    else none
  else do
    let c ← Src.of6 r.c
    some ⟨tw, .of4 r.pred, .of6 r.d, a, form, false, c, .s4, r.imm⟩
def ce (tw : Twin) (r : Raw) : Option OpCE := do
  let a ← Src.of6 r.a; let b ← Src.of6 r.b; let c ← Src.of6 r.c
  some ⟨tw, .of4 r.pred, .of6 r.d, a, b, c, r.imm⟩
def cp (tw : Twin) (r : Raw) : Option OpCP := do
  let a ← Src.of6 r.a; let b ← Src.of6 r.b; let c ← Src.of6 r.c
  if r.imm == 0 then some ⟨tw, .of4 r.pred, .of6 r.d, a, b, c⟩ else none
def lb (r : Raw) : Option OpLB :=
  if r.d == 0 then some ⟨.of4 r.pred, r.a ++ r.b ++ r.c ++ r.imm⟩ else none
def lr (r : Raw) : Option OpLR := do
  let a ← Src.of6 r.a; let b ← Src.of6 r.b
  if r.c == 0 && r.imm == 0 then some ⟨.of4 r.pred, .of6 r.d, a, b⟩ else none
def li (r : Raw) : Option OpLI :=
  if r.d == 0 && r.a == 0 && r.b == 0 && r.c == 0 then some ⟨.of4 r.pred, r.imm⟩ else none
end Lay

/-! ## Layouts: from operand records to fields -/

namespace Pk
def z (p : Pred) (op : BitVec 8) : Raw := ⟨p.to4, op, 0, 0, 0, 0, 0, none⟩
/-- The immediate in IMM, or in IMM and the extension word where it does not fit (R111). -/
def im (r : Raw) (imm : BitVec 44) : Raw :=
  if fits12 imm then { r with imm := imm.setWidth 12, xw := none }
  else { r with imm := imm.setWidth 12, xw := some (imm.extractLsb' 12 32) }
def n (op : BitVec 8) (o : OpN) : Raw := z o.p op
def nt (op : BitVec 8) (o : OpNT) : Raw := z o.p op
def rrr (op : BitVec 8) (o : OpRRR) : Raw :=
  { z o.p op with d := o.d.to6, a := o.a.to6, b := o.b.to6, c := o.c.to6, imm := 0#4 ++ o.rm.to3 ++ 0#5 }
def ri (op : BitVec 8) (o : OpRI) : Raw := im { z o.p op with d := o.d.to6, a := o.a.to6 } o.imm
def qrr (op : BitVec 8) (o : OpQRR) : Raw := { z o.p op with d := 0#3 ++ o.q, a := o.a.to6, b := o.b.to6 }
def qri (op : BitVec 8) (o : OpQRI) : Raw := im { z o.p op with d := 0#3 ++ o.q, a := o.a.to6 } o.imm
def bf (op : BitVec 8) (o : OpBF) : Raw :=
  { z o.p op with d := o.d.to6, a := o.a.to6, b := o.b.to6, imm := o.pos ++ o.len }
def di (op : BitVec 8) (o : OpDI) : Raw := im { z o.p op with d := o.d.to6, a := o.a.to6 } o.imm
def sc (op : BitVec 8) (o : OpSC) : Raw :=
  { z o.p op with d := o.d.to6, a := o.a.to6, imm := o.dty.to4 ++ o.rm.to3 ++ 0#1 ++ o.sty.to4 }
def crr (op : BitVec 8) (o : OpCRr) : Raw := { z o.p op with d := o.d.to6, imm := 0#6 ++ o.n.to6 }
def crw (op : BitVec 8) (o : OpCRw) : Raw := { z o.p op with a := o.a.to6, imm := 0#6 ++ o.n.to6 }
def ev (op : BitVec 8) (o : OpEv) : Raw := { z o.p op with imm := 0#7 ++ o.n }
def sm (op : BitVec 8) (o : OpSM) : Raw :=
  im { z o.p op with d := o.d.to6, a := o.a.to6, b := o.form.to3 ++ BitVec.ofBool o.sx ++ o.size.to2, c := o.c.to6 } o.imm
def sa (op : BitVec 8) (o : OpSA) : Raw :=
  im { z o.p op with d := o.d.to6, a := o.a.to6, b := 0#4 ++ o.size.to2, c := o.c.to6 } o.imm
def ss (op : BitVec 8) (o : OpSS) : Raw := im { z o.p op with d := o.d.to6, a := o.a.to6, c := o.c.to6 } o.imm
def br (op : BitVec 8) (o : OpBR) : Raw :=
  { z o.p op with d := o.d.to6, a := 0#3 ++ o.bn, b := o.b.to6, c := o.c.to6, imm := o.off ++ o.slot }
def vrrr (op : BitVec 8) (o : OpVRRR) : Raw :=
  { z o.p op with d := o.d.to6, a := o.a.to6, b := o.b.to6, c := o.k.to6, imm := o.ty.to4 ++ o.rm.to3 ++ o.sub }
def vi (op : BitVec 8) (o : OpVI) : Raw :=
  { z o.p op with d := o.d.to6, a := o.a.to6, b := o.b.to6, c := o.k.to6, imm := o.ty.to4 ++ o.imm }
def vf (op : BitVec 8) (o : OpVF) : Raw :=
  { z o.p op with d := o.d.to6, a := o.a.to6, b := o.b.to6, c := o.c.to6,
                  imm := o.ty.to4 ++ o.rm.to3 ++ BitVec.ofBool o.neg ++ o.k }
def vk (op : BitVec 8) (o : OpVK) : Raw :=
  { z o.p op with d := o.d.to6, a := o.a.to6, b := o.b.to6, c := o.k.to6, imm := o.ty.to4 ++ 0#8 }
def kk (op : BitVec 8) (o : OpKK) : Raw := { z o.p op with d := o.d.to6, a := o.a.to6, b := o.b.to6 }
def vc (op : BitVec 8) (o : OpVC) : Raw :=
  { z o.p op with d := o.d.to6, a := o.a.to6, b := 0#2 ++ o.sty.to4, c := o.k.to6,
                  imm := o.dty.to4 ++ o.rm.to3 ++ 0#4 ++ BitVec.ofBool o.half }
def vg (op : BitVec 8) (o : OpVG) : Raw :=
  { z o.p op with d := o.d.to6, a := o.a.to6, c := o.k.to6, imm := o.ty.to4 ++ 0#8 }
def mp (op : BitVec 8) (o : OpMP) : Raw :=
  { z o.p op with a := o.a.to6, imm := o.ty.to4 ++ BitVec.ofBool o.half ++ o.row }
def ma (op : BitVec 8) (o : OpMA) : Raw :=
  { z o.p op with d := 0#4 ++ o.t, a := o.a.to6, imm := o.ty.to4 ++ BitVec.ofBool o.half ++ 0#1 ++ o.row }
def mt (op : BitVec 8) (o : OpMT) : Raw := { z o.p op with d := 0#4 ++ o.t }
def md (op : BitVec 8) (o : OpMD) : Raw :=
  { z o.p op with d := o.d.to6, a := 0#4 ++ o.t, imm := 0#5 ++ BitVec.ofBool o.half ++ o.row }
def mc (op : BitVec 8) (o : OpMC) : Raw :=
  { z o.p op with a := 0#4 ++ o.t, b := o.b.to6, c := o.c.to6, imm := 0#11 ++ BitVec.ofBool o.add }
def mk (op : BitVec 8) (o : OpMK) : Raw := { z o.p op with a := o.a.to6, imm := 0#4 ++ o.pat }
def cm (op : BitVec 8) (o : OpCM) : Raw :=
  { z o.p op with d := o.d.to6, a := o.a.to6, b := o.form.to3 ++ BitVec.ofBool o.dec ++ 0#2,
                  c := if o.dec then 0#2 ++ o.ty.to4 else o.c.to6, imm := o.imm }
def ce (op : BitVec 8) (o : OpCE) : Raw :=
  { z o.p op with d := o.d.to6, a := o.a.to6, b := o.b.to6, c := o.c.to6, imm := o.m }
def cp (op : BitVec 8) (o : OpCP) : Raw := { z o.p op with d := o.d.to6, a := o.a.to6, b := o.b.to6, c := o.c.to6 }
def lb (op : BitVec 8) (o : OpLB) : Raw :=
  { z o.p op with a := o.off.extractLsb' 24 6, b := o.off.extractLsb' 18 6, c := o.off.extractLsb' 12 6,
                  imm := o.off.extractLsb' 0 12 }
def lr (op : BitVec 8) (o : OpLR) : Raw := { z o.p op with d := o.d.to6, a := o.a.to6, b := o.b.to6 }
def li (op : BitVec 8) (o : OpLI) : Raw := { z o.p op with imm := o.imm }
end Pk

/-! ## Opcode tables (Tables 05-5 to 05-9) -/

/-- What a layout yields for an opcode, held to the instruction's own limits. -/
def finish {α β : Type} (o : Option α) (wf : α → Bool) (mk : α → β) : Except DecErr β :=
  match o with
  | none => .error .illOperand
  | some x => if wf x then .ok (mk x) else .error .illOperand

/-- FORM checks of R121 that raise ILL_OP, before any that raises ILL_OPERAND: `space` as in `Wf.smLoad`. -/
def formIllOp (form : BitVec 3) (load : Bool) (space : Nat) : Bool :=
  let f := form.toNat
  (decide (1 ≤ f) && decide (f ≤ 4)) && (decide (3 ≤ space) || (if load then decide (3 ≤ f) else decide (f ≤ 2)))

/-- A scalar access under R121. -/
def smDec {β : Type} (r : Raw) (load : Bool) (space : Nat) (mk : OpSM → β) : Except DecErr β :=
  if formIllOp (r.b.extractLsb' 3 3) load space then .error .illOp
  else if decide (space < 2) && !r.noX then .error .illOperand
  else finish (Lay.sm r) (fun o => if load then Wf.smLoad o space else Wf.smStore o space) mk

/-- A vector access under R121: DEC on a store or outside DEVICE raises ILL_OP. -/
def cmDec {β : Type} (tw : Twin) (r : Raw) (load : Bool) (space : Nat) (mk : OpCM → β) : Except DecErr β :=
  if formIllOp (r.b.extractLsb' 3 3) load space || (r.b.getLsbD 2 && (!load || space != 2)) then .error .illOp
  else finish (Lay.cm tw r) (fun o => if load then Wf.cmLoad o space else Wf.cmStore o space) mk

/-- An atomic: XS is not allowed in LOCAL and CLUSTER (R122). -/
def saDec {β : Type} (r : Raw) (space : Nat) (mk : OpSA → β) : Except DecErr β :=
  if decide (space < 2) && !r.noX then .error .illOperand else finish (Lay.sa r) (fun o => Wf.sa o space) mk

/-- A decoded word of slot S: the constructors of `Instr` that the S table (Table 05-5) holds. -/
inductive SWord where
  | nop (o : OpN)
  | add (o : OpRRR)
  | sub (o : OpRRR)
  | mul (o : OpRRR)
  | mulhS64 (o : OpRRR)
  | mulhZ64 (o : OpRRR)
  | divS64 (o : OpRRR)
  | divZ64 (o : OpRRR)
  | remS64 (o : OpRRR)
  | remZ64 (o : OpRRR)
  | minS64 (o : OpRRR)
  | minZ64 (o : OpRRR)
  | maxS64 (o : OpRRR)
  | maxZ64 (o : OpRRR)
  | addImm (o : OpRI)
  | subImm (o : OpRI)
  | mulImm (o : OpRI)
  | mulhS64Imm (o : OpRI)
  | mulhZ64Imm (o : OpRI)
  | divS64Imm (o : OpRI)
  | divZ64Imm (o : OpRI)
  | remS64Imm (o : OpRI)
  | remZ64Imm (o : OpRI)
  | minS64Imm (o : OpRI)
  | minZ64Imm (o : OpRI)
  | maxS64Imm (o : OpRI)
  | maxZ64Imm (o : OpRI)
  | and (o : OpRRR)
  | or (o : OpRRR)
  | xor (o : OpRRR)
  | andn (o : OpRRR)
  | shl (o : OpRRR)
  | shrZ64 (o : OpRRR)
  | shrS64 (o : OpRRR)
  | rot (o : OpRRR)
  | andImm (o : OpRI)
  | orImm (o : OpRI)
  | xorImm (o : OpRI)
  | andnImm (o : OpRI)
  | shlImm (o : OpRI)
  | shrZ64Imm (o : OpRI)
  | shrS64Imm (o : OpRI)
  | rotImm (o : OpRI)
  | popc (o : OpRRR)
  | clz (o : OpRRR)
  | ctz (o : OpRRR)
  | bext (o : OpBF)
  | bins (o : OpBF)
  | sext (o : OpBF)
  | cmpEq (o : OpRRR)
  | cmpNe (o : OpRRR)
  | cmpLtS64 (o : OpRRR)
  | cmpLtZ64 (o : OpRRR)
  | cmpLeS64 (o : OpRRR)
  | cmpLeZ64 (o : OpRRR)
  | cmpEqQ (o : OpQRR)
  | cmpNeQ (o : OpQRR)
  | cmpLtS64Q (o : OpQRR)
  | cmpLtZ64Q (o : OpQRR)
  | cmpLeS64Q (o : OpQRR)
  | cmpLeZ64Q (o : OpQRR)
  | cmpEqImm (o : OpRI)
  | cmpNeImm (o : OpRI)
  | cmpLtS64Imm (o : OpRI)
  | cmpLtZ64Imm (o : OpRI)
  | cmpLeS64Imm (o : OpRI)
  | cmpLeZ64Imm (o : OpRI)
  | cmpEqQImm (o : OpQRI)
  | cmpNeQImm (o : OpQRI)
  | cmpLtS64QImm (o : OpQRI)
  | cmpLtZ64QImm (o : OpQRI)
  | cmpLeS64QImm (o : OpQRI)
  | cmpLeZ64QImm (o : OpQRI)
  | sel (o : OpRRR)
  | li (o : OpDI)
  | lih (o : OpDI)
  | movFromCr (o : OpCRr)
  | movToCr (o : OpCRw)
  | evtSet (o : OpEv)
  | evtClr (o : OpEv)
  | faddF (o : OpRRR)
  | fsubF (o : OpRRR)
  | fmulF (o : OpRRR)
  | fmaF (o : OpRRR)
  | fminF (o : OpRRR)
  | fmaxF (o : OpRRR)
  | cvt (o : OpSC)
  | pagein (o : OpRI)
  | ldLoc (o : OpSM)
  | stLoc (o : OpSM)
  | ldClu (o : OpSM)
  | stClu (o : OpSM)
  | ldDev (o : OpSM)
  | stDev (o : OpSM)
  | ldPeer (o : OpSM)
  | stPeer (o : OpSM)
  | ldHost (o : OpSM)
  | stHost (o : OpSM)
  | spLd (o : OpSS)
  | spSt (o : OpSS)
  | spVld (o : OpSS)
  | spVst (o : OpSS)
  | atomAddLoc (o : OpSA)
  | atomAndLoc (o : OpSA)
  | atomOrLoc (o : OpSA)
  | atomXorLoc (o : OpSA)
  | atomMinsLoc (o : OpSA)
  | atomMinzLoc (o : OpSA)
  | atomMaxsLoc (o : OpSA)
  | atomMaxzLoc (o : OpSA)
  | atomSwapLoc (o : OpSA)
  | atomCasLoc (o : OpSA)
  | atomAddClu (o : OpSA)
  | atomAndClu (o : OpSA)
  | atomOrClu (o : OpSA)
  | atomXorClu (o : OpSA)
  | atomMinsClu (o : OpSA)
  | atomMinzClu (o : OpSA)
  | atomMaxsClu (o : OpSA)
  | atomMaxzClu (o : OpSA)
  | atomSwapClu (o : OpSA)
  | atomCasClu (o : OpSA)
  | atomAddDev (o : OpSA)
  | atomAndDev (o : OpSA)
  | atomOrDev (o : OpSA)
  | atomXorDev (o : OpSA)
  | atomMinsDev (o : OpSA)
  | atomMinzDev (o : OpSA)
  | atomMaxsDev (o : OpSA)
  | atomMaxzDev (o : OpSA)
  | atomSwapDev (o : OpSA)
  | atomCasDev (o : OpSA)
  | atomAddPeer (o : OpSA)
  | atomAndPeer (o : OpSA)
  | atomOrPeer (o : OpSA)
  | atomXorPeer (o : OpSA)
  | atomMinsPeer (o : OpSA)
  | atomMinzPeer (o : OpSA)
  | atomMaxsPeer (o : OpSA)
  | atomMaxzPeer (o : OpSA)
  | atomSwapPeer (o : OpSA)
  | atomCasPeer (o : OpSA)
  | barInit (o : OpBR)
  | barArrive (o : OpBR)
  | barWait (o : OpBR)
  | barTest (o : OpBR)

/-- A decoded word of slot V: the constructors of `Instr` that the V table (Table 05-6) holds. -/
inductive VWord where
  | vnop (o : OpNT)
  | vadd (o : OpVRRR)
  | vsub (o : OpVRRR)
  | vmul (o : OpVRRR)
  | vmulh (o : OpVRRR)
  | vmin (o : OpVRRR)
  | vmax (o : OpVRRR)
  | vadds (o : OpVRRR)
  | vsubs (o : OpVRRR)
  | vavg (o : OpVRRR)
  | vabs (o : OpVRRR)
  | vneg (o : OpVRRR)
  | vmov (o : OpVRRR)
  | vand (o : OpVRRR)
  | vor (o : OpVRRR)
  | vxor (o : OpVRRR)
  | vandn (o : OpVRRR)
  | vnot (o : OpVRRR)
  | vshl (o : OpVRRR)
  | vshr (o : OpVRRR)
  | vshrr (o : OpVRRR)
  | vshlImm (o : OpVI)
  | vshrImm (o : OpVI)
  | vshrrImm (o : OpVI)
  | vfadd (o : OpVRRR)
  | vfsub (o : OpVRRR)
  | vfmul (o : OpVRRR)
  | vfma (o : OpVF)
  | vfmin (o : OpVRRR)
  | vfmax (o : OpVRRR)
  | vfabs (o : OpVRRR)
  | vfneg (o : OpVRRR)
  | vexp2 (o : OpVRRR)
  | vrcp (o : OpVRRR)
  | vcmpEq (o : OpVK)
  | vcmpNe (o : OpVK)
  | vcmpLt (o : OpVK)
  | vcmpLe (o : OpVK)
  | kand (o : OpKK)
  | kor (o : OpKK)
  | kxor (o : OpKK)
  | kandn (o : OpKK)
  | knot (o : OpKK)
  | vsel (o : OpVRRR)
  | vperm (o : OpVRRR)
  | vbcast (o : OpVI)
  | vbcastG (o : OpVG)
  | vslideUp (o : OpVI)
  | vslideDn (o : OpVI)
  | vrotm (o : OpVI)
  | vsplat (o : OpVI)
  | vredsum (o : OpVRRR)
  | vredmax (o : OpVRRR)
  | vredmin (o : OpVRRR)
  | vcvt (o : OpVC)
  | vcvtW (o : OpVC)
  | vcvtN (o : OpVC)
  | vkpack (o : OpVRRR)
  | vkunpk (o : OpVRRR)
  | vrq (o : OpVRRR)

/-- A decoded word of slot M: the constructors of `Instr` that the M table (Table 05-7) holds. -/
inductive MWord where
  | mnop (o : OpN)
  | mpushV (o : OpMP)
  | mpushSp (o : OpMP)
  | mpushW (o : OpMP)
  | mswap (o : OpN)
  | maccV (o : OpMA)
  | maccSp (o : OpMA)
  | mshift (o : OpMT)
  | mzero (o : OpMT)
  | mdrain (o : OpMD)
  | mdrainCp (o : OpMC)
  | mkat (o : OpMK)

/-- A decoded word of slot C: the constructors of `Instr` that the C table (Table 05-8) holds. -/
inductive CWord where
  | cnop (o : OpNT)
  | vldLoc (o : OpCM)
  | vstLoc (o : OpCM)
  | vldClu (o : OpCM)
  | vstClu (o : OpCM)
  | vldDev (o : OpCM)
  | vstDev (o : OpCM)
  | vldPeer (o : OpCM)
  | vstPeer (o : OpCM)
  | vldHost (o : OpCM)
  | vstHost (o : OpCM)
  | vldKv (o : OpCM)
  | vstKv (o : OpCM)
  | cpGo (o : OpCE)
  | cpAdv (o : OpNT)
  | cp (o : OpCE)
  | cpTsr (o : OpCE)
  | gathKv (o : OpCE)
  | rotClu (o : OpCE)
  | redAdd (o : OpCE)
  | kvBind (o : OpCE)
  | pfxHash (o : OpCP)
  | pfxLook (o : OpCP)
  | pfxCmp (o : OpCP)
  | pfxIns (o : OpCP)
  | pfxPin (o : OpCP)
  | pfxUnpin (o : OpCP)

/-- A decoded word of slot L: the constructors of `Instr` that the L table (Table 05-9) holds. -/
inductive LWord where
  | lnop (o : OpN)
  | br (o : OpLB)
  | call (o : OpLB)
  | jmp (o : OpLR)
  | callR (o : OpLR)
  | loop (o : OpLB)
  | loopMod (o : OpLB)
  | sleepDue (o : OpN)
  | sleepN (o : OpLR)
  | fuse (o : OpN)
  | decouple (o : OpN)
  | rejoin (o : OpN)
  | brk (o : OpLI)
  | sys (o : OpLI)
  | eret (o : OpN)
  | taskSpawn (o : OpLR)
  | taskSig (o : OpLR)
  | taskYield (o : OpN)
  | taskEnd (o : OpN)
  | crewSync (o : OpN)
  | asnRetire (o : OpLR)
  | fenceQ (o : OpLI)
  | fencePeer (o : OpN)
  | fenceHost (o : OpN)
  | lnsTmpl (o : OpLR)
  | lnsLvl (o : OpLR)
  | lnsRun (o : OpN)
  | lnsResume (o : OpLR)
  | lnsAbort (o : OpN)

/-- The instruction of a decoded S word. -/
noncomputable def SWord.instr : SWord → Instr
  | .nop o => .nop o
  | .add o => .add o
  | .sub o => .sub o
  | .mul o => .mul o
  | .mulhS64 o => .mulhS64 o
  | .mulhZ64 o => .mulhZ64 o
  | .divS64 o => .divS64 o
  | .divZ64 o => .divZ64 o
  | .remS64 o => .remS64 o
  | .remZ64 o => .remZ64 o
  | .minS64 o => .minS64 o
  | .minZ64 o => .minZ64 o
  | .maxS64 o => .maxS64 o
  | .maxZ64 o => .maxZ64 o
  | .addImm o => .addImm o
  | .subImm o => .subImm o
  | .mulImm o => .mulImm o
  | .mulhS64Imm o => .mulhS64Imm o
  | .mulhZ64Imm o => .mulhZ64Imm o
  | .divS64Imm o => .divS64Imm o
  | .divZ64Imm o => .divZ64Imm o
  | .remS64Imm o => .remS64Imm o
  | .remZ64Imm o => .remZ64Imm o
  | .minS64Imm o => .minS64Imm o
  | .minZ64Imm o => .minZ64Imm o
  | .maxS64Imm o => .maxS64Imm o
  | .maxZ64Imm o => .maxZ64Imm o
  | .and o => .and o
  | .or o => .or o
  | .xor o => .xor o
  | .andn o => .andn o
  | .shl o => .shl o
  | .shrZ64 o => .shrZ64 o
  | .shrS64 o => .shrS64 o
  | .rot o => .rot o
  | .andImm o => .andImm o
  | .orImm o => .orImm o
  | .xorImm o => .xorImm o
  | .andnImm o => .andnImm o
  | .shlImm o => .shlImm o
  | .shrZ64Imm o => .shrZ64Imm o
  | .shrS64Imm o => .shrS64Imm o
  | .rotImm o => .rotImm o
  | .popc o => .popc o
  | .clz o => .clz o
  | .ctz o => .ctz o
  | .bext o => .bext o
  | .bins o => .bins o
  | .sext o => .sext o
  | .cmpEq o => .cmpEq o
  | .cmpNe o => .cmpNe o
  | .cmpLtS64 o => .cmpLtS64 o
  | .cmpLtZ64 o => .cmpLtZ64 o
  | .cmpLeS64 o => .cmpLeS64 o
  | .cmpLeZ64 o => .cmpLeZ64 o
  | .cmpEqQ o => .cmpEqQ o
  | .cmpNeQ o => .cmpNeQ o
  | .cmpLtS64Q o => .cmpLtS64Q o
  | .cmpLtZ64Q o => .cmpLtZ64Q o
  | .cmpLeS64Q o => .cmpLeS64Q o
  | .cmpLeZ64Q o => .cmpLeZ64Q o
  | .cmpEqImm o => .cmpEqImm o
  | .cmpNeImm o => .cmpNeImm o
  | .cmpLtS64Imm o => .cmpLtS64Imm o
  | .cmpLtZ64Imm o => .cmpLtZ64Imm o
  | .cmpLeS64Imm o => .cmpLeS64Imm o
  | .cmpLeZ64Imm o => .cmpLeZ64Imm o
  | .cmpEqQImm o => .cmpEqQImm o
  | .cmpNeQImm o => .cmpNeQImm o
  | .cmpLtS64QImm o => .cmpLtS64QImm o
  | .cmpLtZ64QImm o => .cmpLtZ64QImm o
  | .cmpLeS64QImm o => .cmpLeS64QImm o
  | .cmpLeZ64QImm o => .cmpLeZ64QImm o
  | .sel o => .sel o
  | .li o => .li o
  | .lih o => .lih o
  | .movFromCr o => .movFromCr o
  | .movToCr o => .movToCr o
  | .evtSet o => .evtSet o
  | .evtClr o => .evtClr o
  | .faddF o => .faddF o
  | .fsubF o => .fsubF o
  | .fmulF o => .fmulF o
  | .fmaF o => .fmaF o
  | .fminF o => .fminF o
  | .fmaxF o => .fmaxF o
  | .cvt o => .cvt o
  | .pagein o => .pagein o
  | .ldLoc o => .ldLoc o
  | .stLoc o => .stLoc o
  | .ldClu o => .ldClu o
  | .stClu o => .stClu o
  | .ldDev o => .ldDev o
  | .stDev o => .stDev o
  | .ldPeer o => .ldPeer o
  | .stPeer o => .stPeer o
  | .ldHost o => .ldHost o
  | .stHost o => .stHost o
  | .spLd o => .spLd o
  | .spSt o => .spSt o
  | .spVld o => .spVld o
  | .spVst o => .spVst o
  | .atomAddLoc o => .atomAddLoc o
  | .atomAndLoc o => .atomAndLoc o
  | .atomOrLoc o => .atomOrLoc o
  | .atomXorLoc o => .atomXorLoc o
  | .atomMinsLoc o => .atomMinsLoc o
  | .atomMinzLoc o => .atomMinzLoc o
  | .atomMaxsLoc o => .atomMaxsLoc o
  | .atomMaxzLoc o => .atomMaxzLoc o
  | .atomSwapLoc o => .atomSwapLoc o
  | .atomCasLoc o => .atomCasLoc o
  | .atomAddClu o => .atomAddClu o
  | .atomAndClu o => .atomAndClu o
  | .atomOrClu o => .atomOrClu o
  | .atomXorClu o => .atomXorClu o
  | .atomMinsClu o => .atomMinsClu o
  | .atomMinzClu o => .atomMinzClu o
  | .atomMaxsClu o => .atomMaxsClu o
  | .atomMaxzClu o => .atomMaxzClu o
  | .atomSwapClu o => .atomSwapClu o
  | .atomCasClu o => .atomCasClu o
  | .atomAddDev o => .atomAddDev o
  | .atomAndDev o => .atomAndDev o
  | .atomOrDev o => .atomOrDev o
  | .atomXorDev o => .atomXorDev o
  | .atomMinsDev o => .atomMinsDev o
  | .atomMinzDev o => .atomMinzDev o
  | .atomMaxsDev o => .atomMaxsDev o
  | .atomMaxzDev o => .atomMaxzDev o
  | .atomSwapDev o => .atomSwapDev o
  | .atomCasDev o => .atomCasDev o
  | .atomAddPeer o => .atomAddPeer o
  | .atomAndPeer o => .atomAndPeer o
  | .atomOrPeer o => .atomOrPeer o
  | .atomXorPeer o => .atomXorPeer o
  | .atomMinsPeer o => .atomMinsPeer o
  | .atomMinzPeer o => .atomMinzPeer o
  | .atomMaxsPeer o => .atomMaxsPeer o
  | .atomMaxzPeer o => .atomMaxzPeer o
  | .atomSwapPeer o => .atomSwapPeer o
  | .atomCasPeer o => .atomCasPeer o
  | .barInit o => .barInit o
  | .barArrive o => .barArrive o
  | .barWait o => .barWait o
  | .barTest o => .barTest o

/-- The instruction of a decoded V word. -/
noncomputable def VWord.instr : VWord → Instr
  | .vnop o => .vnop o
  | .vadd o => .vadd o
  | .vsub o => .vsub o
  | .vmul o => .vmul o
  | .vmulh o => .vmulh o
  | .vmin o => .vmin o
  | .vmax o => .vmax o
  | .vadds o => .vadds o
  | .vsubs o => .vsubs o
  | .vavg o => .vavg o
  | .vabs o => .vabs o
  | .vneg o => .vneg o
  | .vmov o => .vmov o
  | .vand o => .vand o
  | .vor o => .vor o
  | .vxor o => .vxor o
  | .vandn o => .vandn o
  | .vnot o => .vnot o
  | .vshl o => .vshl o
  | .vshr o => .vshr o
  | .vshrr o => .vshrr o
  | .vshlImm o => .vshlImm o
  | .vshrImm o => .vshrImm o
  | .vshrrImm o => .vshrrImm o
  | .vfadd o => .vfadd o
  | .vfsub o => .vfsub o
  | .vfmul o => .vfmul o
  | .vfma o => .vfma o
  | .vfmin o => .vfmin o
  | .vfmax o => .vfmax o
  | .vfabs o => .vfabs o
  | .vfneg o => .vfneg o
  | .vexp2 o => .vexp2 o
  | .vrcp o => .vrcp o
  | .vcmpEq o => .vcmpEq o
  | .vcmpNe o => .vcmpNe o
  | .vcmpLt o => .vcmpLt o
  | .vcmpLe o => .vcmpLe o
  | .kand o => .kand o
  | .kor o => .kor o
  | .kxor o => .kxor o
  | .kandn o => .kandn o
  | .knot o => .knot o
  | .vsel o => .vsel o
  | .vperm o => .vperm o
  | .vbcast o => .vbcast o
  | .vbcastG o => .vbcastG o
  | .vslideUp o => .vslideUp o
  | .vslideDn o => .vslideDn o
  | .vrotm o => .vrotm o
  | .vsplat o => .vsplat o
  | .vredsum o => .vredsum o
  | .vredmax o => .vredmax o
  | .vredmin o => .vredmin o
  | .vcvt o => .vcvt o
  | .vcvtW o => .vcvtW o
  | .vcvtN o => .vcvtN o
  | .vkpack o => .vkpack o
  | .vkunpk o => .vkunpk o
  | .vrq o => .vrq o

/-- The instruction of a decoded M word. -/
noncomputable def MWord.instr : MWord → Instr
  | .mnop o => .mnop o
  | .mpushV o => .mpushV o
  | .mpushSp o => .mpushSp o
  | .mpushW o => .mpushW o
  | .mswap o => .mswap o
  | .maccV o => .maccV o
  | .maccSp o => .maccSp o
  | .mshift o => .mshift o
  | .mzero o => .mzero o
  | .mdrain o => .mdrain o
  | .mdrainCp o => .mdrainCp o
  | .mkat o => .mkat o

/-- The instruction of a decoded C word. -/
noncomputable def CWord.instr : CWord → Instr
  | .cnop o => .cnop o
  | .vldLoc o => .vldLoc o
  | .vstLoc o => .vstLoc o
  | .vldClu o => .vldClu o
  | .vstClu o => .vstClu o
  | .vldDev o => .vldDev o
  | .vstDev o => .vstDev o
  | .vldPeer o => .vldPeer o
  | .vstPeer o => .vstPeer o
  | .vldHost o => .vldHost o
  | .vstHost o => .vstHost o
  | .vldKv o => .vldKv o
  | .vstKv o => .vstKv o
  | .cpGo o => .cpGo o
  | .cpAdv o => .cpAdv o
  | .cp o => .cp o
  | .cpTsr o => .cpTsr o
  | .gathKv o => .gathKv o
  | .rotClu o => .rotClu o
  | .redAdd o => .redAdd o
  | .kvBind o => .kvBind o
  | .pfxHash o => .pfxHash o
  | .pfxLook o => .pfxLook o
  | .pfxCmp o => .pfxCmp o
  | .pfxIns o => .pfxIns o
  | .pfxPin o => .pfxPin o
  | .pfxUnpin o => .pfxUnpin o

/-- The instruction of a decoded L word. -/
noncomputable def LWord.instr : LWord → Instr
  | .lnop o => .lnop o
  | .br o => .br o
  | .call o => .call o
  | .jmp o => .jmp o
  | .callR o => .callR o
  | .loop o => .loop o
  | .loopMod o => .loopMod o
  | .sleepDue o => .sleepDue o
  | .sleepN o => .sleepN o
  | .fuse o => .fuse o
  | .decouple o => .decouple o
  | .rejoin o => .rejoin o
  | .brk o => .brk o
  | .sys o => .sys o
  | .eret o => .eret o
  | .taskSpawn o => .taskSpawn o
  | .taskSig o => .taskSig o
  | .taskYield o => .taskYield o
  | .taskEnd o => .taskEnd o
  | .crewSync o => .crewSync o
  | .asnRetire o => .asnRetire o
  | .fenceQ o => .fenceQ o
  | .fencePeer o => .fencePeer o
  | .fenceHost o => .fenceHost o
  | .lnsTmpl o => .lnsTmpl o
  | .lnsLvl o => .lnsLvl o
  | .lnsRun o => .lnsRun o
  | .lnsResume o => .lnsResume o
  | .lnsAbort o => .lnsAbort o

/-- The S table (Table 05-5). -/
def decodeS (r : Raw) : Except DecErr SWord :=
  match r.op.toNat with
  | 0x00 => finish (Lay.n r) (fun o => o.p.wf) .nop
  | 0x01 => finish (Lay.rrr r) (fun o => Wf.rrr o true false false) .add
  | 0x02 => finish (Lay.rrr r) (fun o => Wf.rrr o true false false) .sub
  | 0x03 => finish (Lay.rrr r) (fun o => Wf.rrr o true false false) .mul
  | 0x04 => finish (Lay.rrr r) (fun o => Wf.rrr o true false false) .mulhS64
  | 0x05 => finish (Lay.rrr r) (fun o => Wf.rrr o true false false) .mulhZ64
  | 0x06 => finish (Lay.rrr r) (fun o => Wf.rrr o true false false) .divS64
  | 0x07 => finish (Lay.rrr r) (fun o => Wf.rrr o true false false) .divZ64
  | 0x08 => finish (Lay.rrr r) (fun o => Wf.rrr o true false false) .remS64
  | 0x09 => finish (Lay.rrr r) (fun o => Wf.rrr o true false false) .remZ64
  | 0x0A => finish (Lay.rrr r) (fun o => Wf.rrr o true false false) .minS64
  | 0x0B => finish (Lay.rrr r) (fun o => Wf.rrr o true false false) .minZ64
  | 0x0C => finish (Lay.rrr r) (fun o => Wf.rrr o true false false) .maxS64
  | 0x0D => finish (Lay.rrr r) (fun o => Wf.rrr o true false false) .maxZ64
  | 0x11 => finish (Lay.ri r) (fun o => Wf.ri o) .addImm
  | 0x12 => finish (Lay.ri r) (fun o => Wf.ri o) .subImm
  | 0x13 => finish (Lay.ri r) (fun o => Wf.ri o) .mulImm
  | 0x14 => finish (Lay.ri r) (fun o => Wf.ri o) .mulhS64Imm
  | 0x15 => finish (Lay.ri r) (fun o => Wf.ri o) .mulhZ64Imm
  | 0x16 => finish (Lay.ri r) (fun o => Wf.ri o) .divS64Imm
  | 0x17 => finish (Lay.ri r) (fun o => Wf.ri o) .divZ64Imm
  | 0x18 => finish (Lay.ri r) (fun o => Wf.ri o) .remS64Imm
  | 0x19 => finish (Lay.ri r) (fun o => Wf.ri o) .remZ64Imm
  | 0x1A => finish (Lay.ri r) (fun o => Wf.ri o) .minS64Imm
  | 0x1B => finish (Lay.ri r) (fun o => Wf.ri o) .minZ64Imm
  | 0x1C => finish (Lay.ri r) (fun o => Wf.ri o) .maxS64Imm
  | 0x1D => finish (Lay.ri r) (fun o => Wf.ri o) .maxZ64Imm
  | 0x20 => finish (Lay.rrr r) (fun o => Wf.rrr o true false false) .and
  | 0x21 => finish (Lay.rrr r) (fun o => Wf.rrr o true false false) .or
  | 0x22 => finish (Lay.rrr r) (fun o => Wf.rrr o true false false) .xor
  | 0x23 => finish (Lay.rrr r) (fun o => Wf.rrr o true false false) .andn
  | 0x24 => finish (Lay.rrr r) (fun o => Wf.rrr o true false false) .shl
  | 0x25 => finish (Lay.rrr r) (fun o => Wf.rrr o true false false) .shrZ64
  | 0x26 => finish (Lay.rrr r) (fun o => Wf.rrr o true false false) .shrS64
  | 0x27 => finish (Lay.rrr r) (fun o => Wf.rrr o true false false) .rot
  | 0x28 => finish (Lay.rrr r) (fun o => Wf.rrr o false false false) .popc
  | 0x29 => finish (Lay.rrr r) (fun o => Wf.rrr o false false false) .clz
  | 0x2A => finish (Lay.rrr r) (fun o => Wf.rrr o false false false) .ctz
  | 0x2B => finish (Lay.bf r) (fun o => Wf.bf o false) .bext
  | 0x2C => finish (Lay.bf r) (fun o => Wf.bf o true) .bins
  | 0x2D => finish (Lay.bf r) (fun o => Wf.bf o false) .sext
  | 0x30 => finish (Lay.ri r) (fun o => Wf.ri o) .andImm
  | 0x31 => finish (Lay.ri r) (fun o => Wf.ri o) .orImm
  | 0x32 => finish (Lay.ri r) (fun o => Wf.ri o) .xorImm
  | 0x33 => finish (Lay.ri r) (fun o => Wf.ri o) .andnImm
  | 0x34 => finish (Lay.ri r) (fun o => Wf.ri o) .shlImm
  | 0x35 => finish (Lay.ri r) (fun o => Wf.ri o) .shrZ64Imm
  | 0x36 => finish (Lay.ri r) (fun o => Wf.ri o) .shrS64Imm
  | 0x37 => finish (Lay.ri r) (fun o => Wf.ri o) .rotImm
  | 0x40 => finish (Lay.rrr r) (fun o => Wf.rrr o true false false) .cmpEq
  | 0x41 => finish (Lay.rrr r) (fun o => Wf.rrr o true false false) .cmpNe
  | 0x42 => finish (Lay.rrr r) (fun o => Wf.rrr o true false false) .cmpLtS64
  | 0x43 => finish (Lay.rrr r) (fun o => Wf.rrr o true false false) .cmpLtZ64
  | 0x44 => finish (Lay.rrr r) (fun o => Wf.rrr o true false false) .cmpLeS64
  | 0x45 => finish (Lay.rrr r) (fun o => Wf.rrr o true false false) .cmpLeZ64
  | 0x48 => finish (Lay.qrr r) (fun o => o.p.wf) .cmpEqQ
  | 0x49 => finish (Lay.qrr r) (fun o => o.p.wf) .cmpNeQ
  | 0x4A => finish (Lay.qrr r) (fun o => o.p.wf) .cmpLtS64Q
  | 0x4B => finish (Lay.qrr r) (fun o => o.p.wf) .cmpLtZ64Q
  | 0x4C => finish (Lay.qrr r) (fun o => o.p.wf) .cmpLeS64Q
  | 0x4D => finish (Lay.qrr r) (fun o => o.p.wf) .cmpLeZ64Q
  | 0x50 => finish (Lay.ri r) (fun o => Wf.ri o) .cmpEqImm
  | 0x51 => finish (Lay.ri r) (fun o => Wf.ri o) .cmpNeImm
  | 0x52 => finish (Lay.ri r) (fun o => Wf.ri o) .cmpLtS64Imm
  | 0x53 => finish (Lay.ri r) (fun o => Wf.ri o) .cmpLtZ64Imm
  | 0x54 => finish (Lay.ri r) (fun o => Wf.ri o) .cmpLeS64Imm
  | 0x55 => finish (Lay.ri r) (fun o => Wf.ri o) .cmpLeZ64Imm
  | 0x58 => finish (Lay.qri r) (fun o => o.p.wf) .cmpEqQImm
  | 0x59 => finish (Lay.qri r) (fun o => o.p.wf) .cmpNeQImm
  | 0x5A => finish (Lay.qri r) (fun o => o.p.wf) .cmpLtS64QImm
  | 0x5B => finish (Lay.qri r) (fun o => o.p.wf) .cmpLtZ64QImm
  | 0x5C => finish (Lay.qri r) (fun o => o.p.wf) .cmpLeS64QImm
  | 0x5D => finish (Lay.qri r) (fun o => o.p.wf) .cmpLeZ64QImm
  | 0x60 => finish (Lay.rrr r) (fun o => Wf.rrr o true true false && o.c.plainBelow 8) .sel
  | 0x62 => finish (Lay.di r) (fun o => o.p.wf && o.d.wf && o.a.zero) .li
  | 0x63 => finish (Lay.di r) (fun o => o.p.wf && o.d.wf) .lih
  | 0x64 => finish (Lay.crr r) (fun o => o.p.wf && o.d.wf) .movFromCr
  | 0x65 => finish (Lay.crw r) (fun o => o.p.wf) .movToCr
  | 0x66 => finish (Lay.ev r) (fun o => o.p.wf) .evtSet
  | 0x67 => finish (Lay.ev r) (fun o => o.p.wf) .evtClr
  | 0x70 => finish (Lay.rrr r) (fun o => Wf.rrr o true false true) .faddF
  | 0x71 => finish (Lay.rrr r) (fun o => Wf.rrr o true false true) .fsubF
  | 0x72 => finish (Lay.rrr r) (fun o => Wf.rrr o true false true) .fmulF
  | 0x73 => finish (Lay.rrr r) (fun o => Wf.rrr o true true true) .fmaF
  | 0x74 => finish (Lay.rrr r) (fun o => Wf.rrr o true false false) .fminF
  | 0x75 => finish (Lay.rrr r) (fun o => Wf.rrr o true false false) .fmaxF
  | 0x77 => finish (Lay.sc r) (fun o => o.p.wf && o.d.wf) .cvt
  | 0x78 => finish (Lay.ri r) (fun o => Wf.ri o) .pagein
  | 0x80 => smDec r true 0 .ldLoc
  | 0x81 => smDec r false 0 .stLoc
  | 0x82 => smDec r true 1 .ldClu
  | 0x83 => smDec r false 1 .stClu
  | 0x84 => smDec r true 2 .ldDev
  | 0x85 => smDec r false 2 .stDev
  | 0x86 => smDec r true 3 .ldPeer
  | 0x87 => smDec r false 3 .stPeer
  | 0x88 => smDec r true 4 .ldHost
  | 0x89 => smDec r false 4 .stHost
  | 0x90 => finish (Lay.ss r) (fun o => Wf.ss o true) .spLd
  | 0x91 => finish (Lay.ss r) (fun o => Wf.ss o false) .spSt
  | 0x92 => finish (Lay.ss r) (fun o => Wf.ss o true) .spVld
  | 0x93 => finish (Lay.ss r) (fun o => Wf.ss o false) .spVst
  | 0xA0 => saDec r 0 .atomAddLoc
  | 0xA1 => saDec r 0 .atomAndLoc
  | 0xA2 => saDec r 0 .atomOrLoc
  | 0xA3 => saDec r 0 .atomXorLoc
  | 0xA4 => saDec r 0 .atomMinsLoc
  | 0xA5 => saDec r 0 .atomMinzLoc
  | 0xA6 => saDec r 0 .atomMaxsLoc
  | 0xA7 => saDec r 0 .atomMaxzLoc
  | 0xA8 => saDec r 0 .atomSwapLoc
  | 0xA9 => saDec r 0 .atomCasLoc
  | 0xB0 => saDec r 1 .atomAddClu
  | 0xB1 => saDec r 1 .atomAndClu
  | 0xB2 => saDec r 1 .atomOrClu
  | 0xB3 => saDec r 1 .atomXorClu
  | 0xB4 => saDec r 1 .atomMinsClu
  | 0xB5 => saDec r 1 .atomMinzClu
  | 0xB6 => saDec r 1 .atomMaxsClu
  | 0xB7 => saDec r 1 .atomMaxzClu
  | 0xB8 => saDec r 1 .atomSwapClu
  | 0xB9 => saDec r 1 .atomCasClu
  | 0xC0 => saDec r 2 .atomAddDev
  | 0xC1 => saDec r 2 .atomAndDev
  | 0xC2 => saDec r 2 .atomOrDev
  | 0xC3 => saDec r 2 .atomXorDev
  | 0xC4 => saDec r 2 .atomMinsDev
  | 0xC5 => saDec r 2 .atomMinzDev
  | 0xC6 => saDec r 2 .atomMaxsDev
  | 0xC7 => saDec r 2 .atomMaxzDev
  | 0xC8 => saDec r 2 .atomSwapDev
  | 0xC9 => saDec r 2 .atomCasDev
  | 0xD0 => saDec r 3 .atomAddPeer
  | 0xD1 => saDec r 3 .atomAndPeer
  | 0xD2 => saDec r 3 .atomOrPeer
  | 0xD3 => saDec r 3 .atomXorPeer
  | 0xD4 => saDec r 3 .atomMinsPeer
  | 0xD5 => saDec r 3 .atomMinzPeer
  | 0xD6 => saDec r 3 .atomMaxsPeer
  | 0xD7 => saDec r 3 .atomMaxzPeer
  | 0xD8 => saDec r 3 .atomSwapPeer
  | 0xD9 => saDec r 3 .atomCasPeer
  | 0xE0 => finish (Lay.br r) (fun o => Wf.br o false true false) .barInit
  | 0xE1 => finish (Lay.br r) (fun o => Wf.br o true true true) .barArrive
  | 0xE2 => finish (Lay.br r) (fun o => Wf.br o true true true) .barWait
  | 0xE3 => finish (Lay.br r) (fun o => Wf.br o true false false) .barTest
  | _ => .error .illOp

/-- The V table (Table 05-6). -/
def decodeV (tw : Twin) (r : Raw) : Except DecErr VWord :=
  match r.op.toNat with
  | 0x00 => finish (Lay.nt tw r) (fun o => o.p.wf) .vnop
  | 0x01 => finish (Lay.vrrr tw r) (fun o => Wf.vrrr o o.ty.setI true false 0) .vadd
  | 0x02 => finish (Lay.vrrr tw r) (fun o => Wf.vrrr o o.ty.setI true false 0) .vsub
  | 0x03 => finish (Lay.vrrr tw r) (fun o => Wf.vrrr o o.ty.setI true false 0) .vmul
  | 0x04 => finish (Lay.vrrr tw r) (fun o => Wf.vrrr o o.ty.setI true false 1) .vmulh
  | 0x05 => finish (Lay.vrrr tw r) (fun o => Wf.vrrr o o.ty.setI true false 0) .vmin
  | 0x06 => finish (Lay.vrrr tw r) (fun o => Wf.vrrr o o.ty.setI true false 0) .vmax
  | 0x07 => finish (Lay.vrrr tw r) (fun o => Wf.vrrr o o.ty.setI true false 0) .vadds
  | 0x08 => finish (Lay.vrrr tw r) (fun o => Wf.vrrr o o.ty.setI true false 0) .vsubs
  | 0x09 => finish (Lay.vrrr tw r) (fun o => Wf.vrrr o o.ty.setI true false 0) .vavg
  | 0x0A => finish (Lay.vrrr tw r) (fun o => Wf.vrrr o (o.ty.setI && o.ty.isSigned) false false 0) .vabs
  | 0x0B => finish (Lay.vrrr tw r) (fun o => Wf.vrrr o (o.ty.setI && o.ty.isSigned) false false 0) .vneg
  | 0x0C => finish (Lay.vrrr tw r) (fun o => Wf.vrrr o true false false 0) .vmov
  | 0x10 => finish (Lay.vrrr tw r) (fun o => Wf.vrrr o true true false 0) .vand
  | 0x11 => finish (Lay.vrrr tw r) (fun o => Wf.vrrr o true true false 0) .vor
  | 0x12 => finish (Lay.vrrr tw r) (fun o => Wf.vrrr o true true false 0) .vxor
  | 0x13 => finish (Lay.vrrr tw r) (fun o => Wf.vrrr o true true false 0) .vandn
  | 0x14 => finish (Lay.vrrr tw r) (fun o => Wf.vrrr o true false false 0) .vnot
  | 0x18 => finish (Lay.vrrr tw r) (fun o => Wf.vrrr o o.ty.setI true false 0) .vshl
  | 0x19 => finish (Lay.vrrr tw r) (fun o => Wf.vrrr o o.ty.setI true false 0) .vshr
  | 0x1A => finish (Lay.vrrr tw r) (fun o => Wf.vrrr o o.ty.setI true false 0) .vshrr
  | 0x1C => finish (Lay.vi tw r) (fun o => Wf.vi o o.ty.setI true false) .vshlImm
  | 0x1D => finish (Lay.vi tw r) (fun o => Wf.vi o o.ty.setI true false) .vshrImm
  | 0x1E => finish (Lay.vi tw r) (fun o => Wf.vi o o.ty.setI true false) .vshrrImm
  | 0x20 => finish (Lay.vrrr tw r) (fun o => Wf.vrrr o o.ty.setF true true 0) .vfadd
  | 0x21 => finish (Lay.vrrr tw r) (fun o => Wf.vrrr o o.ty.setF true true 0) .vfsub
  | 0x22 => finish (Lay.vrrr tw r) (fun o => Wf.vrrr o o.ty.setF true true 0) .vfmul
  | 0x23 => finish (Lay.vf tw r) (fun o => o.p.wf && o.d.wf && o.ty.setF) .vfma
  | 0x24 => finish (Lay.vrrr tw r) (fun o => Wf.vrrr o o.ty.setF true false 0) .vfmin
  | 0x25 => finish (Lay.vrrr tw r) (fun o => Wf.vrrr o o.ty.setF true false 0) .vfmax
  | 0x26 => finish (Lay.vrrr tw r) (fun o => Wf.vrrr o o.ty.setF false false 0) .vfabs
  | 0x27 => finish (Lay.vrrr tw r) (fun o => Wf.vrrr o o.ty.setF false false 0) .vfneg
  | 0x28 => if tw == .second then finish (Lay.vrrr tw r) (fun o => Wf.vrrr o o.ty.setF false false 0 && o.tw == .second) .vexp2 else .error .illOp
  | 0x29 => if tw == .second then finish (Lay.vrrr tw r) (fun o => Wf.vrrr o o.ty.setF false false 0 && o.tw == .second) .vrcp else .error .illOp
  | 0x30 => finish (Lay.vk tw r) (fun o => Wf.vk o) .vcmpEq
  | 0x31 => finish (Lay.vk tw r) (fun o => Wf.vk o) .vcmpNe
  | 0x32 => finish (Lay.vk tw r) (fun o => Wf.vk o) .vcmpLt
  | 0x33 => finish (Lay.vk tw r) (fun o => Wf.vk o) .vcmpLe
  | 0x38 => finish (Lay.kk tw r) (fun o => Wf.kk o true) .kand
  | 0x39 => finish (Lay.kk tw r) (fun o => Wf.kk o true) .kor
  | 0x3A => finish (Lay.kk tw r) (fun o => Wf.kk o true) .kxor
  | 0x3B => finish (Lay.kk tw r) (fun o => Wf.kk o true) .kandn
  | 0x3C => finish (Lay.kk tw r) (fun o => Wf.kk o false) .knot
  | 0x40 => finish (Lay.vrrr tw r) (fun o => Wf.vrrr o true true false 0) .vsel
  | 0x41 => if tw == .first then finish (Lay.vrrr tw r) (fun o => Wf.vrrr o (decide (8 ≤ o.ty.width)) true false 0 && o.tw == .first) .vperm else .error .illOp
  | 0x42 => finish (Lay.vi tw r) (fun o => Wf.vi o (decide (o.imm.toNat < o.ty.count)) true false) .vbcast
  | 0x43 => finish (Lay.vg tw r) (fun o => o.p.wf && o.d.wf && o.k.below 16) .vbcastG
  | 0x44 => finish (Lay.vi tw r) (fun o => Wf.vi o true true false) .vslideUp
  | 0x45 => finish (Lay.vi tw r) (fun o => Wf.vi o true true false) .vslideDn
  | 0x46 => finish (Lay.vi tw r) (fun o => Wf.vi o (decide (o.imm.toNat < 128)) true true) .vrotm
  | 0x47 => finish (Lay.vi tw r) (fun o => Wf.vi o (o.ty.setI || o.ty.setF) false false) .vsplat
  | 0x50 => if tw == .first then finish (Lay.vrrr tw r) (fun o => Wf.vrrr o (o.ty.setI || o.ty.setF) false o.ty.setF (if o.ty.setI then 3 else 1) && o.tw == .first) .vredsum else .error .illOp
  | 0x51 => if tw == .first then finish (Lay.vrrr tw r) (fun o => Wf.vrrr o (o.ty.setI || o.ty.setF) false false 0 && o.tw == .first) .vredmax else .error .illOp
  | 0x52 => if tw == .first then finish (Lay.vrrr tw r) (fun o => Wf.vrrr o (o.ty.setI || o.ty.setF) false false 0 && o.tw == .first) .vredmin else .error .illOp
  | 0x58 => finish (Lay.vc tw r) (fun o => Wf.vc o (o.dty.width == o.sty.width) false) .vcvt
  | 0x59 => finish (Lay.vc tw r) (fun o => Wf.vc o (o.dty.width == 2 * o.sty.width) true) .vcvtW
  | 0x5A => finish (Lay.vc tw r) (fun o => Wf.vc o (2 * o.dty.width == o.sty.width) true) .vcvtN
  | 0x60 => if tw == .first then finish (Lay.vrrr tw r) (fun o => Wf.vrrr o (o.ty == .s16 || o.ty == .hf || o.ty == .bf) true true 0 && o.k.zero && o.tw == .first) .vkpack else .error .illOp
  | 0x61 => finish (Lay.vrrr tw r) (fun o => Wf.vrrr o (o.ty.width == 8 || o.ty.width == 16) (o.ty.width == 8) true 0) .vkunpk
  | 0x62 => finish (Lay.vrrr tw r) (fun o => Wf.vrrr o (o.ty == .s4) true true 0 && o.k.zero) .vrq
  | _ => .error .illOp

/-- The M table (Table 05-7). -/
def decodeM (r : Raw) : Except DecErr MWord :=
  match r.op.toNat with
  | 0x00 => finish (Lay.n r) (fun o => o.p.wf) .mnop
  | 0x01 => finish (Lay.mp r) (fun o => Wf.mp o true) .mpushV
  | 0x02 => finish (Lay.mp r) (fun o => Wf.mp o o.a.pair) .mpushSp
  | 0x03 => finish (Lay.mp r) (fun o => o.p.wf && o.ty == .s4 && !o.half) .mpushW
  | 0x04 => finish (Lay.n r) (fun o => o.p.wf) .mswap
  | 0x08 => finish (Lay.ma r) (fun o => Wf.ma o true) .maccV
  | 0x09 => finish (Lay.ma r) (fun o => Wf.ma o o.a.pair) .maccSp
  | 0x0A => finish (Lay.mt r) (fun o => o.p.wf) .mshift
  | 0x0B => finish (Lay.mt r) (fun o => o.p.wf) .mzero
  | 0x0C => finish (Lay.md r) (fun o => o.p.wf && o.d.wf) .mdrain
  | 0x0D => finish (Lay.mc r) (fun o => o.p.wf) .mdrainCp
  | 0x0E => finish (Lay.mk r) (fun o => o.p.wf) .mkat
  | _ => .error .illOp

/-- The C table (Table 05-8). -/
def decodeC (tw : Twin) (r : Raw) : Except DecErr CWord :=
  match r.op.toNat with
  | 0x00 => finish (Lay.nt tw r) (fun o => o.p.wf) .cnop
  | 0x01 => cmDec tw r true 0 .vldLoc
  | 0x02 => cmDec tw r false 0 .vstLoc
  | 0x03 => cmDec tw r true 1 .vldClu
  | 0x04 => cmDec tw r false 1 .vstClu
  | 0x05 => cmDec tw r true 2 .vldDev
  | 0x06 => cmDec tw r false 2 .vstDev
  | 0x07 => cmDec tw r true 3 .vldPeer
  | 0x08 => cmDec tw r false 3 .vstPeer
  | 0x09 => cmDec tw r true 4 .vldHost
  | 0x0A => cmDec tw r false 4 .vstHost
  | 0x0B => cmDec tw r true 5 .vldKv
  | 0x0C => cmDec tw r false 5 .vstKv
  | 0x10 => finish (Lay.ce tw r) (fun o => Wf.ce o true true false (o.m == 0)) .cpGo
  | 0x11 => if tw == .first then finish (Lay.nt tw r) (fun o => o.p.wf && o.tw == .first) .cpAdv else .error .illOp
  | 0x12 => finish (Lay.ce tw r) (fun o => Wf.ce o true true true (Wf.cpMods o.m)) .cp
  | 0x13 => finish (Lay.ce tw r) (fun o => Wf.ce o true true true (o.m.extractLsb' 2 10 == 0)) .cpTsr
  | 0x14 => finish (Lay.ce tw r) (fun o => Wf.ce o true true true (Wf.gathMods o.m)) .gathKv
  | 0x15 => finish (Lay.ce tw r) (fun o => Wf.ce o false true true (o.m.extractLsb' 1 11 == 0)) .rotClu
  | 0x16 => finish (Lay.ce tw r) (fun o => Wf.ce o false true true (Wf.tyOf (o.m.extractLsb' 8 4)).redTy) .redAdd
  | 0x18 => if tw == .first then finish (Lay.ce tw r) (fun o => Wf.ce o true false false (o.m == 0) && o.tw == .first) .kvBind else .error .illOp
  | 0x20 => if tw == .first then finish (Lay.cp tw r) (fun o => Wf.cp o true false) .pfxHash else .error .illOp
  | 0x21 => if tw == .first then finish (Lay.cp tw r) (fun o => Wf.cp o true false) .pfxLook else .error .illOp
  | 0x22 => if tw == .first then finish (Lay.cp tw r) (fun o => Wf.cp o true false) .pfxCmp else .error .illOp
  | 0x23 => if tw == .first then finish (Lay.cp tw r) (fun o => Wf.cp o true true) .pfxIns else .error .illOp
  | 0x24 => if tw == .first then finish (Lay.cp tw r) (fun o => Wf.cp o false false) .pfxPin else .error .illOp
  | 0x25 => if tw == .first then finish (Lay.cp tw r) (fun o => Wf.cp o false false) .pfxUnpin else .error .illOp
  | _ => .error .illOp

/-- The L table (Table 05-9). -/
def decodeL (r : Raw) : Except DecErr LWord :=
  match r.op.toNat with
  | 0x00 => finish (Lay.n r) (fun o => o.p.wf) .lnop
  | 0x01 => finish (Lay.lb r) (fun o => o.p.wf) .br
  | 0x02 => finish (Lay.lb r) (fun o => o.p.wf) .call
  | 0x03 => finish (Lay.lr r) (fun o => Wf.lr o false false) .jmp
  | 0x04 => finish (Lay.lr r) (fun o => Wf.lr o false false) .callR
  | 0x05 => finish (Lay.lb r) (fun o => o.p.wf) .loop
  | 0x06 => finish (Lay.lb r) (fun o => o.p.wf) .loopMod
  | 0x08 => finish (Lay.n r) (fun o => o.p.wf) .sleepDue
  | 0x09 => finish (Lay.lr r) (fun o => Wf.lr o false false) .sleepN
  | 0x0A => finish (Lay.n r) (fun o => o.p.wf) .fuse
  | 0x0B => finish (Lay.n r) (fun o => o.p.wf) .decouple
  | 0x0C => finish (Lay.n r) (fun o => o.p.wf) .rejoin
  | 0x10 => finish (Lay.li r) (fun o => o.p.wf) .brk
  | 0x11 => finish (Lay.li r) (fun o => o.p.wf) .sys
  | 0x12 => finish (Lay.n r) (fun o => o.p.wf) .eret
  | 0x18 => finish (Lay.lr r) (fun o => Wf.lr o true false) .taskSpawn
  | 0x19 => finish (Lay.lr r) (fun o => Wf.lr o true false) .taskSig
  | 0x1A => finish (Lay.n r) (fun o => o.p.wf) .taskYield
  | 0x1B => finish (Lay.n r) (fun o => o.p.wf) .taskEnd
  | 0x1C => finish (Lay.n r) (fun o => o.p.wf) .crewSync
  | 0x1D => finish (Lay.lr r) (fun o => Wf.lr o true false) .asnRetire
  | 0x20 => finish (Lay.li r) (fun o => o.p.wf && o.imm.extractLsb' 5 7 == 0) .fenceQ
  | 0x21 => finish (Lay.n r) (fun o => o.p.wf) .fencePeer
  | 0x22 => finish (Lay.n r) (fun o => o.p.wf) .fenceHost
  | 0x28 => finish (Lay.lr r) (fun o => Wf.lr o true true) .lnsTmpl
  | 0x29 => finish (Lay.lr r) (fun o => Wf.lr o true true) .lnsLvl
  | 0x2A => finish (Lay.n r) (fun o => o.p.wf) .lnsRun
  | 0x2B => finish (Lay.lr r) (fun o => Wf.lr o true false) .lnsResume
  | 0x2C => finish (Lay.n r) (fun o => o.p.wf) .lnsAbort
  | _ => .error .illOp

/-- A decoded slot word. (Lean compiles no constructor application beyond the first 244 constructors of a type, so what
runs in `step` is decoded to this type; `SlotWord.instr` says which instruction it is.) -/
inductive SlotWord where
  | s (w : SWord)
  | v (w : VWord)
  | m (w : MWord)
  | c (w : CWord)
  | l (w : LWord)

/-- The instruction of a decoded slot word. -/
noncomputable def SlotWord.instr : SlotWord → Instr
  | .s w => w.instr
  | .v w => w.instr
  | .m w => w.instr
  | .c w => w.instr
  | .l w => w.instr

/-- The decoded word of a slot (R116). -/
def decodeSlot : SlotPos → Raw → Except DecErr SlotWord
  | .s, r => (decodeS r).map .s
  | .v0, r => (decodeV .first r).map .v
  | .v1, r => (decodeV .second r).map .v
  | .m, r => (decodeM r).map .m
  | .c0, r => (decodeC .first r).map .c
  | .c1, r => (decodeC .second r).map .c
  | .l, r => (decodeL r).map .l

/-- The slot, and the fields of the slot word, of a slot instruction; none for any other constructor. -/
def encodeSlot : Instr → Option (SlotPos × Raw)
  | .nop o => some (.s, Pk.n 0x00 o)
  | .add o => some (.s, Pk.rrr 0x01 o)
  | .sub o => some (.s, Pk.rrr 0x02 o)
  | .mul o => some (.s, Pk.rrr 0x03 o)
  | .mulhS64 o => some (.s, Pk.rrr 0x04 o)
  | .mulhZ64 o => some (.s, Pk.rrr 0x05 o)
  | .divS64 o => some (.s, Pk.rrr 0x06 o)
  | .divZ64 o => some (.s, Pk.rrr 0x07 o)
  | .remS64 o => some (.s, Pk.rrr 0x08 o)
  | .remZ64 o => some (.s, Pk.rrr 0x09 o)
  | .minS64 o => some (.s, Pk.rrr 0x0A o)
  | .minZ64 o => some (.s, Pk.rrr 0x0B o)
  | .maxS64 o => some (.s, Pk.rrr 0x0C o)
  | .maxZ64 o => some (.s, Pk.rrr 0x0D o)
  | .addImm o => some (.s, Pk.ri 0x11 o)
  | .subImm o => some (.s, Pk.ri 0x12 o)
  | .mulImm o => some (.s, Pk.ri 0x13 o)
  | .mulhS64Imm o => some (.s, Pk.ri 0x14 o)
  | .mulhZ64Imm o => some (.s, Pk.ri 0x15 o)
  | .divS64Imm o => some (.s, Pk.ri 0x16 o)
  | .divZ64Imm o => some (.s, Pk.ri 0x17 o)
  | .remS64Imm o => some (.s, Pk.ri 0x18 o)
  | .remZ64Imm o => some (.s, Pk.ri 0x19 o)
  | .minS64Imm o => some (.s, Pk.ri 0x1A o)
  | .minZ64Imm o => some (.s, Pk.ri 0x1B o)
  | .maxS64Imm o => some (.s, Pk.ri 0x1C o)
  | .maxZ64Imm o => some (.s, Pk.ri 0x1D o)
  | .and o => some (.s, Pk.rrr 0x20 o)
  | .or o => some (.s, Pk.rrr 0x21 o)
  | .xor o => some (.s, Pk.rrr 0x22 o)
  | .andn o => some (.s, Pk.rrr 0x23 o)
  | .shl o => some (.s, Pk.rrr 0x24 o)
  | .shrZ64 o => some (.s, Pk.rrr 0x25 o)
  | .shrS64 o => some (.s, Pk.rrr 0x26 o)
  | .rot o => some (.s, Pk.rrr 0x27 o)
  | .andImm o => some (.s, Pk.ri 0x30 o)
  | .orImm o => some (.s, Pk.ri 0x31 o)
  | .xorImm o => some (.s, Pk.ri 0x32 o)
  | .andnImm o => some (.s, Pk.ri 0x33 o)
  | .shlImm o => some (.s, Pk.ri 0x34 o)
  | .shrZ64Imm o => some (.s, Pk.ri 0x35 o)
  | .shrS64Imm o => some (.s, Pk.ri 0x36 o)
  | .rotImm o => some (.s, Pk.ri 0x37 o)
  | .popc o => some (.s, Pk.rrr 0x28 o)
  | .clz o => some (.s, Pk.rrr 0x29 o)
  | .ctz o => some (.s, Pk.rrr 0x2A o)
  | .bext o => some (.s, Pk.bf 0x2B o)
  | .bins o => some (.s, Pk.bf 0x2C o)
  | .sext o => some (.s, Pk.bf 0x2D o)
  | .cmpEq o => some (.s, Pk.rrr 0x40 o)
  | .cmpNe o => some (.s, Pk.rrr 0x41 o)
  | .cmpLtS64 o => some (.s, Pk.rrr 0x42 o)
  | .cmpLtZ64 o => some (.s, Pk.rrr 0x43 o)
  | .cmpLeS64 o => some (.s, Pk.rrr 0x44 o)
  | .cmpLeZ64 o => some (.s, Pk.rrr 0x45 o)
  | .cmpEqQ o => some (.s, Pk.qrr 0x48 o)
  | .cmpNeQ o => some (.s, Pk.qrr 0x49 o)
  | .cmpLtS64Q o => some (.s, Pk.qrr 0x4A o)
  | .cmpLtZ64Q o => some (.s, Pk.qrr 0x4B o)
  | .cmpLeS64Q o => some (.s, Pk.qrr 0x4C o)
  | .cmpLeZ64Q o => some (.s, Pk.qrr 0x4D o)
  | .cmpEqImm o => some (.s, Pk.ri 0x50 o)
  | .cmpNeImm o => some (.s, Pk.ri 0x51 o)
  | .cmpLtS64Imm o => some (.s, Pk.ri 0x52 o)
  | .cmpLtZ64Imm o => some (.s, Pk.ri 0x53 o)
  | .cmpLeS64Imm o => some (.s, Pk.ri 0x54 o)
  | .cmpLeZ64Imm o => some (.s, Pk.ri 0x55 o)
  | .cmpEqQImm o => some (.s, Pk.qri 0x58 o)
  | .cmpNeQImm o => some (.s, Pk.qri 0x59 o)
  | .cmpLtS64QImm o => some (.s, Pk.qri 0x5A o)
  | .cmpLtZ64QImm o => some (.s, Pk.qri 0x5B o)
  | .cmpLeS64QImm o => some (.s, Pk.qri 0x5C o)
  | .cmpLeZ64QImm o => some (.s, Pk.qri 0x5D o)
  | .sel o => some (.s, Pk.rrr 0x60 o)
  | .li o => some (.s, Pk.di 0x62 o)
  | .lih o => some (.s, Pk.di 0x63 o)
  | .movFromCr o => some (.s, Pk.crr 0x64 o)
  | .movToCr o => some (.s, Pk.crw 0x65 o)
  | .evtSet o => some (.s, Pk.ev 0x66 o)
  | .evtClr o => some (.s, Pk.ev 0x67 o)
  | .faddF o => some (.s, Pk.rrr 0x70 o)
  | .fsubF o => some (.s, Pk.rrr 0x71 o)
  | .fmulF o => some (.s, Pk.rrr 0x72 o)
  | .fmaF o => some (.s, Pk.rrr 0x73 o)
  | .fminF o => some (.s, Pk.rrr 0x74 o)
  | .fmaxF o => some (.s, Pk.rrr 0x75 o)
  | .cvt o => some (.s, Pk.sc 0x77 o)
  | .pagein o => some (.s, Pk.ri 0x78 o)
  | .ldLoc o => some (.s, Pk.sm 0x80 o)
  | .stLoc o => some (.s, Pk.sm 0x81 o)
  | .ldClu o => some (.s, Pk.sm 0x82 o)
  | .stClu o => some (.s, Pk.sm 0x83 o)
  | .ldDev o => some (.s, Pk.sm 0x84 o)
  | .stDev o => some (.s, Pk.sm 0x85 o)
  | .ldPeer o => some (.s, Pk.sm 0x86 o)
  | .stPeer o => some (.s, Pk.sm 0x87 o)
  | .ldHost o => some (.s, Pk.sm 0x88 o)
  | .stHost o => some (.s, Pk.sm 0x89 o)
  | .spLd o => some (.s, Pk.ss 0x90 o)
  | .spSt o => some (.s, Pk.ss 0x91 o)
  | .spVld o => some (.s, Pk.ss 0x92 o)
  | .spVst o => some (.s, Pk.ss 0x93 o)
  | .atomAddLoc o => some (.s, Pk.sa 0xA0 o)
  | .atomAndLoc o => some (.s, Pk.sa 0xA1 o)
  | .atomOrLoc o => some (.s, Pk.sa 0xA2 o)
  | .atomXorLoc o => some (.s, Pk.sa 0xA3 o)
  | .atomMinsLoc o => some (.s, Pk.sa 0xA4 o)
  | .atomMinzLoc o => some (.s, Pk.sa 0xA5 o)
  | .atomMaxsLoc o => some (.s, Pk.sa 0xA6 o)
  | .atomMaxzLoc o => some (.s, Pk.sa 0xA7 o)
  | .atomSwapLoc o => some (.s, Pk.sa 0xA8 o)
  | .atomCasLoc o => some (.s, Pk.sa 0xA9 o)
  | .atomAddClu o => some (.s, Pk.sa 0xB0 o)
  | .atomAndClu o => some (.s, Pk.sa 0xB1 o)
  | .atomOrClu o => some (.s, Pk.sa 0xB2 o)
  | .atomXorClu o => some (.s, Pk.sa 0xB3 o)
  | .atomMinsClu o => some (.s, Pk.sa 0xB4 o)
  | .atomMinzClu o => some (.s, Pk.sa 0xB5 o)
  | .atomMaxsClu o => some (.s, Pk.sa 0xB6 o)
  | .atomMaxzClu o => some (.s, Pk.sa 0xB7 o)
  | .atomSwapClu o => some (.s, Pk.sa 0xB8 o)
  | .atomCasClu o => some (.s, Pk.sa 0xB9 o)
  | .atomAddDev o => some (.s, Pk.sa 0xC0 o)
  | .atomAndDev o => some (.s, Pk.sa 0xC1 o)
  | .atomOrDev o => some (.s, Pk.sa 0xC2 o)
  | .atomXorDev o => some (.s, Pk.sa 0xC3 o)
  | .atomMinsDev o => some (.s, Pk.sa 0xC4 o)
  | .atomMinzDev o => some (.s, Pk.sa 0xC5 o)
  | .atomMaxsDev o => some (.s, Pk.sa 0xC6 o)
  | .atomMaxzDev o => some (.s, Pk.sa 0xC7 o)
  | .atomSwapDev o => some (.s, Pk.sa 0xC8 o)
  | .atomCasDev o => some (.s, Pk.sa 0xC9 o)
  | .atomAddPeer o => some (.s, Pk.sa 0xD0 o)
  | .atomAndPeer o => some (.s, Pk.sa 0xD1 o)
  | .atomOrPeer o => some (.s, Pk.sa 0xD2 o)
  | .atomXorPeer o => some (.s, Pk.sa 0xD3 o)
  | .atomMinsPeer o => some (.s, Pk.sa 0xD4 o)
  | .atomMinzPeer o => some (.s, Pk.sa 0xD5 o)
  | .atomMaxsPeer o => some (.s, Pk.sa 0xD6 o)
  | .atomMaxzPeer o => some (.s, Pk.sa 0xD7 o)
  | .atomSwapPeer o => some (.s, Pk.sa 0xD8 o)
  | .atomCasPeer o => some (.s, Pk.sa 0xD9 o)
  | .barInit o => some (.s, Pk.br 0xE0 o)
  | .barArrive o => some (.s, Pk.br 0xE1 o)
  | .barWait o => some (.s, Pk.br 0xE2 o)
  | .barTest o => some (.s, Pk.br 0xE3 o)
  | .vnop o => some ((if o.tw == .first then .v0 else .v1), Pk.nt 0x00 o)
  | .vadd o => some ((if o.tw == .first then .v0 else .v1), Pk.vrrr 0x01 o)
  | .vsub o => some ((if o.tw == .first then .v0 else .v1), Pk.vrrr 0x02 o)
  | .vmul o => some ((if o.tw == .first then .v0 else .v1), Pk.vrrr 0x03 o)
  | .vmulh o => some ((if o.tw == .first then .v0 else .v1), Pk.vrrr 0x04 o)
  | .vmin o => some ((if o.tw == .first then .v0 else .v1), Pk.vrrr 0x05 o)
  | .vmax o => some ((if o.tw == .first then .v0 else .v1), Pk.vrrr 0x06 o)
  | .vadds o => some ((if o.tw == .first then .v0 else .v1), Pk.vrrr 0x07 o)
  | .vsubs o => some ((if o.tw == .first then .v0 else .v1), Pk.vrrr 0x08 o)
  | .vavg o => some ((if o.tw == .first then .v0 else .v1), Pk.vrrr 0x09 o)
  | .vabs o => some ((if o.tw == .first then .v0 else .v1), Pk.vrrr 0x0A o)
  | .vneg o => some ((if o.tw == .first then .v0 else .v1), Pk.vrrr 0x0B o)
  | .vmov o => some ((if o.tw == .first then .v0 else .v1), Pk.vrrr 0x0C o)
  | .vand o => some ((if o.tw == .first then .v0 else .v1), Pk.vrrr 0x10 o)
  | .vor o => some ((if o.tw == .first then .v0 else .v1), Pk.vrrr 0x11 o)
  | .vxor o => some ((if o.tw == .first then .v0 else .v1), Pk.vrrr 0x12 o)
  | .vandn o => some ((if o.tw == .first then .v0 else .v1), Pk.vrrr 0x13 o)
  | .vnot o => some ((if o.tw == .first then .v0 else .v1), Pk.vrrr 0x14 o)
  | .vshl o => some ((if o.tw == .first then .v0 else .v1), Pk.vrrr 0x18 o)
  | .vshr o => some ((if o.tw == .first then .v0 else .v1), Pk.vrrr 0x19 o)
  | .vshrr o => some ((if o.tw == .first then .v0 else .v1), Pk.vrrr 0x1A o)
  | .vshlImm o => some ((if o.tw == .first then .v0 else .v1), Pk.vi 0x1C o)
  | .vshrImm o => some ((if o.tw == .first then .v0 else .v1), Pk.vi 0x1D o)
  | .vshrrImm o => some ((if o.tw == .first then .v0 else .v1), Pk.vi 0x1E o)
  | .vfadd o => some ((if o.tw == .first then .v0 else .v1), Pk.vrrr 0x20 o)
  | .vfsub o => some ((if o.tw == .first then .v0 else .v1), Pk.vrrr 0x21 o)
  | .vfmul o => some ((if o.tw == .first then .v0 else .v1), Pk.vrrr 0x22 o)
  | .vfma o => some ((if o.tw == .first then .v0 else .v1), Pk.vf 0x23 o)
  | .vfmin o => some ((if o.tw == .first then .v0 else .v1), Pk.vrrr 0x24 o)
  | .vfmax o => some ((if o.tw == .first then .v0 else .v1), Pk.vrrr 0x25 o)
  | .vfabs o => some ((if o.tw == .first then .v0 else .v1), Pk.vrrr 0x26 o)
  | .vfneg o => some ((if o.tw == .first then .v0 else .v1), Pk.vrrr 0x27 o)
  | .vexp2 o => some ((if o.tw == .first then .v0 else .v1), Pk.vrrr 0x28 o)
  | .vrcp o => some ((if o.tw == .first then .v0 else .v1), Pk.vrrr 0x29 o)
  | .vcmpEq o => some ((if o.tw == .first then .v0 else .v1), Pk.vk 0x30 o)
  | .vcmpNe o => some ((if o.tw == .first then .v0 else .v1), Pk.vk 0x31 o)
  | .vcmpLt o => some ((if o.tw == .first then .v0 else .v1), Pk.vk 0x32 o)
  | .vcmpLe o => some ((if o.tw == .first then .v0 else .v1), Pk.vk 0x33 o)
  | .kand o => some ((if o.tw == .first then .v0 else .v1), Pk.kk 0x38 o)
  | .kor o => some ((if o.tw == .first then .v0 else .v1), Pk.kk 0x39 o)
  | .kxor o => some ((if o.tw == .first then .v0 else .v1), Pk.kk 0x3A o)
  | .kandn o => some ((if o.tw == .first then .v0 else .v1), Pk.kk 0x3B o)
  | .knot o => some ((if o.tw == .first then .v0 else .v1), Pk.kk 0x3C o)
  | .vsel o => some ((if o.tw == .first then .v0 else .v1), Pk.vrrr 0x40 o)
  | .vperm o => some ((if o.tw == .first then .v0 else .v1), Pk.vrrr 0x41 o)
  | .vbcast o => some ((if o.tw == .first then .v0 else .v1), Pk.vi 0x42 o)
  | .vbcastG o => some ((if o.tw == .first then .v0 else .v1), Pk.vg 0x43 o)
  | .vslideUp o => some ((if o.tw == .first then .v0 else .v1), Pk.vi 0x44 o)
  | .vslideDn o => some ((if o.tw == .first then .v0 else .v1), Pk.vi 0x45 o)
  | .vrotm o => some ((if o.tw == .first then .v0 else .v1), Pk.vi 0x46 o)
  | .vsplat o => some ((if o.tw == .first then .v0 else .v1), Pk.vi 0x47 o)
  | .vredsum o => some ((if o.tw == .first then .v0 else .v1), Pk.vrrr 0x50 o)
  | .vredmax o => some ((if o.tw == .first then .v0 else .v1), Pk.vrrr 0x51 o)
  | .vredmin o => some ((if o.tw == .first then .v0 else .v1), Pk.vrrr 0x52 o)
  | .vcvt o => some ((if o.tw == .first then .v0 else .v1), Pk.vc 0x58 o)
  | .vcvtW o => some ((if o.tw == .first then .v0 else .v1), Pk.vc 0x59 o)
  | .vcvtN o => some ((if o.tw == .first then .v0 else .v1), Pk.vc 0x5A o)
  | .vkpack o => some ((if o.tw == .first then .v0 else .v1), Pk.vrrr 0x60 o)
  | .vkunpk o => some ((if o.tw == .first then .v0 else .v1), Pk.vrrr 0x61 o)
  | .vrq o => some ((if o.tw == .first then .v0 else .v1), Pk.vrrr 0x62 o)
  | .mnop o => some (.m, Pk.n 0x00 o)
  | .mpushV o => some (.m, Pk.mp 0x01 o)
  | .mpushSp o => some (.m, Pk.mp 0x02 o)
  | .mpushW o => some (.m, Pk.mp 0x03 o)
  | .mswap o => some (.m, Pk.n 0x04 o)
  | .maccV o => some (.m, Pk.ma 0x08 o)
  | .maccSp o => some (.m, Pk.ma 0x09 o)
  | .mshift o => some (.m, Pk.mt 0x0A o)
  | .mzero o => some (.m, Pk.mt 0x0B o)
  | .mdrain o => some (.m, Pk.md 0x0C o)
  | .mdrainCp o => some (.m, Pk.mc 0x0D o)
  | .mkat o => some (.m, Pk.mk 0x0E o)
  | .cnop o => some ((if o.tw == .first then .c0 else .c1), Pk.nt 0x00 o)
  | .vldLoc o => some ((if o.tw == .first then .c0 else .c1), Pk.cm 0x01 o)
  | .vstLoc o => some ((if o.tw == .first then .c0 else .c1), Pk.cm 0x02 o)
  | .vldClu o => some ((if o.tw == .first then .c0 else .c1), Pk.cm 0x03 o)
  | .vstClu o => some ((if o.tw == .first then .c0 else .c1), Pk.cm 0x04 o)
  | .vldDev o => some ((if o.tw == .first then .c0 else .c1), Pk.cm 0x05 o)
  | .vstDev o => some ((if o.tw == .first then .c0 else .c1), Pk.cm 0x06 o)
  | .vldPeer o => some ((if o.tw == .first then .c0 else .c1), Pk.cm 0x07 o)
  | .vstPeer o => some ((if o.tw == .first then .c0 else .c1), Pk.cm 0x08 o)
  | .vldHost o => some ((if o.tw == .first then .c0 else .c1), Pk.cm 0x09 o)
  | .vstHost o => some ((if o.tw == .first then .c0 else .c1), Pk.cm 0x0A o)
  | .vldKv o => some ((if o.tw == .first then .c0 else .c1), Pk.cm 0x0B o)
  | .vstKv o => some ((if o.tw == .first then .c0 else .c1), Pk.cm 0x0C o)
  | .cpGo o => some ((if o.tw == .first then .c0 else .c1), Pk.ce 0x10 o)
  | .cpAdv o => some ((if o.tw == .first then .c0 else .c1), Pk.nt 0x11 o)
  | .cp o => some ((if o.tw == .first then .c0 else .c1), Pk.ce 0x12 o)
  | .cpTsr o => some ((if o.tw == .first then .c0 else .c1), Pk.ce 0x13 o)
  | .gathKv o => some ((if o.tw == .first then .c0 else .c1), Pk.ce 0x14 o)
  | .rotClu o => some ((if o.tw == .first then .c0 else .c1), Pk.ce 0x15 o)
  | .redAdd o => some ((if o.tw == .first then .c0 else .c1), Pk.ce 0x16 o)
  | .kvBind o => some ((if o.tw == .first then .c0 else .c1), Pk.ce 0x18 o)
  | .pfxHash o => some ((if o.tw == .first then .c0 else .c1), Pk.cp 0x20 o)
  | .pfxLook o => some ((if o.tw == .first then .c0 else .c1), Pk.cp 0x21 o)
  | .pfxCmp o => some ((if o.tw == .first then .c0 else .c1), Pk.cp 0x22 o)
  | .pfxIns o => some ((if o.tw == .first then .c0 else .c1), Pk.cp 0x23 o)
  | .pfxPin o => some ((if o.tw == .first then .c0 else .c1), Pk.cp 0x24 o)
  | .pfxUnpin o => some ((if o.tw == .first then .c0 else .c1), Pk.cp 0x25 o)
  | .lnop o => some (.l, Pk.n 0x00 o)
  | .br o => some (.l, Pk.lb 0x01 o)
  | .call o => some (.l, Pk.lb 0x02 o)
  | .jmp o => some (.l, Pk.lr 0x03 o)
  | .callR o => some (.l, Pk.lr 0x04 o)
  | .loop o => some (.l, Pk.lb 0x05 o)
  | .loopMod o => some (.l, Pk.lb 0x06 o)
  | .sleepDue o => some (.l, Pk.n 0x08 o)
  | .sleepN o => some (.l, Pk.lr 0x09 o)
  | .fuse o => some (.l, Pk.n 0x0A o)
  | .decouple o => some (.l, Pk.n 0x0B o)
  | .rejoin o => some (.l, Pk.n 0x0C o)
  | .brk o => some (.l, Pk.li 0x10 o)
  | .sys o => some (.l, Pk.li 0x11 o)
  | .eret o => some (.l, Pk.n 0x12 o)
  | .taskSpawn o => some (.l, Pk.lr 0x18 o)
  | .taskSig o => some (.l, Pk.lr 0x19 o)
  | .taskYield o => some (.l, Pk.n 0x1A o)
  | .taskEnd o => some (.l, Pk.n 0x1B o)
  | .crewSync o => some (.l, Pk.n 0x1C o)
  | .asnRetire o => some (.l, Pk.lr 0x1D o)
  | .fenceQ o => some (.l, Pk.li 0x20 o)
  | .fencePeer o => some (.l, Pk.n 0x21 o)
  | .fenceHost o => some (.l, Pk.n 0x22 o)
  | .lnsTmpl o => some (.l, Pk.lr 0x28 o)
  | .lnsLvl o => some (.l, Pk.lr 0x29 o)
  | .lnsRun o => some (.l, Pk.n 0x2A o)
  | .lnsResume o => some (.l, Pk.lr 0x2B o)
  | .lnsAbort o => some (.l, Pk.n 0x2C o)
  | _ => none

/-! ## Bundles (R94 to R98) -/

/-- A bundle header (Table 04-6). -/
structure Header where
  pres : BitVec 7
  stop : Bool
  xs : Bool
  fold : BitVec 6
  wait : Bool
  wflag : BitVec 6
  wmode : BitVec 2
  low : BitVec 8
deriving DecidableEq, Repr

/-- The fields of a header word. -/
def Header.ofWord (w : BitVec 32) : Header :=
  { pres := w.extractLsb' 25 7, stop := w.getLsbD 24, xs := w.getLsbD 23, fold := w.extractLsb' 17 6,
    wait := w.getLsbD 16, wflag := w.extractLsb' 10 6, wmode := w.extractLsb' 8 2, low := w.extractLsb' 0 8 }

/-- The header word of the fields. -/
def Header.word (h : Header) : BitVec 32 :=
  h.pres ++ BitVec.ofBool h.stop ++ BitVec.ofBool h.xs ++ h.fold ++ BitVec.ofBool h.wait ++ h.wflag ++ h.wmode ++ h.low

/-- The header is one that R95 allows. -/
def Header.legal (h : Header) : Bool :=
  h.low == 0 && !(h.xs && !h.pres.getLsbD 6) && !(h.wait && !h.stop) &&
  !(h.wait && (h.wmode == 3 || decide (39 < h.wflag.toNat))) &&
  !(!h.wait && (h.wflag != 0 || h.wmode != 0)) && !(h.pres == 0 && !h.wait && h.fold == 0)

/-- The slots whose PRES bit is set, in the order of R94. -/
def Header.slots (h : Header) : List SlotPos :=
  (if h.pres.getLsbD 6 then [.s] else []) ++ (if h.pres.getLsbD 5 then [.v0] else []) ++
  (if h.pres.getLsbD 4 then [.v1] else []) ++ (if h.pres.getLsbD 3 then [.m] else []) ++
  (if h.pres.getLsbD 2 then [.c0] else []) ++ (if h.pres.getLsbD 1 then [.c1] else []) ++
  (if h.pres.getLsbD 0 then [.l] else [])

/-- The bundle's length in bytes (R94). -/
def Header.length (h : Header) : Nat := 4 + 6 * h.slots.length + (if h.xs then 4 else 0)

/-- Slot words that follow a header, with the extension word after slot S. -/
def rawSlots : List SlotPos → Bool → List Byte → List (SlotPos × Raw)
  | [], _, _ => []
  | p :: ps, xs, bs =>
    let w := BitVec.ofNat 48 (leValue (bs.take 6))
    let rest := bs.drop 6
    if p == .s && xs then
      (p, Raw.ofWord w (some (BitVec.ofNat 32 (leValue (rest.take 4))))) :: rawSlots ps xs (rest.drop 4)
    else (p, Raw.ofWord w none) :: rawSlots ps xs rest

/-- The instruction that a header alone stands for: a wait bundle's wait, or a bundle of empty cycles (R100, R102). -/
def headInstr (h : Header) : Option Instr :=
  if h.wait then
    match h.wmode.toNat with
    | 0 => some (.waitSet h.fold h.wflag)
    | 1 => some (.waitClr h.fold h.wflag)
    | _ => some (.waitDue h.fold h.wflag)
  else if h.pres == 0 then some (.emptyBundle h.fold h.stop)
  else none

/-- A decoded bundle: its header, its wait or empty form, and each present slot with its instruction or fault. -/
structure Bundle where
  head : Header
  first : Option Instr
  slots : List (SlotPos × Raw × Except DecErr SlotWord)

/-- The bundle that starts with these bytes; none where the header is illegal (R95) or bytes are missing. -/
def decodeBundle (bs : List Byte) : Option Bundle :=
  let h := Header.ofWord (BitVec.ofNat 32 (leValue (bs.take 4)))
  if decide (4 ≤ bs.length) && h.legal && decide (h.length ≤ bs.length) then
    some { head := h, first := headInstr h,
           slots := (rawSlots h.slots h.xs (bs.drop 4)).map fun (p, r) => (p, r, decodeSlot p r) }
  else none

/-- The one instruction of a bundle that holds exactly one: a header alone, or one slot in a bundle that is no wait. -/
noncomputable def Bundle.single (b : Bundle) : Option Instr :=
  match b.first, b.slots with
  | some i, [] => some i
  | none, [(_, _, .ok w)] => some w.instr
  | _, _ => none

/-- The bytes of the bundle that holds just this instruction, with STOP and FOLD as given for a slot instruction. -/
def encodeBytes (i : Instr) (stop : Bool) (fold : BitVec 6) : Option (List Byte) :=
  match i with
  | .waitSet f w => some (leBytes 4 (Header.word ⟨0, true, false, f, true, w, 0, 0⟩).toNat)
  | .waitClr f w => some (leBytes 4 (Header.word ⟨0, true, false, f, true, w, 1, 0⟩).toNat)
  | .waitDue f w => some (leBytes 4 (Header.word ⟨0, true, false, f, true, w, 2, 0⟩).toNat)
  | .emptyBundle f st => some (leBytes 4 (Header.word ⟨0, st, false, f, false, 0, 0, 0⟩).toNat)
  | i =>
    match encodeSlot i with
    | none => none
    | some (p, r) =>
      let pres : BitVec 7 :=
        match p with
        | .s => 0x40 | .v0 => 0x20 | .v1 => 0x10 | .m => 0x08 | .c0 => 0x04 | .c1 => 0x02 | .l => 0x01
      let h : Header := ⟨pres, stop, r.xw.isSome, fold, false, 0, 0, 0⟩
      some (leBytes 4 h.word.toNat ++ leBytes 6 r.word.toNat ++
        match r.xw with
        | none => []
        | some x => leBytes 4 x.toNat)

/-- The instruction the decoder reads from `nbits` bits numbered as the opcode table numbers them, the bits above them
zero: a bundle is laid out little-endian from its header (R2, R94). -/
noncomputable def decodeTableWord (nbits w : Nat) : Option Instr :=
  match decodeBundle (leBytes 50 (w % 2 ^ nbits)) with
  | none => none
  | some b => b.single

/-! ## Packets (Tables 01-12 and 01-14) -/

/-- Stream error codes (Table 01-13). -/
inductive StreamErr where
  | badOpc | badLen | resv | badSpace | align | callDepth | retLevel0 | loopNest | loopBody | wrap | xlat | hostAbort
  | priv | badJob | jobMismatch | waitTimeout | badVec | badRing | ecc
deriving DecidableEq, Repr

/-- The code written to ERR. -/
def StreamErr.code : StreamErr → Nat
  | .badOpc => 0x01 | .badLen => 0x02 | .resv => 0x03 | .badSpace => 0x04 | .align => 0x05 | .callDepth => 0x06
  | .retLevel0 => 0x07 | .loopNest => 0x08 | .loopBody => 0x09 | .wrap => 0x0A | .xlat => 0x0B | .hostAbort => 0x0C
  | .priv => 0x0D | .badJob => 0x0E | .jobMismatch => 0x0F | .waitTimeout => 0x10 | .badVec => 0x11 | .badRing => 0x12
  | .ecc => 0x13

/-- SP (Table 01-12). -/
def spaceOf (x : Nat) : Option PkSpace := if x = 0 then some .host else if x = 1 then some .dev else none

/-- CMP (R31). -/
def cmpOf (x : Nat) : PkCmp := if x = 0 then .eq else if x = 1 then .ne else if x = 2 then .geu else .ltu

/-- The length a packet needs, if its opcode is one of Table 01-14. -/
def pkLenOk (opc mode len : Nat) : Option Bool :=
  match opc with
  | 0 => some (decide (1 ≤ len))
  | 1 => some (if mode = 1 then decide (len = 3) else decide (3 ≤ len))
  | 2 | 3 | 8 => some (decide (len = 4))
  | 4 | 9 => some (decide (len = 2))
  | 5 | 10 => some (decide (len = 3))
  | 6 | 7 | 11 | 12 => some (decide (len = 1))
  | _ => none

/-- ARG bits an opcode uses; the others must be zero (Table 01-14). -/
def pkArgMask (opc : Nat) : Nat :=
  match opc with
  | 1 | 3 | 9 => 0x3
  | 2 => 0xF
  | 4 => 0xFFFF
  | 8 => 0xFFFFFF03
  | 10 => 0x1
  | 11 => 0xFFF
  | 12 => 0x7FF
  | 0 => 0xFFFFFFFF
  | _ => 0

/-- A packet has a single address operand, so that SP names its space. -/
def pkHasSpace (opc : Nat) : Bool := opc == 1 || opc == 3 || opc == 5 || opc == 8 || opc == 9 || opc == 10

/-- The error that a packet's header decides, in the order of R26: opcode, length, must-be-zero bits, spaces, and the end of the
ring or buffer, `fits` bytes away. -/
def packetHeaderError (hd fits : Nat) : Option StreamErr :=
  let opc := bits hd 7 0
  let len := bits hd 15 8
  let sp := bits hd 19 18
  let arg := bits hd 63 32
  match pkLenOk opc (arg % 4) len with
  | none => some .badOpc
  | some false => some .badLen
  | some true =>
    if bit hd 17 || bits hd 31 20 != 0 || (Nat.land arg (0xFFFFFFFF - pkArgMask opc)) != 0 ||
        (opc == 1 && arg % 4 == 3) then some .resv
    else if decide (2 ≤ sp) || (!pkHasSpace opc && sp != 0) ||
        (opc == 2 && (decide (2 ≤ arg % 4) || decide (2 ≤ arg / 4 % 4))) then some .badSpace
    else if (opc == 1 && arg % 4 == 2 && sp == 0) || (opc == 10 && arg % 2 == 1 && sp == 0) || (opc == 9 && sp == 0) then
      some .badSpace
    else if fits < 8 * len then some .wrap
    else none

/-- A packet of stream `st`, whose words are `ws` (header first). `fits` is the number of bytes left in the ring or
buffer, and `body` that left in an active loop body at this level. The errors come in the order of R26; those that
need memory, the level, the predicate or the job are raised when the packet is performed. -/
def decodePacket (st : StreamId) (ws : List Word) (fits : Nat) (body : Option Nat) : Except StreamErr Instr :=
  let hd := (ws.headD 0).toNat
  let opc := bits hd 7 0
  let len := bits hd 15 8
  let sp := bits hd 19 18
  let arg := bits hd 63 32
  let asp := if opc = 2 then arg % 4 else sp
  let bsp := if opc = 2 then arg / 4 % 4 else 0
  let w (k : Nat) : Word := ws.getD k 0
  let h : PkH := ⟨st, bit hd 16, BitVec.ofNat 8 len⟩
  match packetHeaderError hd fits with
  | some e => .error e
  | none =>
    if opc == 4 && decide (fits < bits (w 1).toNat 9 0 + 16) then .error .wrap
    else
    let highBad (k : Nat) : Bool := bits (w k).toNat 63 56 != 0
    let resvOp :=
      (opc == 2 && (bits (w 3).toNat 63 32 != 0)) || (opc == 4 && bits (w 1).toNat 63 10 != 0) ||
      (opc == 5 && bits (w 2).toNat 63 24 != 0) ||
      (pkHasSpace opc && sp == 1 && highBad 1) || (opc == 2 && ((asp == 1 && highBad 1) || (bsp == 1 && highBad 2)))
    if resvOp then .error .resv
    else
    let a := (w 1).toNat
    let alignBad :=
      ((opc == 1 || opc == 3 || opc == 8 || opc == 10) && a % 8 != 0) ||
      (opc == 9 && a % 128 != 0) ||
      (opc == 5 && (a % 8 != 0 || (w 2).toNat % 8 != 0 || decide ((w 2).toNat < 8)))
    if alignBad then .error .align
    else
    let overBody := match body with | none => false | some n => decide (n < 8 * len)
    if overBody || (opc == 4 && (a % 8 != 0 || decide (a < 8) || decide (512 < a))) then .error .loopBody
    else
    let s1 : PkSpace := if asp = 0 then .host else .dev
    let s2 : PkSpace := if bsp = 0 then .host else .dev
    match opc with
    | 0 => .ok (.pkNop h)
    | 1 => .ok (if arg % 4 = 0 then .pkWriteStore h s1 (w 1) ((ws.drop 2).take (len - 2))
                else if arg % 4 = 1 then .pkWriteAdd h s1 (w 1) (w 2)
                else .pkWriteForce h (w 1) ((ws.drop 2).take (len - 2)))
    | 2 => .ok (.pkCopy h s1 (w 1) s2 (w 2) ((w 3).setWidth 32))
    | 3 => .ok (.pkPred h s1 (cmpOf (arg % 4)) (w 1) (w 2) (w 3))
    | 4 => .ok (.pkLoop h (BitVec.ofNat 16 arg) (BitVec.ofNat 10 a))
    | 5 => .ok (.pkCall h s1 (w 1) ((w 2).setWidth 24))
    | 6 => .ok (.pkRet h)
    | 7 => .ok (.pkFfence h)
    | 8 => .ok (.pkWaitmem h s1 (cmpOf (arg % 4)) (w 1) (w 2) (w 3) (BitVec.ofNat 24 (arg / 256)))
    | 9 => .ok (.pkLaunch h (BitVec.ofNat 2 arg) (w 1))
    | 10 => .ok (.pkSignal h s1 (arg % 2 == 1) (w 1) (w 2))
    | 11 => .ok (.pkJob h (BitVec.ofNat 12 arg))
    | _ => .ok (.pkIrq h (BitVec.ofNat 11 arg))

/-- SP of a space. -/
def PkSpace.code : PkSpace → Nat
  | .host => 0
  | .dev => 1
/-- CMP of a comparison. -/
def PkCmp.code : PkCmp → Nat
  | .eq => 0 | .ne => 1 | .geu => 2 | .ltu => 3

/-- A packet header word (Table 01-12). -/
def pkHeader (h : PkH) (opc sp arg : Nat) : Word :=
  BitVec.ofNat 64 (opc + 256 * h.len.toNat + (if h.pe then 65536 else 0) + 262144 * sp + 4294967296 * arg)

/-- The words of a packet; none for any other constructor. The operand words of pk.nop are zeros. -/
def encodePacket : Instr → Option (List Word)
  | .pkNop h => some (pkHeader h 0 0 0 :: List.replicate (h.len.toNat - 1) 0)
  | .pkWriteStore h sp a data => some (pkHeader h 1 sp.code 0 :: a :: data)
  | .pkWriteAdd h sp a v => some [pkHeader h 1 sp.code 1, a, v]
  | .pkWriteForce h a data => some (pkHeader h 1 1 2 :: a :: data)
  | .pkCopy h s1 a s2 b n => some [pkHeader h 2 0 (s1.code + 4 * s2.code), a, b, n.setWidth 64]
  | .pkPred h sp c a m v => some [pkHeader h 3 sp.code c.code, a, m, v]
  | .pkLoop h count body => some [pkHeader h 4 0 count.toNat, body.setWidth 64]
  | .pkCall h sp a n => some [pkHeader h 5 sp.code 0, a, n.setWidth 64]
  | .pkRet h => some [pkHeader h 6 0 0]
  | .pkFfence h => some [pkHeader h 7 0 0]
  | .pkWaitmem h sp c a m v t => some [pkHeader h 8 sp.code (c.code + 256 * t.toNat), a, m, v]
  | .pkLaunch h die a => some [pkHeader h 9 1 die.toNat, a]
  | .pkSignal h sp force a v => some [pkHeader h 10 sp.code (if force then 1 else 0), a, v]
  | .pkJob h n => some [pkHeader h 11 0 n.toNat]
  | .pkIrq h v => some [pkHeader h 12 0 v.toNat]
  | _ => none

end Sys2Proof
end

