-- ==== Sys2Proof/Machine/Flags.lean ====
section
/-!
DEFINITION. Flags: the sticky flags of `%mstat` as sets (R66, Tables 03-11 and 04-4).
-/
namespace Sys2Proof.Machine

/-! ## Sticky flags (Table 03-11; bit positions of `%mstat`, Table 04-4) -/

/-- A set of `%mstat` bits. -/
abbrev MFlags := BitVec 8
def fNV : MFlags := 1
def fOF : MFlags := 2
def fUF : MFlags := 4
def fNX : MFlags := 8
def fSAT : MFlags := 16
def fFMT : MFlags := 32
def fKAT : MFlags := 64
def fMISS : MFlags := 128

/-- The flags a decoding load may set (Table 03-11): NV, OF, SAT and FMT. -/
def loadFlags : MFlags := fNV ||| fOF ||| fSAT ||| fFMT

/-- The union of flags. -/
def orFlags : List MFlags → MFlags
  | [] => 0
  | f :: r => f ||| orFlags r

end Sys2Proof.Machine
end

