-- ==== Sys2Proof/Machine/Numeric.lean ====
section
/-!
DEFINITION. Numeric: the number formats and the rounding of chapter 03 (R46 to R73). Arithmetic is exact on dyadic
rationals; a value is rounded only where `roundTo` or `roundInt` is called.
-/
namespace Sys2Proof.Machine

/-! ## Floating formats (Table 03-2) -/

/-- Parameters of a floating format: mantissa bits, bias, code of the largest finite magnitude, whether the next code is
infinity, the canonical NaN, and the width. -/
structure FFmt where
  p : Nat
  bias : Nat
  maxCode : Nat
  hasInf : Bool
  nanCode : Option Nat
  width : Nat

/-- The format of a floating type (Table 03-2, R48). The integer types answer FP32's and are never asked. -/
def fmtOf : Ty → FFmt
  | .hf => ⟨10, 15, 0x7BFF, true, some 0x7E00, 16⟩
  | .bf => ⟨7, 127, 0x7F7F, true, some 0x7FC0, 16⟩
  | .e5 => ⟨2, 15, 0x7B, true, some 0x7E, 8⟩
  | .e4 => ⟨3, 7, 0x7E, false, some 0x7F, 8⟩
  | .e2 => ⟨1, 1, 7, false, none, 4⟩
  | _ => ⟨23, 127, 0x7F7FFFFF, true, some 0x7FC00000, 32⟩

/-- A power of two times an integer. -/
def XNum.dy (m e : Int) : XNum := .fin m e

/-- The value of a code (R47). -/
def decodeFloat (t : Ty) (code : Nat) : XNum :=
  let f := fmtOf t
  let neg := bit code (f.width - 1)
  let c := code % 2 ^ (f.width - 1)
  let E := c / 2 ^ f.p
  let m := c % 2 ^ f.p
  if f.maxCode < c then
    if f.hasInf && c == f.maxCode + 1 then .inf neg else .nan
  else if c = 0 then (if neg then .negZero else .fin 0 0)
  else
    let k : Nat := if E = 0 then m else 2 ^ f.p + m
    let e : Int := (if E = 0 then 1 else (E : Int)) - f.bias - f.p
    .fin (if neg then -(k : Int) else k) e

/-- A signalling NaN (R48): mantissa bit p - 1 is clear. E4M3 and E2M1 have none. -/
def isSNaN (t : Ty) (code : Nat) : Bool :=
  let f := fmtOf t
  f.hasInf && decode1 f && !bit code (f.p - 1)
where decode1 (f : FFmt) : Bool := decide (f.maxCode + 1 < code % 2 ^ (f.width - 1))

/-- The canonical NaN of a type (R48). -/
def canonNaN (t : Ty) : Nat := (fmtOf t).nanCode.getD 0

/-- A code with its sign bit. -/
def signed (f : FFmt) (neg : Bool) (c : Nat) : Nat := if neg then 2 ^ (f.width - 1) + c else c

/-- floor(log2 (num / den)) for positive arguments. -/
def log2Q (num den : Nat) : Int :=
  let d : Int := (Nat.log2 num : Int) - Nat.log2 den
  -- num / den lies in [2^(d-1), 2^(d+1))
  let below : Bool := if 0 ≤ d then decide (num < den * 2 ^ d.toNat) else decide (num * 2 ^ (-d).toNat < den)
  if below then d - 1 else d

/-- The quotient of num/den by 2^q, as (numerator, denominator). -/
def scaleQ (num den : Nat) (q : Int) : Nat × Nat :=
  if 0 ≤ q then (num, den * 2 ^ q.toNat) else (num * 2 ^ (-q).toNat, den)

/-- Which candidate a mode takes (R58, R59): true for the one farther from zero. `n` is the nearer one in units of the
step, `r / d` the fraction beyond it, `w` the drawn word. -/
def roundsUp (rm : Rm) (neg : Bool) (n r d w : Nat) : Bool :=
  r != 0 &&
  match rm with
  | .rne => decide (d < 2 * r) || (2 * r == d && n % 2 == 1)
  | .rz => false
  | .ru => !neg
  | .rd => neg
  | .sr => decide (65536 ≤ r * 65536 / d + w)

/-- Rounds the magnitude num/den, not zero, of sign `neg` to a floating format (R58, R59, R61, R65): the code and the
flags. -/
def roundMag (f : FFmt) (rm : Rm) (w : Nat) (neg : Bool) (num den : Nat) : Nat × MFlags :=
  let emin : Int := 1 - f.bias
  let E := log2Q num den
  let qmin : Int := emin - f.p
  let q : Int := (if E < emin then emin else E) - f.p
  let (a, d) := scaleQ num den q
  let n := a / d
  let r := a % d
  let base := (q - qmin).toNat * 2 ^ f.p + n
  let beyond : Bool := decide (f.maxCode < base) || (decide (f.maxCode = base) && r != 0)
  if beyond then
    if !f.hasInf then (signed f neg f.maxCode, fOF ||| fNX)
    else
      -- beyond 2^(emax+1) the infinity is nearer under every mode that can reach it (R59, Table 03-10)
      let up : Bool :=
        if f.maxCode < base then (match rm with | .rne => true | .rz => false | .ru => !neg | .rd => neg | .sr => true)
        else roundsUp rm neg n r d w
      (signed f neg (if up then f.maxCode + 1 else f.maxCode), fOF ||| fNX)
  else
    let c := if roundsUp rm neg n r d w then base + 1 else base
    let fl := if r = 0 then 0 else if E < emin then fUF ||| fNX else fNX
    (signed f neg c, fl)

/-- The value as a fraction of naturals with its sign. -/
def ratOf (m e : Int) : Bool × Nat × Nat :=
  if 0 ≤ e then (decide (m < 0), m.natAbs * 2 ^ e.toNat, 1) else (decide (m < 0), m.natAbs, 2 ^ (-e).toNat)

/-- An exact value converted to a floating type (R58 to R62). -/
def roundTo (t : Ty) (rm : Rm) (w : Nat) (x : XNum) : Nat × MFlags :=
  let f := fmtOf t
  match x with
  | .nan => match f.nanCode with
    | some c => (c, 0)
    | none => (0, fNV)
  | .inf neg => if f.hasInf then (signed f neg (f.maxCode + 1), 0) else (signed f neg f.maxCode, fOF)
  | .negZero => (signed f true 0, 0)
  | .fin m e =>
    if m = 0 then (0, 0)
    else
      let (neg, num, den) := ratOf m e
      roundMag f rm w neg num den

/-- The range of an integer type (R46). -/
def tyLo (t : Ty) : Int := if t.isSigned then -((2 ^ (t.width - 1) : Nat) : Int) else 0
def tyHi (t : Ty) : Int :=
  if t.isSigned then ((2 ^ (t.width - 1) : Nat) : Int) - 1 else ((2 ^ t.width : Nat) : Int) - 1

/-- An integer held to a range, and whether that changed it. -/
def clamp (lo hi x : Int) : Int × Bool := if x < lo then (lo, true) else if hi < x then (hi, true) else (x, false)

/-- The integer an element code stands for (R46). -/
def intOf (t : Ty) (code : Nat) : Int := if t.isSigned then sextN t.width code else ((code % 2 ^ t.width : Nat) : Int)

/-- An exact integer clamped to an integer type (R63). -/
def clampTo (t : Ty) (x : Int) : Nat × MFlags :=
  let (y, c) := clamp (tyLo t) (tyHi t) x
  (narrow t.width y, if c then fSAT else 0)

/-- An exact value rounded to an integer (R58), with whether it was inexact. -/
def roundInt (rm : Rm) (w : Nat) (m e : Int) : Int × Bool :=
  let (neg, num, den) := ratOf m e
  let n := num / den
  let r := num % den
  let k := if roundsUp rm neg n r den w then n + 1 else n
  (if neg then -(k : Int) else k, r != 0)

/-- An exact value converted to an integer type (R61, R62). -/
def roundToInt (t : Ty) (rm : Rm) (w : Nat) (x : XNum) : Nat × MFlags :=
  match x with
  | .nan => (0, fNV)
  | .inf neg => (narrow t.width (if neg then tyLo t else tyHi t), fNV)
  | .negZero => (0, 0)
  | .fin m e =>
    let (k, ix) := roundInt rm w m e
    let (y, c) := clamp (tyLo t) (tyHi t) k
    (narrow t.width y, if c then fNV else if ix then fNX else 0)

/-- The exact value an element code stands for, and NV for a signalling NaN (R62). -/
def valueOf (t : Ty) (code : Nat) : XNum × MFlags :=
  if t.isInt then (.fin (intOf t code) 0, 0) else (decodeFloat t code, if isSNaN t code then fNV else 0)

/-- An element converted from one type to another (R58 to R63). A conversion between integer formats clamps. -/
def convert (sty dty : Ty) (rm : Rm) (w : Nat) (code : Nat) : Nat × MFlags :=
  if sty.isInt && dty.isInt then clampTo dty (intOf sty code)
  else
    let (x, nv) := valueOf sty code
    let (c, fl) := if dty.isInt then roundToInt dty rm w x else roundTo dty rm w x
    (c, fl ||| nv)

/-! ## Exact arithmetic -/

/-- The sign of a value; NaN counts as positive. -/
def XNum.neg : XNum → Bool
  | .fin m _ => decide (m < 0)
  | .negZero => true
  | .inf n => n
  | .nan => false

def XNum.isZero : XNum → Bool
  | .fin m _ => m == 0
  | .negZero => true
  | _ => false

/-- The exact sum of two finite dyadic values. -/
def addDy (m e m' e' : Int) : Int × Int :=
  let b := min e e'
  (m * ((2 ^ (e - b).toNat : Nat) : Int) + m' * ((2 ^ (e' - b).toNat : Nat) : Int), b)

/-- A zero of the given sign. -/
def XNum.zero (neg : Bool) : XNum := if neg then .negZero else .fin 0 0

/-- The exact sum (R62, R64). The mode only decides the sign of an exact zero. -/
def XNum.add (rm : Rm) (x y : XNum) : XNum × MFlags :=
  match x, y with
  | .nan, _ => (.nan, 0)
  | _, .nan => (.nan, 0)
  | .inf a, .inf b => if a = b then (.inf a, 0) else (.nan, fNV)
  | .inf a, _ => (.inf a, 0)
  | _, .inf b => (.inf b, 0)
  | x, y =>
    if x.isZero && y.isZero then
      if x.neg && y.neg then (.negZero, 0)
      else if x.neg || y.neg then (.zero (rm == .rd), 0)
      else (.fin 0 0, 0)
    else
      match x, y with
      | .fin m e, .fin m' e' =>
        let (s, b) := addDy m e m' e'
        if s = 0 then (.zero (rm == .rd), 0) else (.fin s b, 0)
      | .fin m e, _ => (.fin m e, 0)
      | _, y => (y, 0)

/-- The value with its sign changed. -/
def XNum.opp : XNum → XNum
  | .fin m e => if m = 0 then .negZero else .fin (-m) e
  | .negZero => .fin 0 0
  | .inf n => .inf !n
  | .nan => .nan

/-- The exact product (R62, R64). -/
def XNum.mul (x y : XNum) : XNum × MFlags :=
  match x, y with
  | .nan, _ => (.nan, 0)
  | _, .nan => (.nan, 0)
  | .inf a, y => if y.isZero then (.nan, fNV) else (.inf (a != y.neg), 0)
  | x, .inf b => if x.isZero then (.nan, fNV) else (.inf (x.neg != b), 0)
  | .fin m e, .fin m' e' => if m * m' = 0 then (.zero (x.neg != y.neg), 0) else (.fin (m * m') (e + e'), 0)
  | x, y => (.zero (x.neg != y.neg), 0)

/-- The order of two numbers, minus zero equal to plus zero; none where either is NaN. -/
def XNum.cmp (x y : XNum) : Option Ordering :=
  match x, y with
  | .nan, _ => none
  | _, .nan => none
  | .inf a, .inf b => some (if a = b then .eq else if a then .lt else .gt)
  | .inf a, _ => some (if a then .lt else .gt)
  | _, .inf b => some (if b then .gt else .lt)
  | x, y =>
    let (m, e) := fin x
    let (m', e') := fin y
    let b := min e e'
    let u := m * ((2 ^ (e - b).toNat : Nat) : Int)
    let v := m' * ((2 ^ (e' - b).toNat : Nat) : Int)
    some (if u < v then .lt else if u = v then .eq else .gt)
where fin : XNum → Int × Int
  | .fin m e => (m, e)
  | _ => (0, 0)

/-- True where x orders below y with -0 below +0 (R72); neither is NaN. -/
def XNum.below (x y : XNum) : Bool :=
  match XNum.cmp x y with
  | some .lt => true
  | some .eq => x.isZero && x.neg && !y.neg
  | _ => false

/-- One draw of the generator (R60): the new state and the word. -/
def draw (G : Word) : Word × Nat :=
  let a := G ^^^ (G <<< 13)
  let b := a ^^^ (a >>> 7)
  let c := b ^^^ (b <<< 17)
  (c, (c >>> 48).toNat)

/-- The state that a write to `%rseed` stores (R60). -/
def seedOf (v : Word) : Word := if v = 0 then 0x9E3779B97F4A7C15 else v

/-! ## Block scales and K4O blocks (R51 to R56) -/

/-- The value of an S20 scale (Table 03-5). -/
def s20 (x : Nat) : XNum :=
  let e := bits x 19 12
  let m := bits x 11 0
  if e = 0 then .fin 0 0 else if e = 255 then .nan else .fin (4096 + m) ((e : Int) - 127 - 12)

/-- Nibble i of a payload (R46). -/
def nib (pay i : Nat) : Nat := bits pay (4 * i + 3) (4 * i)

/-- The scan of R54 over pairs j and up: element code values in order, and whether FMT is set. `ord` is the outlier
ordinal. -/
def k4oScan (md pay : Nat) : Nat → Nat → Nat → List XNum × Bool
  | 0, _, _ => ([], false)
  | n + 1, j, ord =>
    let even := nib pay (2 * j)
    let odd := nib pay (2 * j + 1)
    if even = 8 || odd = 8 then
      let part := if even = 8 then odd else even
      let slot := bits md (23 + 4 * ord) (20 + 4 * ord)
      let v : XNum := if ord ≤ 2 then decodeFloat .e4 (slot * 16 + part) else .fin 0 0
      let (r, f) := k4oScan md pay n (j + 1) (ord + 1)
      ((if even = 8 then [v, .fin 0 0] else [.fin 0 0, v]) ++ r, f || decide (2 < ord))
    else
      let (r, f) := k4oScan md pay n (j + 1) ord
      (.fin (sextN 4 even) 0 :: .fin (sextN 4 odd) 0 :: r, f)

/-- The 64 exact element values of a block (R55, Table 03-5), and whether FMT is set. -/
def k4oValues (md pay : Nat) : List XNum × Bool :=
  match s20 (bits md 19 0) with
  | .fin m e =>
    if m = 0 then (List.replicate 64 (.fin 0 0), false)
    else
      let (os, f) := k4oScan md pay 32 0 0
      (os.map fun o => if o.isZero && !o.neg then .fin 0 0 else (o.mul (.fin m e)).1, f)
  | _ => (List.replicate 64 .nan, false)

/-- Blocks of a K4O page of `z` bytes (R56). -/
def k4oCount (z : Nat) : Nat := z / 36

/-- The block index and the offsets of its metadata and payload for an offset presented in a page of `z` bytes; none is
a format fault (R50, R56). -/
def k4oBlock (bgeo z off : Nat) : Option (Nat × Nat × Nat) :=
  let n := k4oCount z
  if bgeo = 0 then (if off % 36 = 0 ∧ off / 36 < n then some (off / 36, off, off + 4) else none)
  else if bgeo = 1 then
    (if off % 32 = 0 ∧ off / 32 < n then some (off / 32, z - 4 * n + off / 32 * 4, off) else none)
  else none

/-! ## Decoding loads (R49, R68) -/

/-- What an EFMT code names (Table 03-4). -/
inductive EFmt where
  | raw
  | ty (t : Ty)
  | k4o
  | reserved
deriving DecidableEq, Repr

def efmtOf (c : Nat) : EFmt :=
  match c with
  | 0 => .raw | 1 => .ty .s4 | 2 => .ty .s8 | 3 => .ty .s16 | 4 => .ty .s32 | 5 => .ty .z4 | 6 => .ty .z8
  | 7 => .ty .z16 | 8 => .ty .f | 9 => .ty .hf | 10 => .ty .bf | 11 => .ty .e4 | 12 => .ty .e5 | 13 => .ty .e2
  | 14 => .k4o | _ => .reserved

/-- One element of a decoding load (Table 03-13). -/
def decodeElem (src : Ty) (lane : Ty) (code : Nat) : Nat × MFlags :=
  if src = lane then (code, 0)
  else
    let (c, f) := convert src lane .rne 0 code
    (c, f &&& loadFlags)

/-- One K4O element into a lane (R68). -/
def k4oElem (lane : Ty) (x : XNum) : Nat × MFlags :=
  let (c, f) := if lane.isInt then roundToInt lane .rne 0 x else roundTo lane .rne 0 x
  (c, f &&& loadFlags)

/-! ## Lanes of a v register (R79) -/

/-- Lane i of width w of a register's bits. -/
def laneN (w x i : Nat) : Nat := x / 2 ^ (w * i) % 2 ^ w

/-- The lanes of width w, from lane 0. -/
def lanesOf (w : Nat) (x : Nat) : List Nat := (List.range (1024 / w)).map (laneN w x)

/-- The number whose lanes of width w are these. -/
def ofLanes (w : Nat) : List Nat → Nat
  | [] => 0
  | a :: r => a % 2 ^ w + 2 ^ w * ofLanes w r

/-! ## Lattice sums and reductions (R70 to R73) -/

/-- The exact sum of a beat's products, and NV (R70). -/
def beatSum (ps : List (XNum × MFlags)) : XNum × Bool :=
  let bad := ps.any fun p => p.1 == .nan
  let pinf := ps.any fun p => p.1 == .inf false
  let ninf := ps.any fun p => p.1 == .inf true
  if bad || (pinf && ninf) then (.nan, true)
  else if pinf then (.inf false, false)
  else if ninf then (.inf true, false)
  else if ps.all fun p => p.1 == .negZero then (.negZero, false)
  else
    let (s, e) := ps.foldl (fun acc p =>
      match p.1 with
      | .fin m e => addDy acc.1 acc.2 m e
      | _ => acc) ((0 : Int), (0 : Int))
    (.fin s e, false)

/-- The beat's update of an FP32 accumulator element (R70): the element and the flags the lattice sets. -/
def accF (acc : Nat) (s : XNum) : Nat × MFlags :=
  let (r, nv) := (decodeFloat .f acc).add .rne s
  let (c, f) := roundTo .f .rne 0 r
  (c, (f &&& fOF) ||| nv ||| (if isSNaN .f acc then fNV else 0))

/-- The beat's update of an INT32 accumulator element (R71). -/
def accI (acc : Nat) (s : Int) : Nat × MFlags := clampTo .s32 (sextN 32 acc + s)

/-- One level of the pairwise tree (R72): sums of neighbours, rounded to `t`, with the draws made in order. -/
def treeLevel (t : Ty) (rm : Rm) : List Nat → Word → List Nat × MFlags × Word
  | a :: b :: r, G =>
    let (G1, w) := if rm = .sr then draw G else (G, 0)
    let (x, fx) := valueOf t a
    let (y, fy) := valueOf t b
    let (s, fs) := x.add rm y
    let (c, fr) := roundTo t rm w s
    let (cs, f, G2) := treeLevel t rm r G1
    (c :: cs, fx ||| fy ||| fs ||| fr ||| f, G2)
  | _, G => ([], 0, G)

/-- The pairwise tree over 2^n lanes (R72). -/
def treeSum (t : Ty) (rm : Rm) : Nat → List Nat → Word → Nat × MFlags × Word
  | 0, l, G => (l.headD 0, 0, G)
  | n + 1, l, G =>
    let (l1, f, G1) := treeLevel t rm l G
    let (r, f2, G2) := treeSum t rm n l1 G1
    (r, f ||| f2, G2)

end Sys2Proof.Machine
end

