-- ==== Sys2Proof/Machine/Ops.lean ====
section
/-!
DEFINITION. Ops: the named operations over contexts, registers, latches, results in flight and faults that every meaning
is written with (R74 to R93, R103 to R108, R266, R267), and taking a fault as one operation (R105 to R107).
-/
namespace Sys2Proof.Machine

/-- What `exec` answers. -/
abbrev Out := Host.Outcome State Fault Refusal

/-- A field of a word replaced: `n` bits from bit `lo`. -/
def setField (w lo n v : Nat) : Nat := w - bits w (lo + n - 1) lo * 2 ^ lo + v % 2 ^ n * 2 ^ lo

/-! ## Places. A context key is laid out as `%place` bits 11:0: die, cluster, core, context (Table 04-4) -/

def coreOf (cx : Nat) : Nat := cx / 4
def clusterOf (cx : Nat) : Nat := cx / 32
def dieOf (cx : Nat) : Nat := cx / 1024
/-- The core of index `i` in the cluster of `cx`. -/
def coreAt (cx i : Nat) : Nat := cx / 32 * 8 + i

def State.ctx (s : State) (cx : Nat) : Ctx := FMap.getD s.ctxs cx {}
def State.core (s : State) (c : Nat) : Core := FMap.getD s.cores c {}
def State.cluster (s : State) (c : Nat) : Cluster := FMap.getD s.clusters c {}
def State.die (s : State) (d : Nat) : Die := FMap.getD s.dies d {}
def State.setCtx (s : State) (cx : Nat) (c : Ctx) : State := { s with ctxs := FMap.put s.ctxs cx c }
def State.setCore (s : State) (k : Nat) (c : Core) : State := { s with cores := FMap.put s.cores k c }
def State.setCluster (s : State) (k : Nat) (c : Cluster) : State := { s with clusters := FMap.put s.clusters k c }
def State.setDie (s : State) (d : Nat) (v : Die) : State := { s with dies := FMap.put s.dies d v }
def State.updCtx (s : State) (cx : Nat) (f : Ctx → Ctx) : State := s.setCtx cx (f (s.ctx cx))
def State.updCore (s : State) (k : Nat) (f : Core → Core) : State := s.setCore k (f (s.core k))
def State.updCluster (s : State) (k : Nat) (f : Cluster → Cluster) : State := s.setCluster k (f (s.cluster k))
def State.updDie (s : State) (d : Nat) (f : Die → Die) : State := s.setDie d (f (s.die d))
def State.updIss (s : State) (f : Issue → Issue) : State := { s with iss := f s.iss }

/-- The context that the issue registers name. -/
def State.cur (s : State) : Ctx := s.ctx s.iss.cx
/-- The current context changed. -/
def State.upd (s : State) (f : Ctx → Ctx) : State := s.updCtx s.iss.cx f
/-- The current strand changed. -/
def State.updSt (s : State) (f : Strand → Strand) : State := s.upd fun c => { c with st := f c.st }
/-- The current strand's control registers changed. -/
def State.updCtl (s : State) (f : Ctl → Ctl) : State := s.updSt fun st => { st with ctl := f st.ctl }

/-- A free value's index, and the state that will not use it again. -/
def State.drawFree (s : State) : Nat × State := (s.free, { s with free := s.free + 1 })
/-- A fresh identity for a command, a request or an interlocked result. -/
def State.newId (s : State) : Nat × State := (s.nextId, { s with nextId := s.nextId + 1 })

/-- The task bound to a context, if any. -/
def State.taskOf (s : State) (cx : Nat) : Option Task := ((s.ctx cx).task).bind fun k => FMap.find s.tasks k
def State.updTask (s : State) (k : Nat) (f : Task → Task) : State :=
  match FMap.find s.tasks k with
  | none => s
  | some t => { s with tasks := FMap.put s.tasks k (f t) }
/-- Word `i` of the job record as the scheduler last read it for the task (R280). -/
def Task.jw (t : Task) (i : Nat) : Nat := (t.jrec.getD i 0).toNat
/-- The address space of a context's job (Table 13-1). -/
def State.asnOf (s : State) (cx : Nat) : Nat :=
  match s.taskOf cx with
  | none => 0
  | some t => t.asn

/-! ## Accounting (Table 19-9) -/

/-- The counters of an account slot, in the order of Table 19-9. -/
inductive Counter where
  | ccyc | beats | vbund | local_ | cluster | device | peer | host | kv | energy | preempt | miss | remfail | kat | eccu
  | rodisc
deriving DecidableEq, Repr

def Counter.idx (c : Counter) : Nat := c.ctorIdx

/-- A counter of an account slot raised by `n`, modulo 2^64. -/
def State.countSlot (s : State) (slot : Nat) (c : Counter) (n : Nat) : State :=
  let k := slot % 256 * 16 + c.idx
  { s with acct := FMap.put s.acct k (FMap.getD s.acct k 0 + BitVec.ofNat 64 n) }

/-- The account slot of a task's job (R281). -/
def Task.slot (t : Task) : Nat := bits (t.jw 0) 47 40
/-- The account slot of a context's job: W0 bits 47:40 of its record. -/
def State.slotOf (s : State) (cx : Nat) : Option Nat := (s.taskOf cx).map Task.slot

/-- A counter of a context's job raised by `n`. A context that holds no strand counts nowhere. -/
def State.count (s : State) (cx : Nat) (c : Counter) (n : Nat) : State :=
  if n = 0 then s
  else
    match s.slotOf cx with
    | none => s
    | some k => s.countSlot k c n

/-- A 64-bit counter of ERRCNT raised by `n`, saturating (Table 19-4). -/
def satWord (x : Word) (n : Nat) : Word := BitVec.ofNat 64 (min (2 ^ 64 - 1) (x.toNat + n))
/-- A context meets `n` uncorrectable errors in a scratchpad, a spill store or a tile of a core: they are counted on its die and in
the job's slot (R392). -/
def State.storeEcc (s : State) (cx core n : Nat) : State :=
  if n = 0 then s else (s.updDie (core / 256) fun d => { d with uncorr := satWord d.uncorr n }).count cx .eccu n

/-! ## Predicates -/

/-- Whether a slot executes (R96). -/
def Pred.holds (p : Pred) (q : BitVec 8) : Bool :=
  match p with
  | .always => true
  | .onSet n => q.getLsbD n.toNat
  | .onClear n => !q.getLsbD n.toNat

/-- A slot's effect under its predicate: a slot that does not execute has none (R96). -/
def guarded (p : Pred) (f : State → State) (s : State) : Out :=
  .next (if Pred.holds p s.cur.st.q then f s else s)

/-! ## Residues (R77, R78) -/

/-- res(v): the value modulo 15. -/
def resid (v : Nat) : BitVec 4 := BitVec.ofNat 4 (v % 15)
/-- A scalar value with a fresh residue. -/
def fresh (v : Word) : GVal := ⟨v, resid v.toNat⟩
def freshN (v : Nat) : GVal := fresh (BitVec.ofNat 64 v)
/-- A check of R78 passes. -/
def resOk (v : Nat) (r : BitVec 4) : Bool := r == 15 || r.toNat == v % 15
def GVal.ok (g : GVal) : Bool := resOk g.val.toNat g.res
/-- `%fdata` of a failed check: carried residue in 7:4, res(value) in 3:0. -/
def resData (v : Nat) (r : BitVec 4) : Nat := r.toNat * 16 + v % 15
/-- Lane residue j of a vector value. -/
def laneRes (r : BitVec 128) (j : Nat) : BitVec 4 := r.extractLsb' (4 * j) 4
/-- The first 32-bit lane whose residue check fails. -/
def VVal.bad (v : VVal) : Option Nat :=
  (List.range 32).find? fun j => !resOk (laneN 32 v.val.toNat j) (laneRes v.res j)
/-- All lane residues untracked. -/
def untracked : BitVec 128 := BitVec.allOnes 128
/-- Fresh lane residues of a 1,024-bit value. -/
def laneResid (v : Nat) : BitVec 128 :=
  BitVec.ofNat 128 ((List.range 32).foldr (fun j acc => acc + laneN 32 v j % 15 * 16 ^ j) 0)

/-! ## Registers and latches (R76 to R81, R85) -/

def Strand.getG (st : Strand) (n : Nat) : GVal := if n = 0 then {} else FMap.getD st.g n {}
def Strand.putG (st : Strand) (n : Nat) (v : GVal) : Strand := if n = 0 then st else { st with g := FMap.put st.g n v }
def Strand.getV (st : Strand) (n : Nat) : VVal := FMap.getD st.v n {}
def Strand.putV (st : Strand) (n : Nat) (v : VVal) : Strand := { st with v := FMap.put st.v n v }
def Strand.getK (st : Strand) (n : Nat) : BitVec 256 := if n = 0 then BitVec.allOnes 256 else FMap.getD st.k n 0
def Strand.putK (st : Strand) (n : Nat) (m : BitVec 256) : Strand :=
  if n = 0 then st else { st with k := FMap.put st.k n m }
def Ctx.latch (c : Ctx) (n : Nat) : Latch := FMap.getD c.x n {}

/-- A scalar source (R85, R97). -/
def State.rdG (s : State) (a : Src) : GVal :=
  match a with
  | .reg n => s.cur.st.getG n.toNat
  | .latch n => ⟨(s.cur.latch n.toNat).val.setWidth 64, (s.cur.latch n.toNat).sres⟩
/-- A vector source. -/
def State.rdV (s : State) (a : Src) : VVal :=
  match a with
  | .reg n => s.cur.st.getV n.toNat
  | .latch n => ⟨(s.cur.latch n.toNat).val, (s.cur.latch n.toNat).vres⟩
/-- A mask source. -/
def State.rdK (s : State) (a : Src) : BitVec 256 :=
  match a with
  | .reg n => s.cur.st.getK n.toNat
  | .latch n => (s.cur.latch n.toNat).val.setWidth 256

/-- The latch contents that a scalar, a vector and a mask result leave (R85). -/
def latchG (v : GVal) : Latch := ⟨v.val.setWidth 1024, v.res, untracked⟩
def latchV (v : VVal) : Latch := ⟨v.val, 15, v.res⟩
def latchK (m : BitVec 256) : Latch := ⟨m.setWidth 1024, 15, untracked⟩

/-! ## Results in flight (R267) -/

/-- The register that an entry of the in-flight table writes. -/
def FlightOp.reg : FlightOp → Option RegName
  | .g n _ => some (.g n)
  | .v n _ => some (.v n)
  | .k n _ => some (.k n)
  | .q _ _ | .latchOnly | .macc _ _ _ _ _ | .mshift _ | .mzero _ | .push _ _ _ _ | .mkat _ _ => none

/-- A result enters the in-flight table, readable after `l` cycles: context cycles, or core cycles for a sequencer's
template, which writes no latch (R251). -/
def State.flightPut (s : State) (op : FlightOp) (latch : Option (Nat × Latch)) (l : Nat) : State :=
  s.updSt fun st => { st with flight := st.flight ++
    [{ op := op, latch := if s.iss.template then none else latch, left := l, coreCount := s.iss.template, ord := s.nextId }] }

/-- wr(D, v) of a scalar result with latency `l` (R108). -/
def State.wrG (s : State) (d : Dst) (l : Nat) (v : GVal) : State :=
  s.flightPut (if d.latchOnly then .latchOnly else .g d.n.toNat v) (some (d.n.toNat % 16, latchG v)) l
/-- wr(D, v) of a vector result. -/
def State.wrV (s : State) (d : Dst) (l : Nat) (v : VVal) : State :=
  s.flightPut (if d.latchOnly then .latchOnly else .v d.n.toNat v) (some (d.n.toNat % 16, latchV v)) l
/-- wr(D, v) of a mask result. -/
def State.wrK (s : State) (d : Dst) (l : Nat) (m : BitVec 256) : State :=
  s.flightPut (if d.latchOnly then .latchOnly else .k d.n.toNat m) (some (d.n.toNat % 16, latchK m)) l
/-- A q result: no latch, readable at c + 1 (R133). -/
def State.wrQ (s : State) (n : BitVec 3) (v : Bool) : State :=
  s.flightPut (.q (1#8 <<< n.toNat) (if v then 1#8 <<< n.toNat else 0)) none 1

/-! ## Control state written by a bundle -/

/-- A hardware update of control state, applied after the bundle's program write (R87). -/
def State.hw (s : State) (u : HwUpd) : State := s.updIss fun i => { i with hw := i.hw ++ [u] }
/-- flag(F): sticky flags that the bundle sets if it commits (R66). -/
def State.flag (s : State) (f : MFlags) : State := if f = 0 then s else s.hw (.mstat f)

/-- The generator state that the next draw of this bundle starts from (R60). -/
def State.seed (s : State) : Word := s.iss.seed.getD s.cur.st.ctl.rseed
/-- The state after draws that leave `G`. -/
def State.setSeed (s : State) (G : Word) : State := s.updIss fun i => { i with seed := some G }
/-- One draw where the mode is SR, none otherwise (R60). -/
def State.drawSR (s : State) (rm : Rm) : Nat × State :=
  if rm = .sr then
    let (G, w) := draw s.seed
    (w, s.setSeed G)
  else (0, s)

/-! ## Faults (R105 to R107) -/

/-- CAUSE codes (Table 04-9). -/
def Cause.code (c : Cause) : Nat := c.ctorIdx + 1

/-- A cause marked "Own" in Table 04-9. -/
def Cause.own : Cause → Bool
  | .feRetry | .missedPromise | .katMismatch | .brk | .timer => true
  | _ => false

/-- `%fcause` of a fault (Table 04-4). -/
def FaultInfo.fcause (f : FaultInfo) : Word :=
  BitVec.ofNat 64 (f.len % 64 * 65536 + f.slot % 16 * 4096 + f.cause.code)

/-- The fault registers as a fault leaves them (R104, R107). -/
def Ctl.faulted (c : Ctl) (f : FaultInfo) : Ctl :=
  { c with fcause := f.fcause, faddr := BitVec.ofNat 64 f.addr, fdata := BitVec.ofNat 64 f.data, fbundle := f.pc }

/-- A group boundary of a context: its latches clear, and results in flight lose theirs (R86). -/
def Ctx.boundary (c : Ctx) : Ctx :=
  { c with
    x := [], atBoundary := true
    st := { c.st with
      flight := c.st.flight.map fun e => { e with latch := none }
      pend := c.st.pend.map fun e => { e with latch := none } } }

/-- The fetch buffer discarded (R272). -/
def Ctx.dropFetch (c : Ctx) : Ctx := { c with fetchBase := 0, fetchBuf := [], fetchAt := none }

/-- Whether a fault of this context enters its own handler (R107). -/
def Ctx.takesOwn (c : Ctx) (cause : Cause) : Bool :=
  cause.own && c.st.ctl.tvec.getLsbD 0 && !c.st.ctl.intrap

/-- Trap entry (R107, R159): the fault registers, INTRAP, PC from `%tvec`, a group boundary; a fused member leaves the
set. -/
def Ctx.trapEnter (c : Ctx) (f : FaultInfo) : Ctx :=
  let b := (Ctx.dropFetch c).boundary
  { b with
    hold := none
    st := { b.st with
      ctl := { b.st.ctl.faulted f with intrap := true, fused := false }
      pc := b.st.ctl.tvec &&& ~~~1#56, owed := 0, mode := .run } }

/-- Save need in bytes (R302). -/
def saveNeed (size rows spill acc : Nat) : Nat := size * (32768 + 128 * spill + 128 * rows + 16384 * acc)
def Task.need (t : Task) : Nat := saveNeed t.size t.rows t.spill t.acc

/-- A task's save need taken from its die's store, unless the task is being taken off its contexts already (R302). -/
def State.takeNeed (s : State) (t : Nat) : State :=
  match FMap.find s.tasks t with
  | none => s
  | some k => if k.phase = .rest then s.updDie k.die fun d => { d with saveUsed := d.saveUsed + k.need } else s

/-- A crew that must stop: its members freeze at their next bundle boundary (R303 step 1), after which the task takes the
given state. `f` is the fault to report, if any. -/
def State.freezeTask (s : State) (t : Nat) (after : TaskState) (f : Option FaultInfo) (member : Nat) (record : Bool) :
    State :=
  let s := (s.takeNeed t).updTask t fun k => { k with phase := .freezing after f member record }
  { s with ctxs := s.ctxs.map fun e => if e.2.task = some t then (e.1, { e.2 with freeze := true }) else e }

/-- A fault reported to the supervisor (R105, R307): the strand stops at the faulting bundle with the fault registers
written, and the whole crew is to be suspended. -/
def State.toSupervisor (s : State) (cx : Nat) (f : FaultInfo) : State :=
  let s := s.updCtx cx fun c =>
    let b := (Ctx.dropFetch c).boundary
    { b with
      hold := none
      st := { b.st with ctl := b.st.ctl.faulted f, pc := f.pc, mode := .frozen } }
  match (s.ctx cx).task with
  | none => s
  | some t => s.freezeTask t .suspended (some { f with tick := s.clock.toNat }) (s.ctx cx).st.ctl.member.toNat true

/-- Taking a fault in a context (R107). -/
def State.takeFault (s : State) (cx : Nat) (f : FaultInfo) : State :=
  if (s.ctx cx).takesOwn f.cause then s.updCtx cx fun c => c.trapEnter f else s.toSupervisor cx f

/-- A fault that a slot of the current bundle raises: it is taken, and marked so that the bundle does not commit (R8,
R103). -/
def State.raise (s : State) (slot : Nat) (cause : Cause) (addr data : Nat) : State :=
  let f : FaultInfo := { cause := cause, slot := slot, addr := addr, data := data, pc := s.iss.pc, len := s.iss.len }
  (s.takeFault s.iss.cx f).updIss fun i => { i with faulted := some f }

/-- A RESIDUE fault of a slot for a value and the residue it carried (R78). -/
def State.raiseRes (s : State) (slot v : Nat) (r : BitVec 4) : State := s.raise slot .residue 0 (resData v r)

/-- Runs `f` if the scalar's residue check passes; faults RESIDUE otherwise. -/
def State.chkG (s : State) (slot : Nat) (g : GVal) (f : State → State) : State :=
  if g.ok then f s else s.raiseRes slot g.val.toNat g.res

/-- Runs `f` if every lane's residue check passes. -/
def State.chkV (s : State) (slot : Nat) (v : VVal) (f : State → State) : State :=
  match v.bad with
  | none => f s
  | some j => s.raiseRes slot (laneN 32 v.val.toNat j) (laneRes v.res j)

/-! ## Events of a context's flags (R89) -/

/-- Flags of `%mstat` that results of earlier bundles set in this cycle. -/
def State.noteMstat (s : State) (cx : Nat) (f : BitVec 8) : State :=
  if f = 0 then s
  else
    let now := s.clock.toNat
    s.updCtx cx fun c =>
      { c with
        mstatNow := (if c.mstatTick = now then c.mstatNow else 0) ||| f, mstatTick := now
        st := { c.st with ctl := { c.st.ctl with mstat := c.st.ctl.mstat ||| f } } }

/-- An engine's set of an event bit of a context. -/
def State.setEvt (s : State) (cx n : Nat) : State :=
  let now := s.clock.toNat
  s.updCtx cx fun c =>
    { c with
      evtNow := (if c.evtTick = now then c.evtNow else 0) ||| (1#32 <<< n), evtTick := now
      st := { c.st with ctl := { c.st.ctl with evt := c.st.ctl.evt ||| (1#32 <<< n) } } }

/-- A core's gating ended by an event: its first bundle issues two cycles of the core later (R274). -/
def State.ungate (s : State) (core : Nat) : State :=
  if (s.core core).gated then s.updCore core fun k => { k with gated := false, wakeIn := 2 } else s

/-- QIDLE of a context (Table 04-4): bit q is set while no command of the context is in queue q. -/
def State.qidle (s : State) (cx : Nat) : Nat :=
  ((List.range 5).filter fun q => !(s.cmds.any fun c => c.cx = cx && c.queue = q)).foldl (fun a q => a + 2 ^ q) 0

/-- `%flags` of a context as it reads (Table 04-4). -/
def State.flagsOf (s : State) (cx : Nat) : Word :=
  let c := (s.ctx cx).st.ctl
  let b (x : Bool) (n : Nat) : Nat := if x then 2 ^ n else 0
  BitVec.ofNat 64 (c.evt.toNat + s.qidle cx * 2 ^ 32 + b ((s.core (coreOf cx)).lns.mode == .idle) 37 +
    b (decide (c.due.toNat ≤ s.clock.toNat)) 38 + b c.resFlag 39)

end Sys2Proof.Machine
end

