-- ==== Sys2Proof/Machine/Operands.lean ====
section
/-!
DEFINITION. Operands: immediates (R131), reads and writes of control registers (R88, R143), and the spill store (R93).
-/
namespace Sys2Proof.Machine

/-- The immediate operand as a 64-bit pattern with its residue (R131). -/
def immG (imm : BitVec 44) : GVal := fresh (imm.signExtend 64)
/-- The immediate as an exact signed integer. -/
def immI (imm : BitVec 44) : Int := imm.toInt

/-! ## Control registers -/

/-- The value of a control register in the cycle of the read (Table 04-4); for a bundle that held, the cycle of its
presentation (R175). -/
def State.readCR (s : State) (n : CReg) : Word :=
  let c := s.cur.st.ctl
  match n with
  | .clock =>
    match s.iss.committed with
    | none => s.clock
    | some h => BitVec.ofNat 64 h.presented
  | .due => c.due
  | .flags =>
    match s.iss.committed with
    | none => s.flagsOf s.iss.cx
    | some h => h.flags
  | .seqlen => c.seqlen.setWidth 64
  | .fcause => c.fcause
  | .faddr => c.faddr
  | .fbundle => c.fbundle.setWidth 64
  | .taskid => c.job ++ 0#3 ++ c.record
  | .rseed => c.rseed
  | .mstat => c.mstat.setWidth 64
  | .lc => c.lc.setWidth 64
  | .stage => c.stage.setWidth 64
  | .tvec => c.tvec.setWidth 64
  | .place => BitVec.ofNat 64 (s.boot.modid.toNat * 4096 + s.iss.cx % 4096)
  | .crew => BitVec.ofNat 64 ((if c.fused then 128 else 0) + c.crewM1.toNat * 16 + c.member.toNat)
  | .alarm => c.alarm
  | .watch => c.watch.setWidth 64
  | .tstate => if c.intrap then 1 else 0
  | .spill => c.spillSize.setWidth 64
  | .fdata => c.fdata

/-- A program's write of a control register, field by field (R5, R143). `keep` holds event bits that an engine set in
this cycle (R89). -/
def Ctl.writeCR (c : Ctl) (n : CReg) (v : Word) (keep : BitVec 32) : Ctl :=
  match n with
  | .due => { c with due := v }
  | .flags => { c with evt := v.setWidth 32 ||| keep, resFlag := c.resFlag && !v.getLsbD 39 }
  | .seqlen => { c with seqlen := v.setWidth 32 }
  | .fbundle => { c with fbundle := v.setWidth 56 &&& ~~~1#56 }
  | .rseed => { c with rseed := seedOf v }
  | .mstat => { c with mstat := v.setWidth 8 }
  | .lc => { c with lc := v.setWidth 32 }
  | .tvec => { c with tvec := v.setWidth 56 }
  | .alarm => { c with alarm := v }
  | .watch => { c with watch := v.setWidth 56 &&& ~~~1#56 }
  | .clock | .fcause | .faddr | .taskid | .stage | .place | .crew | .tstate | .spill | .fdata => c

/-- The registers whose writes check a residue (R78). -/
def crChecked : CReg → Bool
  | .due | .lc | .tvec | .fbundle | .alarm | .watch => true
  | _ => false

/-- A hardware update applied to control state (R87). -/
def Ctl.update (c : Ctl) (u : HwUpd) : Ctl :=
  match u with
  | .mstat m => { c with mstat := c.mstat ||| m }
  | .due v => { c with due := v }
  | .lc v => { c with lc := v }
  | .stage v => { c with stage := v }
  | .resFlag => { c with resFlag := true }
  | .k15 _ | .rotate => c

/-- A program's control write, which takes effect when the bundle ends (R130, R133). -/
def State.prog (s : State) (n : CReg) (v : Word) : State := s.updIss fun i => { i with prog := i.prog ++ [(n, v)] }

/-! ## Spill store (R93, R149) -/

/-- The aligned offset of a spill access, or none where it passes SIZE. -/
def spillAt (size : Nat) (o : Int) (n : Nat) : Option Nat :=
  if o < 0 then none
  else
    let b := o.toNat / n * n
    if b + n ≤ size then some b else none

/-- The residue of a spill word as `sp.ld` restores it. -/
def SpillWord.residue (w : SpillWord) : BitVec 4 :=
  if w.scalar then w.r0
  else if w.r0 = 15 || w.r1 = 15 then 15
  else BitVec.ofNat 4 ((w.r0.toNat + w.r1.toNat) % 15)

def Strand.spillWord (st : Strand) (k : Nat) : SpillWord := FMap.getD st.spill k {}

/-- The words of a range of the spill store that hold an uncorrectable error. -/
def Strand.spillBadIn (st : Strand) (k n : Nat) : Nat := ((List.range n).filter fun i => (st.spillWord (k + i)).bad).length

/-- The 16 spill words of a vector slot, from byte offset `o`, as a vector value. -/
def Strand.spillVec (st : Strand) (o : Nat) : VVal :=
  let ws := (List.range 16).map fun i => st.spillWord (o / 8 + i)
  { val := BitVec.ofNat 1024 (ofLanes 64 (ws.map fun w => w.val.toNat))
    res := BitVec.ofNat 128 (ofLanes 4 (ws.flatMap fun w =>
      if w.scalar then [15, 15] else [w.r0.toNat, w.r1.toNat])) }

/-- A vector stored to a vector slot. -/
def Strand.putSpillVec (st : Strand) (o : Nat) (v : VVal) : Strand :=
  { st with spill := (List.range 16).foldl (fun m i =>
      FMap.put m (o / 8 + i)
        { val := v.val.extractLsb' (64 * i) 64, scalar := false, r0 := laneRes v.res (2 * i),
          r1 := laneRes v.res (2 * i + 1) }) st.spill }

end Sys2Proof.Machine
end

