-- ==== Sys2Proof/Machine/Control.lean ====
section
/-!
DEFINITION. Control: the L-slot transfers, loops, sleeps, lock-step, traps and `lnop` of chapter 06.
-/
namespace Sys2Proof.Machine

/-- A taken transfer of the bundle; bit 0 of the target is ignored (R104). -/
def State.goTo (s : State) (t : BitVec 56) : State := s.updIss fun i => { i with target := some (t &&& ~~~1#56) }
/-- What the bundle asks for at its end. -/
def State.after (s : State) (a : After) : State := s.updIss fun i => { i with after := a }
/-- The target of an LB instruction: PC + 2 × sext(OFF, 30) (R150). -/
def State.lbTarget (s : State) (off : BitVec 30) : BitVec 56 := s.iss.pc + (off.signExtend 56 <<< 1)
/-- g31 written with the address of the next bundle; the link goes to no latch (R150). -/
def State.link (s : State) : State :=
  s.flightPut (.g 31 (fresh ((s.iss.pc + BitVec.ofNat 56 s.iss.len).setWidth 64))) none 1

/-! ## Transfers (R150, R151) -/

def execBr (o : OpLB) (s : State) : Out := guarded o.p (fun s => s.goTo (s.lbTarget o.off)) s
def execCall (o : OpLB) (s : State) : Out := guarded o.p (fun s => (s.goTo (s.lbTarget o.off)).link) s
/-- `jmp`. PC has 56 bits: bits 63 to 56 of gA are dropped (assumption 75). -/
def execJmp (o : OpLR) (s : State) : Out :=
  guarded o.p (fun s => s.chkG 6 (s.rdG o.a) fun s => s.goTo ((s.rdG o.a).val.setWidth 56)) s
/-- `call.r`, with the target of `jmp`. -/
def execCallR (o : OpLR) (s : State) : Out :=
  guarded o.p (fun s => s.chkG 6 (s.rdG o.a) fun s => (s.goTo ((s.rdG o.a).val.setWidth 56)).link) s

/-! ## Loops (R82, R152, R153) -/

/-- One b register after a rotation (R82). -/
def rotateB (w : Word) : Word :=
  let span := bits w.toNat 60 48
  let lo := bits w.toNat 44 32
  let stride := sextN 13 (bits w.toNat 28 16)
  let row : Int := (bits w.toNat 12 0 : Nat)
  let r : Nat :=
    if span = 0 then narrow 13 (row + stride)
    else (lo + ((row - lo + stride) % (span : Int)).toNat) % 8192
  (w &&& ~~~0x1FFF#64) ||| BitVec.ofNat 64 r

/-- All eight b registers rotated. -/
def Strand.rotate (st : Strand) : Strand :=
  { st with b := (List.range 8).foldl (fun m j => FMap.put m j (rotateB (FMap.getD m j 0))) st.b }

def execLoop (o : OpLB) (s : State) : Out :=
  guarded o.p (fun s =>
    let lc := s.cur.st.ctl.lc
    let n := if lc = 0 then 0 else lc - 1
    let s := s.hw (.lc n)
    if n = 0 then s else s.goTo (s.lbTarget o.off)) s
def execLoopMod (o : OpLB) (s : State) : Out :=
  guarded o.p (fun s =>
    let old := s.cur.st.ctl.lc
    let q := (s.cur.st.q <<< 1) ||| (if old = 0 then 0 else 1)
    let s := ((s.hw (.lc (if old = 0 then 0 else old - 1))).hw .rotate).flightPut (.q 0xFF q) none 1
    if q = 0 then s else s.goTo (s.lbTarget o.off)) s

/-! ## Sleeping (R154 to R156) and lock-step (R157) -/

def execSleepDue (o : OpN) (s : State) : Out := guarded o.p (fun s => s.after .sleepDue) s
/-- `sleep.n`. The issue tick of a bundle that held is the tick of its commit (assumption 76). -/
def execSleepN (o : OpLR) (s : State) : Out :=
  guarded o.p (fun s => s.after (.sleepTo (s.clock.toNat + (s.rdG o.a).val.toNat))) s
def execFuse (o : OpN) (s : State) : Out := guarded o.p (fun s => s.after .fuse) s
def execDecouple (o : OpN) (s : State) : Out := guarded o.p (fun s => s.after .decouple) s
def execRejoin (o : OpN) (s : State) : Out := guarded o.p (fun s => s.after .fuse) s

/-! ## Traps (R160 to R162) -/

def execBrk (o : OpLI) (s : State) : Out := guarded o.p (fun s => s.raise 6 .brk s.iss.pc.toNat o.imm.toNat) s
def execSys (o : OpLI) (s : State) : Out := guarded o.p (fun s => s.raise 6 .sys s.iss.pc.toNat o.imm.toNat) s
def execEret (o : OpN) (s : State) : Out :=
  guarded o.p (fun s =>
    if s.cur.st.ctl.intrap then s.after .eret else s.raise 6 .illOp s.iss.pc.toNat 0x12) s
def execLnop (o : OpN) (s : State) : Out := guarded o.p (fun s => s) s

end Sys2Proof.Machine
end

