-- ==== Sys2Proof/Machine/Xlate.lean ====
section
/-!
DEFINITION. Xlate: physical addresses and homes (R315, R316), page walks and cached translations (R296 to R298), the
performance of reads and writes at a home (R280, R330, R331, R343, R391, R392), and full/empty bits.
-/
namespace Sys2Proof.Machine

/-! ## The physical address map (Table 14-2) -/

def lpddrSize : Nat := 0x3000000000
def mramBase : Nat := 0x10000000000
def bankSize : Nat := 0x2000000
def tagBase : Nat := 0x20000000000

def inLpddr (pa : Nat) : Bool := decide (pa < 4 * lpddrSize)
def inMram (pa : Nat) : Bool := decide (mramBase ≤ pa) && decide (pa < mramBase + 1024 * bankSize)
def inTags (pa : Nat) : Bool := decide (tagBase ≤ pa) && decide (pa < tagBase + 0x300000000)

/-- Base of a core's own weight bank. Core `c` of the module is core c mod 256 of die c / 256. -/
def bankOf (core : Nat) : Nat := mramBase + core * bankSize

/-- The die that homes a physical address (R316). -/
def homeDie (pa : Nat) : Nat :=
  if inLpddr pa then pa / lpddrSize
  else if inMram pa then (pa - mramBase) / (256 * bankSize)
  else (pa - tagBase) / 64 * 4096 / lpddrSize

/-- The save store of a die: the top SAVESZ MiB of its LPDDR6 (R302, R388). -/
def State.inSaveStore (s : State) (pa : Nat) : Bool :=
  inLpddr pa && decide (lpddrSize - s.boot.savesz.toNat * 0x100000 ≤ pa % lpddrSize)

/-- The L2 slice of its die that homes a physical address (R316): by the address for an LPDDR6 line, the slice nearest the bank's
cluster for an MRAM line, and the slice of the word described for a byte of the tag window. -/
def sliceOf (pa : Nat) : Nat :=
  let x := if inTags pa then (pa - tagBase) / 64 * 4096 + (pa - tagBase) % 64 * 64 else pa
  if inMram x then (x - mramBase) / bankSize % 256 / 16
  else bits x 10 7 ^^^ bits x 14 11 ^^^ bits x 18 15 ^^^ bits x 22 19

/-- The home of a physical address: its die and slice as one number. -/
def homeOf (pa : Nat) : Nat := homeDie pa * 16 + sliceOf pa

/-- Whether a range of addresses lies wholly in one row of Table 14-2 and may be mapped by a leaf of `leafAsn` (R315,
R383). -/
def State.mappable (s : State) (leafAsn pa size : Nat) : Bool :=
  let last := pa + size - 1
  if inLpddr pa then
    inLpddr last && pa / lpddrSize == last / lpddrSize && !s.inSaveStore last &&
    (leafAsn == 0 || !(decide (pa < s.boot.asntab + 0x100000) && decide (s.boot.asntab < pa + size)))
  else if inMram pa then
    inMram last && (pa - mramBase) / bankSize == (last - mramBase) / bankSize &&
    decide ((last - mramBase) % bankSize < 0x1FC0000)
  else if inTags pa then inTags last && leafAsn == 0
  else false

/-- A word that a walker reads; one that holds an uncorrectable error reads as zero, which is no valid entry. -/
def State.walkWord (s : State) (pa : Nat) : Nat := if inSet s.bad (pa / 8) then 0 else Memory.word s.mem pa

/-! ## Page tables (R282, R296, R297) -/

/-- The ASN table entry of an ASN: STATE, PEEROK and ROOT; an entry with a bit outside them reads as FREE. -/
def State.asnEntry (s : State) (a : Nat) : Nat × Bool × Nat :=
  let at0 := s.boot.asntab + 16 * a
  let w0 := s.walkWord at0
  let w1 := s.walkWord (at0 + 8)
  if w1 ≠ 0 ∨ bits w0 60 48 ≠ 0 ∨ bits w0 11 0 ≠ 0 then (0, false, 0)
  else (if bits w0 63 62 = 3 then 0 else bits w0 63 62, bit w0 61, bits w0 47 12 * 4096)

/-- The leaf that an entry is at a level, or none where it is not a valid leaf (R297, R315, R383). -/
def State.leafOf (s : State) (asn va level e : Nat) : Option Leaf :=
  let leafAsn := if asn = 0 ∨ bit va 55 then 0 else asn
  let size := 4096 * 512 ^ level
  let pa := bits e 47 12 * 4096
  let fe := bit e 7
  let sl := bit e 8
  let g := bit e 5
  let ok := bit e 0 && !bit e 1 && bits e 63 55 == 0 && decide (level ≤ 2) && pa % size == 0 &&
    !(sl && !inMram pa) && !(fe && inMram pa) && !(bit e 6 && level != 2) && !(g && leafAsn != 0) &&
    !(!g && asn != 0 && bit va 55) && !(inMram pa && bit e 3) && s.mappable leafAsn pa size &&
    !(inTags pa && (fe || bits e 51 48 != 0 || sl || bit e 9))
  if ok then
    some { va := va / size * size, size := size, pa := pa, r := bit e 2, w := bit e 3 && !(g && asn != 0), x := bit e 4,
           fe := fe, isSealed := sl, co := bit e 9, bgeo := bits e 11 10, efmt := bits e 51 48,
           lclass := if inTags pa then 0 else bits e 54 52 }
  else none

/-- The attributes of a leaf entry: every bit of it but its PA. -/
def leafAttrs (e : Nat) : Nat × Nat := (bits e 63 48, bits e 11 0)

/-- The 32 GiB leaf that a contiguous group of level-2 entries forms, if this entry `e` lies in one (R297): 32 valid entries with
CONTIG, every attribute alike, their PAs consecutive from a 32 GiB boundary. -/
def State.contigOf (s : State) (asn va table e : Nat) (l : Leaf) : Leaf :=
  let first := bits va 38 30 / 32 * 32
  let span := 32 * 0x40000000
  let base := va / span * span
  let like (i : Nat) : Bool :=
    let k := s.walkWord (table + 8 * (first + i))
    leafAttrs k == leafAttrs e && bits k 47 12 * 4096 == l.pa / span * span + i * 0x40000000 &&
      (s.leafOf asn (base + i * 0x40000000) 2 k).isSome
  if (List.range 32).all like then { l with va := base, size := span, pa := l.pa / span * span } else l

/-- The table below an entry of a level, where a walk cache holds it. A cached entry is the ASN, the level of the table entry, the VA
bits from that level up, and the physical address of the table below (R298). -/
def walkHit (cache : List (Nat × Nat × Nat × Nat)) (asn va level : Nat) : Option Nat :=
  (cache.find? fun w => w.1 == asn && w.2.1 == level && w.2.2.1 == va / 2 ^ (12 + 9 * level)).map fun w => w.2.2.2

/-- A walk from a table at a level downwards, with the table entries that it met and that the walk cache does not hold. -/
def State.walkVia (s : State) (cache : List (Nat × Nat × Nat × Nat)) (asn va : Nat) :
    Nat → Nat → Option Leaf × List (Nat × Nat × Nat × Nat)
  | 0, table => (s.leafOf asn va 0 (s.walkWord (table + 8 * bits va 20 12)), [])
  | level + 1, table =>
    match walkHit cache asn va (level + 1) with
    | some t => s.walkVia cache asn va level t
    | none =>
      let e := s.walkWord (table + 8 * bits va (20 + 9 * (level + 1)) (12 + 9 * (level + 1)))
      if bit e 0 && bit e 1 then
        if bits e 63 48 = 0 ∧ bits e 11 2 = 0 then
          let t := bits e 47 12 * 4096
          let r := s.walkVia cache asn va level t
          (r.1, (asn, level + 1, va / 2 ^ (12 + 9 * (level + 1)), t) :: r.2)
        else (none, [])
      else
        ((s.leafOf asn va (level + 1) e).map fun l => if level = 1 && bit e 6 then s.contigOf asn va table e l else l, [])

/-- A walk for a virtual address in an ASN (R282, R296), with a walk cache. -/
def State.walkWith (s : State) (cache : List (Nat × Nat × Nat × Nat)) (asn va : Nat) :
    Option Leaf × List (Nat × Nat × Nat × Nat) :=
  let e := s.asnEntry asn
  if 2 ^ 56 ≤ va ∨ e.1 ≠ 1 then (none, [])
  else if asn ≠ 0 ∧ bit va 55 then
    let z := s.asnEntry 0
    if z.1 = 1 then s.walkVia cache asn va 4 z.2.2 else (none, [])
  else s.walkVia cache asn va 4 e.2.2

/-- A walk that no cache serves. -/
def State.walk (s : State) (asn va : Nat) : Option Leaf := (s.walkWith [] asn va).1

/-- Units in error met at the home of an address: each counted at its die and in the job's slot, and the last one's address kept (R392,
R393). -/
def State.eccAt (s : State) (us : List Nat) (pa : Nat) (slot : Option Nat) : State :=
  let s := s.updDie (homeDie pa) fun d =>
    { d with uncorr := satWord d.uncorr us.length, lastPa := BitVec.ofNat 48 (us.getLastD d.lastPa.toNat) }
  match slot with
  | none => s
  | some k => s.countSlot k .eccu us.length

/-- The table words in error that a walk from a table at a level downwards meets. -/
def State.errorsVia (s : State) (cache : List (Nat × Nat × Nat × Nat)) (asn va : Nat) : Nat → Nat → List Nat
  | 0, table => [table + 8 * bits va 20 12].filter fun a => inSet s.bad (a / 8)
  | level + 1, table =>
    match walkHit cache asn va (level + 1) with
    | some t => s.errorsVia cache asn va level t
    | none =>
      let a := table + 8 * bits va (20 + 9 * (level + 1)) (12 + 9 * (level + 1))
      let e := s.walkWord a
      if inSet s.bad (a / 8) then [a]
      else if bit e 0 && bit e 1 then s.errorsVia cache asn va level (bits e 47 12 * 4096)
      else if level = 1 && bit e 6 then
        ((List.range 32).map fun i => table + 8 * (bits va 38 30 / 32 * 32 + i)).filter fun a => inSet s.bad (a / 8)
      else []
/-- The table words in error that a walk meets, the ASN table's among them; they read as zero (R392). -/
def State.walkErrors (s : State) (cache : List (Nat × Nat × Nat × Nat)) (asn va : Nat) : List Nat :=
  let root := if asn ≠ 0 ∧ bit va 55 then 0 else asn
  let own := ([asn, root].dedup.flatMap fun a => [s.boot.asntab + 16 * a, s.boot.asntab + 16 * a + 8]).filter fun a => inSet s.bad (a / 8)
  if !own.isEmpty || decide (2 ^ 56 ≤ va) then own else s.errorsVia cache asn va 4 (s.asnEntry root).2.2

/-- Leaves of 1 GiB and more share one part of the TLB, the others another: the entries of each (R298). -/
def tlbCap (size : Nat) : Nat := if 0x40000000 ≤ size then 768 else 4096
def sameTlbPart (a b : Nat) : Bool := tlbCap a == tlbCap b

/-- A translation enters a die's TLB; where its part is full an entry of that part leaves, which one being free (R298;
assumption 71). -/
def State.tlbPut (s : State) (die asn : Nat) (l : Leaf) : State :=
  let d := s.die die
  let part := d.tlb.filter fun e => sameTlbPart e.2.size l.size
  if part.length < tlbCap l.size then s.setDie die { d with tlb := d.tlb ++ [(asn, l)] }
  else
    let (f, s) := s.drawFree
    match part[Config.choice f % part.length]? with
    | none => s.setDie die { d with tlb := d.tlb ++ [(asn, l)] }
    | some out => s.setDie die { d with tlb := d.tlb.erase out ++ [(asn, l)] }

/-- A translation by a die's scheduler translation unit (R298): a cached one stays in use until its ASN retires, and so does each
table entry that a walk has met. A not-valid entry is not cached. A table word in error is counted (R392). -/
def State.translate (s : State) (die asn va : Nat) : Option Leaf × State :=
  match (s.die die).tlb.find? fun e => e.1 == asn && decide (e.2.va ≤ va) && decide (va < e.2.va + e.2.size) with
  | some e => (some e.2, s)
  | none =>
    let (l, ws) := s.walkWith (s.die die).walks asn va
    let s := if s.bad.isEmpty then s
      else (s.walkErrors (s.die die).walks asn va).foldl (fun s a => s.eccAt [a] a none) s
    let s := if ws.isEmpty then s else s.updDie die fun d => { d with walks := d.walks ++ ws }
    match l with
    | none => (none, s)
    | some l => (some l, s.tlbPut die asn l)

/-- The physical address that a leaf gives to a virtual address. -/
def Leaf.paOf (l : Leaf) (va : Nat) : Nat := l.pa + (va - l.va)

/-- The physical address at which system software's tables lie: a virtual address of ASN 0 (R280, R310). -/
def State.sysPa (s : State) (die va : Nat) : Option Nat × State :=
  let (l, s) := s.translate die 0 va
  (l.map fun l => l.paOf va, s)

/-- The seal tag of an MRAM page (R397). -/
def State.sealTag (s : State) (pa : Nat) : Nat :=
  if inMram pa then (FMap.getD s.seals (pa / 4096) 0).toNat else 0

/-! ## Full/empty bits of device memory (R330, R331) -/

/-- The 64-bit word of the tag window that holds the bit of a word of LPDDR6 (R331); both are numbered by address / 8. -/
def tagWord (w : Nat) : Nat := tagBase / 8 + w / 512 * 8 + w % 512 / 64
/-- The first of the 64 words of LPDDR6 that a word of the tag window describes. -/
def tagWords (t : Nat) : Nat := let o := t - tagBase / 8; o / 8 * 512 + o % 8 * 64

/-- The bit of a word; one that holds an uncorrectable error, as one whose tag word does, reads as empty (Tables 19-2, 19-3). -/
def State.isFull (s : State) (pa : Nat) : Bool :=
  inSet s.full (pa / 8) && !inSet s.bad (pa / 8) && !inSet s.bad (tagWord (pa / 8))

/-- A form may be performed on a word whose bit is this (Table 07-7). -/
def Form.allowed (f : Form) (full : Bool) : Bool :=
  match f with
  | .wait | .take => full
  | .fill => !full
  | .force | .plain => true

/-- The tasks of a word's list whose form a state of its bit allows, marked to be requeued (R177, R311). -/
def ParkList.wake (l : ParkList) (full : Bool) : ParkList :=
  { l with woken := (l.items.filter fun i => Form.allowed i.2.2 full).foldl (fun w i => addSet w i.2.1) l.woken }

/-- A word's bit set or cleared; a change marks the tasks parked on the word whose form the new state allows, and its home takes
the word up (R177, R311). The bit of a word in error stays empty until the word is rewritten whole; setting a bit writes its tag word
anew (Table 19-3). -/
def State.setFull (s : State) (pa : Nat) (b : Bool) : State :=
  if !inLpddr pa || inSet s.bad (pa / 8) then s
  else if inSet s.full (pa / 8) = b then s
  else
    let s := { s with full := putSet s.full (pa / 8) b, bad := if b then delSet s.bad (tagWord (pa / 8)) else s.bad }
    let w := pa / 8 * 8
    s.updDie (homeDie w) fun k =>
      if k.parks.any fun p => p.2.word == w then
        { k with
          parks := k.parks.map fun p => if p.2.word = w then (p.1, p.2.wake b) else p
          waking := addSet k.waking w }
      else k

/-- A word of device memory comes to hold an uncorrectable error: the bit that it carries, or each that a tag word holds, reads as
empty from then on (Table 19-3; assumption 86). -/
def State.spoil (s : State) (pa : Nat) : State :=
  let s := if inTags pa then (List.range 64).foldl (fun s i => s.setFull (8 * (tagWords (pa / 8) + i)) false) s
    else s.setFull (pa / 8 * 8) false
  { s with bad := addSet s.bad (pa / 8) }

/-- Every whole word of a range set full (R240). -/
def State.fillWords (s : State) (pa : Nat) : Nat → State
  | 0 => s
  | n + 1 => (s.setFull pa true).fillWords (pa + 8) n

/-- The byte of the tag window at an offset: bits of eight words (R331). -/
def State.tagByte (s : State) (pa : Nat) : Byte :=
  let o := pa - tagBase
  let w := (o / 64 * 4096 + o % 64 * 64) / 8
  BitVec.ofNat 8 (((List.range 8).filter fun i => inSet s.full (w + i)).foldl (fun a i => a + 2 ^ i) 0)

/-- A byte stored to the tag window sets the bits it describes. -/
def State.putTagByte (s : State) (pa : Nat) (b : Byte) : State :=
  let o := pa - tagBase
  let w := o / 64 * 4096 + o % 64 * 64
  (List.range 8).foldl (fun s i => s.setFull (w + 8 * i) (b.getLsbD i)) s

/-! ## Reads and writes at a home -/

/-- The bytes that device memory holds from a physical address. -/
def State.peek (s : State) (pa n : Nat) : List Byte :=
  if inTags pa then (List.range n).map fun i => s.tagByte (pa + i) else Memory.bytes s.mem pa n

/-- Whether a range meets an uncorrectable error: a word of LPDDR6, a 256-byte unit of MRAM (Table 19-2). -/
def State.spoiled (s : State) (pa n : Nat) : Bool :=
  let u := if inMram pa then 256 else 8
  s.bad.any fun w => decide (pa / u * u < 8 * w + 8) && decide (8 * w < (pa + n + u - 1) / u * u)

/-- The protected units of a range that hold an uncorrectable error, by address. -/
def State.badUnits (s : State) (pa n : Nat) : List Nat :=
  let u := if inMram pa then 256 else 8
  ((List.range ((pa + n + u - 1) / u - pa / u)).map fun i => (pa / u + i) * u).filter fun a => s.spoiled a 1

/-- The uncorrectable errors of a range met. -/
def State.eccMet (s : State) (pa n : Nat) (slot : Option Nat) : State :=
  s.eccAt (s.badUnits pa n) pa slot

/-- Shards between a die and the home of an address are lost after their retransmissions (R395). -/
def State.severed (s : State) (die pa : Nat) : Bool :=
  homeDie pa != die && inSet s.lostLinks (4 * min die (homeDie pa) + max die (homeDie pa))
/-- A range cannot be read from a die: it meets an uncorrectable error, or its transfer is lost between dies (R392, R395). -/
def State.unreadable (s : State) (die pa n : Nat) : Bool := s.spoiled pa n || s.severed die pa
/-- That error met: a lost transfer counts as one at the home of its address (R395; assumption 90). -/
def State.readMet (s : State) (die pa n : Nat) (slot : Option Nat) : State :=
  if s.severed die pa then s.eccAt [pa] pa slot else s.eccMet pa n slot

/-- Bytes of scheduler-owned fields (R280, R283): W0 and W15 of the record of a task that is neither IDLE nor ENDED, and
FQPROD of a job record, W6 bits 31:0. `jobPages` gives the pages of the job table, each as its physical page number and the offset
of its first byte from the table's start. -/
def State.owned (s : State) (jobPages : List (Nat × Int)) (a : Nat) : Bool :=
  (s.tasks.any fun t => t.2.state != .idle && t.2.state != .ended &&
    ((decide (t.1 ≤ a) && decide (a < t.1 + 8)) || (decide (t.1 + 120 ≤ a) && decide (a < t.1 + 128)))) ||
  (jobPages.any fun p => p.1 == a / 4096 &&
    (let o := p.2 + (a % 4096 : Nat)
     decide (0 ≤ o) && decide (o < 64 * 4095) && decide (48 ≤ o % 64) && decide (o % 64 < 52)))

/-- The pages of the job table's 4,095 records (R280), where a range of whole records could meet an FQPROD field. -/
def State.jobPages (s : State) (pa n : Nat) : List (Nat × Int) :=
  let j := s.boot.jobtab
  if j % 64 = 0 ∧ n < 52 ∧ pa % 64 + n ≤ 48 then []
  else (List.range 65).filterMap fun i =>
    let v := j / 4096 * 4096 + 4096 * i
    (s.walk 0 v).map fun l => (l.paOf v / 4096, (v : Int) - j)

/-- BTB entries of the block-table words that a write covers are removed on every die (R343). -/
def State.btbDrop (s : State) (pa n : Nat) : State :=
  { s with dies := s.dies.map fun d =>
      (d.1, { d.2 with btb := d.2.btb.filter fun e => !(decide (pa < e.entryPa + 8) && decide (e.entryPa < pa + n)) }) }

/-- The bytes of a write that are performed: not those of scheduler-owned fields, nor those of a protected word that is
in error and is not written whole. -/
def State.writable (s : State) (jp : List (Nat × Int)) (pa : Nat) (n : Nat) (a : Nat) : Bool :=
  !s.owned jp a &&
  (!inSet s.bad (a / 8) || (decide (pa ≤ a / 8 * 8) && decide (a / 8 * 8 + 8 ≤ pa + n)))

/-- The bytes of a list stored where `ok` allows. -/
def storeWhere (m : Memory) (ok : Nat → Bool) (a : Nat) : List Byte → Memory
  | [] => m
  | b :: r => storeWhere (if ok a then Memory.put m a b else m) ok (a + 1) r

/-- The words in error that a range of `n` bytes meets and does not cover: a write of it discards its bytes of them (Table 19-3). -/
def partBad (bad : List Nat) (a n : Nat) : List Nat :=
  bad.filter fun w => decide (a < 8 * w + 8) && decide (8 * w < a + n) && !(decide (a ≤ 8 * w) && decide (8 * w + 8 ≤ a + n))
/-- The words in error that such a write leaves so. -/
def stillBad (bad : List Nat) (a n : Nat) : List Nat := bad.filter fun w => !(decide (a ≤ 8 * w) && decide (8 * w + 8 ≤ a + n))

/-- Errors that a write meets in words that it does not cover (R392). -/
def State.partMet (s : State) (pa n : Nat) (slot : Option Nat) : State :=
  match partBad s.bad pa n with
  | [] => s
  | ws => s.eccAt (ws.map fun w => 8 * w) pa slot

/-- How many bytes of a write are performed (R405). -/
def State.wrote (s : State) (pa n : Nat) : Nat :=
  if inTags pa then ((List.range n).filter fun i => !(partBad s.bad pa n).contains ((pa + i) / 8)).length
  else if !inLpddr pa then 0
  else let jp := s.jobPages pa n; ((List.range n).filter fun i => s.writable jp pa n (pa + i)).length

/-- A write performed at its home on behalf of an account slot (R318, R321). -/
def State.poke (s : State) (slot : Option Nat) (pa : Nat) (bs : List Byte) : State :=
  let n := bs.length
  if inTags pa then
    let lost := partBad s.bad pa n
    let t := s.partMet pa n slot
    let t := (bs.zipIdx.filter fun b => !lost.contains ((pa + b.2) / 8)).foldl (fun s b => s.putTagByte (pa + b.2) b.1)
      { t with bad := stillBad t.bad pa n }
    t.btbDrop pa n
  else if !inLpddr pa then s
  else
    let jp := s.jobPages pa n
    let hit := (List.range n).any fun i => s.owned jp (pa + i)
    let t := s.partMet pa n slot
    let s' := ({ t with mem := storeWhere s.mem (s.writable jp pa n) pa bs, bad := stillBad s.bad pa n } : State).btbDrop pa n
    match slot with
    | none => s'
    | some k => if hit then s'.countSlot k .rodisc 1 else s'

/-- A 64-bit word written by the scheduler itself. It reaches LPDDR6 alone: only a model update changes MRAM (R383). -/
def State.schedWord (s : State) (pa v : Nat) : State :=
  if inLpddr pa then { s with mem := Memory.setNum s.mem pa 8 v } else s

/-! ## Scratchpads (R295, R327) -/

/-- Key of a byte of a core's scratchpad. -/
def locKey (core row byte : Nat) : Nat := core * 0x100000 + row % 8192 * 128 + byte

def State.locBytes (s : State) (k n : Nat) : List Byte := Memory.bytes s.loc k n
def State.locNum (s : State) (k n : Nat) : Nat := Memory.num s.loc k n
/-- Whether a range of a scratchpad meets an uncorrectable error. -/
def State.locSpoiled (s : State) (k n : Nat) : Bool :=
  s.locBad.any fun w => decide (k < 8 * w + 8) && decide (8 * w < k + n)
/-- The words of a range of a scratchpad that hold an uncorrectable error. -/
def State.locBadIn (s : State) (k n : Nat) : Nat :=
  (s.locBad.filter fun w => decide (k < 8 * w + 8) && decide (8 * w < k + n)).length
/-- Bytes stored to a scratchpad; a write of part of a word in error is discarded (Table 19-3). -/
def State.locStore (s : State) (k : Nat) (bs : List Byte) : State :=
  let n := bs.length
  { s with
    loc := storeWhere s.loc
      (fun a => !inSet s.locBad (a / 8) || (decide (k ≤ a / 8 * 8) && decide (a / 8 * 8 + 8 ≤ k + n))) k bs
    locBad := stillBad s.locBad k n }
/-- How many bytes of such a store are performed (R405). -/
def State.locWrote (s : State) (k n : Nat) : Nat :=
  ((List.range n).filter fun i => !(partBad s.locBad k n).contains ((k + i) / 8)).length
def State.locIsFull (s : State) (k : Nat) : Bool := inSet s.locFull (k / 8) && !inSet s.locBad (k / 8)
def State.setLocFull (s : State) (k : Nat) (b : Bool) : State := { s with locFull := putSet s.locFull (k / 8) b }
/-- Every word of a range of a scratchpad set full. -/
def State.fillLoc (s : State) (k : Nat) : Nat → State
  | 0 => s
  | n + 1 => (s.setLocFull k true).fillLoc (k + 8) n

/-! ## Host memory -/

def State.hostMem (s : State) (port : Nat) : Memory := if port = 0 then s.host0 else s.host1
def State.setHost (s : State) (port : Nat) (m : Memory) : State :=
  if port = 0 then { s with host0 := m } else { s with host1 := m }

/-- The bytes of a number as a vector's bits. -/
def vecOfBytes (bs : List Byte) : BitVec 1024 := BitVec.ofNat 1024 (leValue bs)
def bytesOfVec (v : BitVec 1024) : List Byte := leBytes 128 v.toNat

end Sys2Proof.Machine
end

