-- ==== Sys2Proof/Machine/Access.lean ====
section
/-!
DEFINITION. Access: where a strand access goes and the checks it meets, in the order of R166; results by latency class
(R172, R195, R270, R271); remote accesses (R180, R323 to R325); and the records of R329.
-/
namespace Sys2Proof.Machine

/-- A check's verdict: the fault it raises, or what it found. -/
abbrev Checked (α : Type) := Except (Cause × Nat × Nat) α

/-- Runs `f` on what a check found, or raises its fault in the given slot. -/
def State.checked {α : Type} (s : State) (slot : Nat) (c : Checked α) (f : α → State) : State :=
  match c with
  | .error (cause, addr, data) => s.raise slot cause addr data
  | .ok x => f x

/-! ## Scratchpad locations (R164, R295) -/

/-- Index of a context's core within its cluster. -/
def coreIdx (cx : Nat) : Nat := coreOf cx % 8

/-- The first row that the crew holds on the core of an index, if it hosts a member. -/
def State.crewRow (s : State) (cx i : Nat) : Option Nat :=
  if i = coreIdx cx then some (s.ctx cx).rowBase
  else
    match (s.taskOf cx).bind fun t => t.place with
    | none => none
    | some p => (p.members.find? fun m => m.1 == i).map fun m => m.2.2

/-- The form in which a fault reports a scratchpad location (R176). -/
def locAddr (i row word : Nat) : Nat := i * 0x100000 + row * 128 + word * 8

/-- A scratchpad word: its key and the address a fault would report. PROT where the row is not allocated. -/
def State.locCheck (s : State) (cx i row word : Nat) : Checked (Nat × Nat) :=
  let fa := locAddr i row word
  match s.crewRow cx i with
  | none => .error (.prot, fa, 0)
  | some rb =>
    if row < (s.ctx cx).rows then .ok (locKey (coreAt cx i) (rb + row) (word * 8), fa) else .error (.prot, fa, 0)

/-- ROW of b register n. -/
def State.bRow (s : State) (n : Nat) : Nat := (FMap.getD s.cur.st.b n 0).toNat % 8192
/-- The number of the b register that field A names. -/
def srcNum : Src → Nat
  | .reg n => n.toNat
  | .latch n => n.toNat
/-- The second register of a pair (R119). -/
def srcNext : Src → Src
  | .reg n => .reg (n + 1)
  | .latch n => .latch n
/-- A base row plus a signed offset, modulo 8,192. -/
def rowPlus (base : Nat) (off : Int) : Nat := narrow 13 ((base : Int) + off)

/-! ## DEVICE locations (R164 to R166) -/

/-- A DEVICE location that passed its checks: the run, and its physical address unless the page is absent (R172). -/
structure DevAt where
  idx : Nat
  run : Run
  va : Nat
  pa : Option Nat
deriving DecidableEq, Repr

/-- The first run, in table order, that holds an address (R299). -/
def findRun (runs : List Run) (va : Nat) : Option (Nat × Run) :=
  (runs.zipIdx.find? fun p => decide (p.1.va ≤ va) && decide (va < p.1.va + p.1.size)).map fun p => (p.2, p.1)

/-- The size of the leaf of a run that holds an address. -/
def Run.pageAt (r : Run) (va : Nat) : Nat :=
  ((r.pages.filter fun p => decide (p.1 ≤ va)).getLast?.map (·.2)).getD r.page

/-- The watch register meets a range (R92). -/
def Ctl.watches (c : Ctl) (rd wr : Bool) (va n : Nat) : Bool :=
  let w := c.watch
  let g := (w.toNat / 8) * 8
  ((rd && w.getLsbD 2) || (wr && w.getLsbD 1)) && decide (va < g + 8) && decide (g < va + n)

/-- log2 of an access size as R329 codes it. -/
def sizeCode (n : Nat) : Nat := Nat.log2 n

/-- The recorded store or probe of another strand that an access of `n` bytes overlaps with another size or alignment (R329). A part of
a KV vector has size 128, and covers the bytes of it that belong to the vector (R171). -/
def State.mixHit (s : State) (strand pa n : Nat) (size : Nat := n) : Option MixRecord :=
  s.mix.find? fun r => r.strand != strand && decide (s.clock.toNat < r.tick + 4096) &&
    decide (pa < r.addr + r.len) && decide (r.addr < pa + n) && !(r.addr == pa && r.size == size)

/-- The identity of a strand: its task and member, or its context where it has no task. -/
def State.strandId (s : State) (cx : Nat) : Nat :=
  match (s.ctx cx).task with
  | none => cx
  | some t => t * 8 + (s.ctx cx).st.ctl.member.toNat

/-- MIXTRAP of the context's job (Table 13-1). -/
def State.mixtrap (s : State) (cx : Nat) : Bool :=
  match s.taskOf cx with
  | none => false
  | some t => bit (t.jw 0) 59

/-- A strand store recorded at its home (R329); records older than 4,096 ticks are dropped. -/
def State.mixRecord (s : State) (cx pa n : Nat) (probe : Bool) (size : Nat := n) : State :=
  { s with mix := (s.mix.filter fun r => decide (s.clock.toNat < r.tick + 4096)) ++
      [{ strand := s.strandId cx, addr := pa, size := size, len := n, tick := s.clock.toNat, probe := probe }] }

/-- A probe of a job that traps mixed sizes, kept at its home (R329). -/
def State.mixProbe (s : State) (cx pa n : Nat) (size : Nat := n) : State :=
  if s.mixtrap cx then s.mixRecord cx pa n true size else s

/-- The checks of R166 that do not depend on a decoded format: steps 2 to 4 and 6, 7 for `n` bytes at the aligned address, the
address presented being `shown`, which a fault reports (R92, R329). `fe` is a full/empty form. An access of an engine is not
watched (`watch`), and one of an engine or of a bundle that commits after a hold is not checked against records of sizes (`mix`,
R329). -/
def State.devCheckWith (s : State) (watch mix : Bool) (cx : Nat) (shown : Int) (n : Nat) (rd wr fe : Bool) : Checked DevAt :=
  let fa := narrow 64 shown
  if shown < 0 then .error (.extentMiss, fa, 0)
  else
    let va := shown.toNat / n * n
    match findRun (s.ctx cx).runs va with
    | none => .error (.extentMiss, fa, 0)
    | some (i, r) =>
      let pa := r.pa + (va - r.va)
      if r.resident ∧ (r.isSealed ∨ s.sealTag pa ≠ 0) then .error (.sealed, fa, 0)
      else if r.resident ∧ r.co then .error (.computeOnly, fa, 0)
      else if (rd ∧ ¬r.r) ∨ (wr ∧ ¬r.w) ∨ (fe ∧ r.resident ∧ ¬r.fe) then .error (.prot, fa, 0)
      else if watch && (s.ctx cx).st.ctl.watches rd wr va n then .error (.watch, fa, 0)
      else if r.resident then
        match (if mix && s.mixtrap cx then s.mixHit (s.strandId cx) pa n else none) with
        | some m => .error (.mixsize, fa, sizeCode m.size * 16 + sizeCode n)
        | none => .ok { idx := i, run := r, va := va, pa := some pa }
      else .ok { idx := i, run := r, va := va, pa := none }

/-- The checks of a strand access. -/
def State.devCheck (s : State) (cx : Nat) (shown : Int) (n : Nat) (rd wr fe : Bool) : Checked DevAt :=
  s.devCheckWith true s.iss.committed.isNone cx shown n rd wr fe

/-- A run's drop count raised by one, saturating (R172). -/
def State.dropRun (s : State) (cx i : Nat) : State :=
  s.updCtx cx fun c => { c with runs := c.runs.modify i fun r => { r with drops := min 65535 (r.drops + 1) } }

/-! ## Results (R195, R201, R270, R271) -/

/-- An interlocked scalar result that lands at a tick, with a fresh residue. -/
def State.pendG (s : State) (d : Dst) (v : Word) (tick : Nat) : State :=
  let (id, s) := s.newId
  s.updSt fun st => { st with pend := st.pend ++
    [{ id := id, reg := if d.latchOnly then none else some (.g d.n.toNat), latch := some (d.n.toNat % 16),
       kind := .value (v.setWidth 1024) (resid v.toNat).toNat tick }] }
/-- An interlocked vector result that lands at a tick. -/
def State.pendV (s : State) (d : Dst) (v : VVal) (tick : Nat) : State :=
  let (id, s) := s.newId
  s.updSt fun st => { st with pend := st.pend ++
    [{ id := id, reg := if d.latchOnly then none else some (.v d.n.toNat), latch := some (d.n.toNat % 16),
       kind := .value v.val v.res.toNat tick, vec := true }] }
/-- The tick at which an interlocked access that is issued now lands. -/
def State.landing (s : State) (delay : Nat → Nat) : Nat × State :=
  let (f, s) := s.drawFree
  (s.clock.toNat + 1 + delay f, s)

/-- The promise of a load through a run, in context cycles; none is interlocked (Table 11-2, R270, R271). -/
def promiseOf (core : Nat) (r : Run) (pa : Nat) : Option Nat :=
  match r.lclass with
  | 1 => some 40
  | 2 => some 120
  | 3 => if bankOf core ≤ pa ∧ pa < bankOf core + bankSize then some 20 else none
  | _ => none

/-- A promised result: readable after `p` context cycles, its data landing at a tick that is not fixed. -/
def State.promised (s : State) (op : FlightOp) (latch : Nat × Latch) (p : Nat) : State :=
  let (f, s) := s.drawFree
  s.updSt fun st => { st with flight := st.flight ++
    [{ op := op, latch := some latch, left := p, lands := some (s.clock.toNat + Config.promiseDelay f), ord := s.nextId }] }

/-- A DEVICE load's scalar result by the class of its page. -/
def State.devG (s : State) (d : Dst) (a : DevAt) (v : Word) : State :=
  match a.pa.bind (promiseOf (coreOf s.iss.cx) a.run) with
  | some p => s.promised (if d.latchOnly then .latchOnly else .g d.n.toNat (fresh v)) (d.n.toNat % 16, latchG (fresh v)) p
  | none =>
    let (t, s) := s.landing Config.accessDelay
    s.pendG d v t
/-- A DEVICE load's vector result by the class of its page. -/
def State.devV (s : State) (d : Dst) (a : DevAt) (v : VVal) : State :=
  match a.pa.bind (promiseOf (coreOf s.iss.cx) a.run) with
  | some p => s.promised (if d.latchOnly then .latchOnly else .v d.n.toNat v) (d.n.toNat % 16, latchV v) p
  | none =>
    let (t, s) := s.landing Config.accessDelay
    s.pendV d v t

/-- How the access of a result that enters the pipelines between two states is issued again, should power fail before it lands
(R358). -/
def State.noteAgain (s0 s1 : State) (places : List (Place × Nat)) (how : Nat) (atom : Option (AtomOp × Nat × Nat) := none)
    (dec : Option (Option Ty × Ty) := none) : State :=
  let a : Again := { places := places, how := how, atom := atom, dec := dec }
  let p0 := s0.cur.st.pend.length
  let f0 := s0.cur.st.flight.length
  s1.updSt fun st =>
    if p0 < st.pend.length then { st with pend := st.pend.modifyLast fun p => { p with again := some a } }
    else if f0 < st.flight.length then
      { st with flight := st.flight.modifyLast fun e => if e.lands.isSome then { e with again := some a } else e }
    else st

/-- An interlocked zero that lands two cycles of the core after its issue (R4, R271). -/
def State.pendZero (s : State) (d : Dst) (vec : Bool) : State :=
  let (id, s) := s.newId
  s.updSt fun st => { st with pend := st.pend ++
    [{ id := id, reg := if d.latchOnly then none else some (if vec then .v d.n.toNat else .g d.n.toNat),
       latch := some (d.n.toNat % 16), kind := .cycles 0 0 2, vec := vec }] }
/-- A scalar load of a page that is absent, or of an uncorrectable word: zero two cycles later, and RES (R172, R271). -/
def State.zeroG (s : State) (d : Dst) : State := (s.pendZero d false).hw .resFlag
/-- A vector load of the same: zero, and the low `n` bits of k15. -/
def State.zeroV (s : State) (d : Dst) (n : Nat) : State := (s.pendZero d true).hw (.k15 n)

/-! ## Performing DEVICE accesses -/

/-- The bytes of a load, or none where they meet an uncorrectable error or are lost between dies (R392, R395). -/
def State.devRead (s : State) (cx pa n : Nat) : Option (List Byte) × State :=
  let s := s.mixProbe cx pa n
  if s.unreadable (dieOf cx) pa n then (none, s.readMet (dieOf cx) pa n (s.slotOf cx))
  else (some (s.peek pa n), s.count cx .device n)

/-- A strand store performed at its home (R318, R329); one that is lost between dies is discarded (R392, R395). -/
def State.devWrite (s : State) (cx pa : Nat) (bs : List Byte) : State :=
  if s.severed (dieOf cx) pa then s.eccAt [pa] pa (s.slotOf cx)
  else (((s.mixProbe cx pa bs.length).poke (s.slotOf cx) pa bs).mixRecord cx pa bs.length false).count cx .device (s.wrote pa bs.length)

/-- The uncorrectable errors of a scratchpad range met. -/
def State.locMet (s : State) (cx k n : Nat) : State := s.storeEcc cx (k / 0x100000) (s.locBadIn k n)
/-- A scratchpad read of a strand, counted for its space (R405). -/
def State.locRead (s : State) (cx k n : Nat) (c : Counter) : Option (List Byte) × State :=
  if s.locSpoiled k n then (none, s.locMet cx k n) else (some (s.locBytes k n), s.count cx c n)
/-- Bytes stored to a scratchpad for a context; the errors met in words that they do not cover are counted (R392). -/
def State.locPut (s : State) (cx k : Nat) (bs : List Byte) : State :=
  (s.storeEcc cx (k / 0x100000) (partBad s.locBad k bs.length).length).locStore k bs
/-- A scratchpad store of a strand. -/
def State.locWrite (s : State) (cx k : Nat) (bs : List Byte) (c : Counter) : State :=
  (s.locPut cx k bs).count cx c (s.locWrote k bs.length)

/-! ## Atomics (Table 07-9) -/

/-- The new value of an atomic over N bits; none where `cas` writes nothing. -/
def atomNew (op : AtomOp) (n old c e : Nat) : Option Nat :=
  match op with
  | .add => some ((old + c) % 2 ^ n)
  | .and => some (old &&& c)
  | .or => some (old ||| c)
  | .xor => some (old ^^^ c)
  | .mins => some (if sextN n old ≤ sextN n c then old else c)
  | .minz => some (min old c)
  | .maxs => some (if sextN n old ≤ sextN n c then c else old)
  | .maxz => some (max old c)
  | .swap => some c
  | .cas => if old = e then some c else none

/-- The value an atomic returns (R179). -/
def atomResult (op : AtomOp) (n old : Nat) : Word :=
  match op with
  | .mins | .maxs => BitVec.ofNat 64 (narrow 64 (sextN n old))
  | _ => BitVec.ofNat 64 old

/-! ## Remote accesses (R180, R323, R325, R395) -/

/-- A failed remote access counted (R180). -/
def State.remFail (s : State) (cx : Nat) : State := s.count cx .remfail 1

/-- The address space in which a destination translates the job's PEER accesses. -/
def State.pasnOf (s : State) (cx : Nat) : Nat :=
  match s.taskOf cx with
  | none => 0
  | some t => bits (t.jw 0) 31 16

/-- The tag of the next writing request of a die to a module (R325). -/
def State.nextTag (s : State) (die mod : Nat) : Tag × State :=
  let k := die * 512 + mod
  let q := FMap.getD s.seqs k 0
  ({ mod := s.boot.modid.toNat, die := die, seq := q, dest := mod }, { s with seqs := FMap.put s.seqs k ((q + 1) % 2 ^ 21) })

/-- Some scale-up port carries traffic (R396). -/
def State.reachable (s : State) : Bool := (List.range 9).any fun p => (FMap.getD s.ports p {}).rate != 3

/-- A scale-up port that is up and does not retrain (R396). -/
def State.carries (s : State) (p : Nat) : Bool := let x := FMap.getD s.ports p {}; x.rate != 3 && x.retrain.isNone
/-- The port that a transmission takes: any that carries traffic (R395; assumption 7). -/
def State.sendPort (s : State) (f : Nat) : Nat :=
  let up := (List.range 9).filter s.carries
  up.getD (Config.choice f % up.length) (Config.choice f % 9)

/-- Requests of a die to a module that are sent and not acknowledged (R325). -/
def State.unanswered (s : State) (die mod : Nat) : Nat :=
  (s.outReqs.filter fun r => r.tracked && r.mod == mod && dieOf r.cx == die && !r.waiting).length

/-- A request stays at its source: while an access that its strand issued before it, or before the command that makes it, has not ended in
that module, which keeps their order there whatever a link loses (R188, R323), and while 4,096 writes of its die to that module are
unacknowledged (R325). `before` holds the requests made earlier. -/
def State.heldBack (s : State) (before : List OutReq) (cx mod : Nat) (tracked : Bool) (cmd : Option Nat) : Bool :=
  (before.any fun r => r.cx == cx && r.mod == mod && r.cmd.isNone && (cmd.map fun c => decide (r.id < c)).getD true) ||
  (tracked && decide (4096 ≤ s.unanswered (dieOf cx) mod))

/-- A PEER request made (R323, R325), and sent where nothing holds it back. A load carries no tag of the filter; its own identity
stands in `seq` above 2^21. -/
def State.sendPeer (s : State) (cx mod : Nat) (op : ShardOp) (tracked : Bool) (pend cmd : Option Nat) : Nat × State :=
  let (id, s) := s.newId
  let (f, s) := s.drawFree
  let (tag, s) :=
    if tracked then s.nextTag (dieOf cx) mod
    else ({ mod := s.boot.modid.toNat, die := dieOf cx, seq := 2 ^ 21 + id, dest := mod }, s)
  (id, { s with outReqs := s.outReqs ++
    [{ tag := tag, mod := mod, op := op, sent := s.clock.toNat, tries := 0, cx := cx, pend := pend, cmd := cmd,
       port := s.sendPort f, tracked := tracked, id := id, waiting := s.heldBack s.outReqs cx mod tracked cmd }] })

/-- Requests that were held back, in the order in which they were made, each sent once nothing holds it back. -/
def State.sendHeld (s : State) : State :=
  (List.range s.outReqs.length).foldl (fun s i =>
    match s.outReqs[i]? with
    | none => s
    | some r =>
      if !r.waiting || s.heldBack (s.outReqs.take i) r.cx r.mod r.tracked r.cmd then s
      else
        let (f, s) := s.drawFree
        let p := s.sendPort f
        { s with outReqs := s.outReqs.modify i fun q => { q with waiting := false, sent := s.clock.toNat, port := p } }) s

/-- The first function of a port that is bound to a job, in the order of R14: the PF, then VF 0 to VF 63. A function is
numbered 0 for the PF and n + 1 for VF n. -/
def State.jobFn (s : State) (port job : Nat) : Option Nat :=
  let pf := FMap.getD s.fns (port * 65) {}
  if (List.range 4).any fun h => ((FMap.getD pf.heads h {}).job.toNat == job) then some 0
  else (List.range 64).find? (fun n =>
    let v := (FMap.getD s.funcJob (port * 64 + n) 0xFFF).toNat
    bit v 31 && v % 4096 == job) |>.map (· + 1)

/-- The job of a context. -/
def State.jobOf (s : State) (cx : Nat) : Nat := (s.ctx cx).st.ctl.job.toNat

end Sys2Proof.Machine
end

