-- ==== Sys2Proof/Machine/Crypto.lean ====
section
/-!
DEFINITION. Crypto: the published functions that the spec names: AES-256 (FIPS 197) under XTS (IEEE 1619) for sealed
pages (R398), Keccak with SHAKE256 and SHA3-512 (FIPS 202; R256, R402, R403), and CRC-32C (R394).
-/
namespace Sys2Proof.Machine

/-! ## AES-256 -/

/-- Multiplication by x in GF(2^8) modulo x^8 + x^4 + x^3 + x + 1. -/
def aesX (a : Nat) : Nat := if 128 ≤ a then (2 * a) % 256 ^^^ 0x1B else 2 * a

/-- Multiplication in GF(2^8); the fuel is the number of bits of `b` taken. -/
def aesMul (a b : Nat) : Nat → Nat
  | 0 => 0
  | n + 1 => (if b % 2 = 1 then a else 0) ^^^ aesMul (aesX a) (b / 2) n

/-- a^(2^n - 2) in GF(2^8) for n = 8: the inverse, with 0 for 0. -/
def aesInv (a : Nat) : Nat :=
  (List.range 7).foldl (fun p _ => let q := aesMul p p 8; aesMul q a 8) 1 |> fun p => aesMul p p 8

/-- The S-box of FIPS 197. -/
def aesSub (a : Nat) : Nat :=
  let b := aesInv a
  let rot (n : Nat) : Nat := (b * 2 ^ n) % 256 ||| b / 2 ^ (8 - n)
  b ^^^ rot 1 ^^^ rot 2 ^^^ rot 3 ^^^ rot 4 ^^^ 0x63

def aesBox : List Nat := (List.range 256).map aesSub
/-- The inverse S-box: the index at which a value stands. -/
def aesUnbox : List Nat := (List.range 256).map fun v => aesBox.idxOf v

/-- Round constants and key words: the words of a schedule from word `i`, each 4 bytes. -/
def aesExpand (ws : List (List Nat)) (i rc : Nat) : Nat → List (List Nat)
  | 0 => ws
  | n + 1 =>
    let prev := ws.getD (i - 1) []
    let t :=
      if i % 8 = 0 then
        match prev with
        | a :: r => (List.zipWith (· ^^^ ·) ((r ++ [a]).map fun b => aesBox.getD b 0) [rc, 0, 0, 0])
        | [] => []
      else if i % 8 = 4 then prev.map fun b => aesBox.getD b 0
      else prev
    aesExpand (ws ++ [List.zipWith (· ^^^ ·) (ws.getD (i - 8) []) t]) (i + 1) (if i % 8 = 0 then aesX rc else rc) n

/-- The 15 round keys of a 256-bit key, whose byte j is bits 8j+7..8j. -/
def aesKeys (k : BitVec 256) : List (List Nat) :=
  let bs := (leBytes 32 k.toNat).map (·.toNat)
  let ws := aesExpand ((List.range 8).map fun i => (bs.drop (4 * i)).take 4) 8 1 52
  (List.range 15).map fun r => ((ws.drop (4 * r)).take 4).flatten

def xorBytes (a b : List Nat) : List Nat := List.zipWith (· ^^^ ·) a b

/-- Row r of the state rotated left by r (byte 4c + r of the state is row r, column c), or right. -/
def aesShift (right : Bool) (st : List Nat) : List Nat :=
  (List.range 16).map fun i => st.getD (((i / 4 + (if right then 4 - i % 4 else i % 4)) % 4) * 4 + i % 4) 0

/-- Columns multiplied by the circulant matrix of the given first row. -/
def aesMix (m : List Nat) (st : List Nat) : List Nat :=
  (List.range 16).map fun i =>
    (List.range 4).foldl (fun acc j => acc ^^^ aesMul (st.getD (i / 4 * 4 + j) 0) (m.getD ((j + 4 - i % 4) % 4) 0) 8) 0

/-- AES-256 of one 16-byte block. -/
def aesEnc (ks : List (List Nat)) (blk : List Nat) : List Nat :=
  let st := (List.range 13).foldl (fun st r =>
    xorBytes (aesMix [2, 3, 1, 1] (aesShift false (st.map fun b => aesBox.getD b 0))) (ks.getD (r + 1) []))
    (xorBytes blk (ks.getD 0 []))
  xorBytes (aesShift false (st.map fun b => aesBox.getD b 0)) (ks.getD 14 [])

/-- Its inverse. -/
def aesDec (ks : List (List Nat)) (blk : List Nat) : List Nat :=
  let st := (List.range 13).foldl (fun st r =>
    aesMix [14, 11, 13, 9] (xorBytes ((aesShift true st).map fun b => aesUnbox.getD b 0) (ks.getD (13 - r) [])))
    (xorBytes blk (ks.getD 14 []))
  xorBytes ((aesShift true st).map fun b => aesUnbox.getD b 0) (ks.getD 0 [])

/-- The tweak of the next block of a unit: times x in GF(2^128), little-endian. -/
def xtsNext (t : Nat) : Nat := (2 * t) % 2 ^ 128 ^^^ (if 2 ^ 127 ≤ t then 0x87 else 0)

/-- XTS over the blocks of a unit, `f` being the block cipher. -/
def xtsBlocks (f : List Nat → List Nat) (t : Nat) : List (List Nat) → List Nat
  | [] => []
  | b :: r =>
    let tb := (leBytes 16 t).map (·.toNat)
    xorBytes (f (xorBytes b tb)) tb ++ xtsBlocks f (xtsNext t) r

/-- One 256-byte unit under AES-256-XTS with the pair K1, K2 and a 128-bit tweak (R398). -/
def xtsUnit (encrypt : Bool) (k1 k2 : BitVec 256) (tweak : Nat) (data : List Byte) : List Byte :=
  let ks := aesKeys k1
  let t := aesEnc (aesKeys k2) ((leBytes 16 tweak).map (·.toNat))
  let tn := t.foldr (fun b acc => b + 256 * acc) 0
  let ds := data.map (·.toNat)
  let bs := (List.range 16).map fun i => (ds.drop (16 * i)).take 16
  (xtsBlocks (if encrypt then aesEnc ks else aesDec ks) tn bs).map (BitVec.ofNat 8)

/-! ## Keccak -/

/-- The rotation of lane (x, y) by ρ, in the order 5y + x. -/
def keccakRho : List Nat :=
  [0, 1, 62, 28, 27, 36, 44, 6, 55, 20, 3, 10, 43, 25, 39, 41, 45, 15, 21, 8, 18, 2, 61, 56, 14]

/-- One bit of the round constants: the linear feedback register of FIPS 202 after `n` steps from `r`. -/
def keccakLfsr (r : Nat) : Nat → Nat
  | 0 => r
  | n + 1 => keccakLfsr (if 128 ≤ r then (2 * r) % 256 ^^^ 0x71 else 2 * r) n

/-- The round constant ι of round `i`. -/
def keccakIota (i : Nat) : Word :=
  (List.range 7).foldl (fun acc j =>
    if keccakLfsr 1 (7 * i + j) % 2 = 1 then acc ||| (1#64 <<< (2 ^ j - 1)) else acc) 0

/-- One round of Keccak-f[1600]. -/
def keccakRound (i : Nat) (a : List Word) : List Word :=
  let g (l : List Word) (n : Nat) : Word := l.getD n 0
  let c := (List.range 5).map fun x => g a x ^^^ g a (x + 5) ^^^ g a (x + 10) ^^^ g a (x + 15) ^^^ g a (x + 20)
  let d := (List.range 5).map fun x => g c ((x + 4) % 5) ^^^ (g c ((x + 1) % 5)).rotateLeft 1
  let e := (List.range 25).map fun k => (g a k ^^^ g d (k % 5)).rotateLeft (keccakRho.getD k 0)
  -- π moves lane (x, y) to (y, 2x + 3y)
  let b := (List.range 25).map fun k => g e ((k % 5 + 3 * (k / 5)) % 5 + 5 * (k % 5))
  let f := (List.range 25).map fun k =>
    g b k ^^^ (~~~(g b (k / 5 * 5 + (k % 5 + 1) % 5)) &&& g b (k / 5 * 5 + (k % 5 + 2) % 5))
  match f with
  | [] => []
  | h :: r => (h ^^^ keccakIota i) :: r

/-- Keccak-f[1600]. -/
def keccakF (a : List Word) : List Word := (List.range 24).foldl (fun a i => keccakRound i a) a

/-- A message padded to whole blocks of `rate` bytes: the domain's first bits, zeros and a last bit. -/
def spongePad (rate suffix : Nat) (msg : List Byte) : List Byte :=
  let n := rate - msg.length % rate
  msg ++ (List.range n).map fun i => BitVec.ofNat 8 ((if i = 0 then suffix else 0) + (if i + 1 = n then 0x80 else 0))

/-- The first `n` bytes, at most a block, that the sponge of a rate gives for a message (FIPS 202). -/
def sponge (rate suffix n : Nat) (msg : List Byte) : List Byte :=
  let p := spongePad rate suffix msg
  let a := (List.range (p.length / rate)).foldl (fun a b =>
    let blk := (p.drop (rate * b)).take rate
    keccakF ((List.range 25).map fun i => a.getD i 0 ^^^ BitVec.ofNat 64 (leValue ((blk.drop (8 * i)).take 8))))
    (List.replicate 25 0)
  (a.flatMap fun w => leBytes 8 w.toNat).take n

/-- SHAKE256 with up to 136 bytes of output. -/
def shake256 (n : Nat) (msg : List Byte) : List Byte := sponge 136 0x1F n msg
/-- SHA3-512. -/
def sha3 (msg : List Byte) : List Byte := sponge 72 0x06 64 msg

/-- The first 8 bytes of SHAKE256 over a message, as a little-endian word. -/
def shake256First (msg : List Byte) : Word := BitVec.ofNat 64 (leValue (shake256 8 msg))

/-! ## CRC-32C -/

/-- The register after eight more bits, reflected form of 0x1EDC6F41. -/
def crcBits (r : Nat) : Nat → Nat
  | 0 => r
  | n + 1 => crcBits (if r % 2 = 1 then r / 2 ^^^ 0x82F63B78 else r / 2) n

/-- CRC-32C of a list of bytes. -/
def crc32c (bs : List Byte) : Nat :=
  bs.foldl (fun r b => crcBits (r ^^^ b.toNat) 8) 0xFFFFFFFF ^^^ 0xFFFFFFFF

/-- A tag as a shard's header holds it (assumption 91). -/
def Tag.bytes (t : Tag) : List Byte := leBytes 2 t.mod ++ leBytes 1 t.die ++ leBytes 8 t.seq ++ leBytes 2 t.dest
/-- What a request asks, as its shard holds it: a code, the addresses and the payload (assumption 91). -/
def shardBody : ShardOp → List Byte
  | .load a n => [0] ++ leBytes 8 a ++ leBytes 2 n
  | .store a d fill => [1] ++ leBytes 8 a ++ [if fill then 1 else 0] ++ d
  | .atomic k a c e => [2] ++ leBytes 1 k.ctorIdx ++ leBytes 8 a ++ leBytes 8 c.toNat ++ leBytes 8 e.toNat
  | .reduce ty l row f cnt => [3] ++ leBytes 1 ty.ctorIdx ++ leBytes 8 l ++ leBytes 8 f ++ leBytes 2 cnt ++ row
  | .addElems ty a d => [4] ++ leBytes 1 ty.ctorIdx ++ leBytes 8 a ++ d
/-- The CRC-32C of a request's header and payload (R394). -/
def shardCrc (t : Tag) (asn : Nat) (op : ShardOp) : BitVec 32 :=
  BitVec.ofNat 32 (crc32c (Tag.bytes t ++ leBytes 2 asn ++ shardBody op))
/-- The CRC-32C of an answer, a negative one having no code (R394). -/
def answerCrc (t : Tag) (code : Option Byte) (v : BitVec 1024) : BitVec 32 :=
  BitVec.ofNat 32 (crc32c (Tag.bytes t ++ (match code with
    | some c => [1, c]
    | none => [0, 0]) ++ leBytes 128 v.toNat))

end Sys2Proof.Machine
end

