-- ==== Sys2Proof/Machine/Lattice.lean ====
section
/-!
DEFINITION. Lattice: the M-slot instructions of chapter 09 (R222 to R235) but for `mdrain.cp`, and what an entry of the
in-flight table does at its readable cycle (R267).
-/
namespace Sys2Proof.Machine

/-! ## Formats (R222 to R224) -/

/-- The tag that a push of a type sets (Table 09-1). -/
def tagOf : Ty → BufTag
  | .s4 => .s4 | .z4 => .z4 | .e2 => .e2 | .s8 => .s8 | .z8 => .z8 | .e4 => .e4 | .e5 => .e5 | .hf => .hf | .bf => .bf
  | _ => .none

/-- The tag that a weight page's format sets; none where `mpush.w` refuses it (R228). -/
def tagOfEfmt (e : Nat) : Option BufTag :=
  match efmtOf e with
  | .k4o => some .k4o
  | .ty t => if tagOf t = .none then none else some (tagOf t)
  | _ => none

/-- Element width of a tagged buffer. -/
def BufTag.width : BufTag → Nat
  | .none | .s4 | .z4 | .e2 | .k4o => 4
  | .s8 | .z8 | .e4 | .e5 => 8
  | .hf | .bf => 16
/-- Rows of a tagged buffer (R222). -/
def BufTag.depth (t : BufTag) : Nat := 512 / t.width
/-- Rows that one `mpush.w` beat pushes (R228). -/
def BufTag.beatRows (t : BufTag) : Nat := if t.width = 16 then 2 else 4
/-- The type of a buffer's elements; K4O elements have none of their own. -/
def BufTag.elem : BufTag → Ty
  | .s4 => .s4 | .z4 => .z4 | .s8 => .s8 | .z8 => .z8 | .e4 => .e4 | .e5 => .e5 | .hf => .hf | .bf => .bf | _ => .e2
/-- The accumulator is read as INT32 (Table 09-1). -/
def BufTag.isInt : BufTag → Bool
  | .s4 | .z4 | .s8 | .z8 => true
  | _ => false
/-- A `macc` type agrees with a tag (Table 09-1). -/
def BufTag.agrees (g : BufTag) (t : Ty) : Bool :=
  match g with
  | .none => false
  | .s4 | .z4 => t == .s4 || t == .z4
  | .e2 | .k4o => t == .e2
  | .s8 | .z8 => t == .s8 || t == .z8
  | .e4 | .e5 => t == .e4 || t == .e5
  | .hf | .bf => t == .hf || t == .bf

/-- The 64 element values of a buffer row, with integers as whole numbers. -/
def Buffer.rowVals (b : Buffer) (k : Nat) : List XNum :=
  let x := (FMap.getD b.rows k 0).toNat
  if b.tag = .k4o then (k4oValues (x % 2 ^ 32) (x / 2 ^ 32 % 2 ^ 256)).1
  else (List.range 64).map fun j => (valueOf b.tag.elem (laneN b.tag.width x j)).1

/-- Rows pushed into a buffer; a new format clears it first (R223, R225). -/
def Buffer.push (b : Buffer) (rows : List (Nat × BitVec 1024)) (tag : Option BufTag) (isSealed : Bool)
    (src : Option (Nat × Nat)) : Buffer :=
  match tag with
  | none =>
    if b.tag = .none then b
    else
      { b with
        rows := rows.foldl (fun m r => if r.1 < b.tag.depth then FMap.put m r.1 0 else m) b.rows
        mixed := true, bad := b.bad.filter fun w => !(rows.any fun r => r.1 == w / 16) }
  | some t =>
    let b := if b.tag = t then b else { tag := t }
    { b with
      rows := rows.foldl (fun m r => FMap.put m r.1 r.2) b.rows
      sealed := b.sealed || isSealed
      fills := b.fills ++ src.toList
      mixed := b.mixed || src.isNone, bad := b.bad.filter fun w => !(rows.any fun r => r.1 == w / 16) }

/-- A buffer as a beat reads it: a word that holds an uncorrectable error is a free value (assumption 88). -/
def Buffer.read (b : Buffer) (f : Nat) : Buffer :=
  { b with rows := b.bad.foldl (fun m w =>
      let x := (FMap.getD m (w / 16) 0).toNat
      FMap.put m (w / 16) (BitVec.ofNat 1024
        (setField x (64 * (w % 16)) 64 (Config.badWord (f * 2 ^ 16 + w)).toNat))) b.rows }

/-! ## Scratchpad operands (R226) -/

/-- The scratchpad row that a pair names for a ROW. -/
def spRow (lo hi : Word) (row : Nat) : Nat :=
  (bits lo.toNat 12 0 + row * bits lo.toNat 28 16 + bits hi.toNat 28 16 * bits hi.toNat 12 0) % 8192

/-- The operand's bytes: `n` bytes of a row's 128 from its half and bank rotation. -/
def spBytes (row : List Byte) (hi : Word) (half : Bool) (n : Nat) : List Byte :=
  (List.range n).map fun j => row.getD (((if half then 64 else 0) + j + bits hi.toNat 33 32 * 32) % 128) 0

/-- The pair of an M slot, residue-checked: the registers, or a template's copy (R250). -/
def State.spPair (s : State) (a : Src) (f : Word → Word → State → State) : State :=
  if s.iss.template then
    let p := (s.core (coreOf s.iss.cx)).lns.pair
    f (BitVec.ofNat 64 p.1) (BitVec.ofNat 64 p.2) s
  else s.chkG 3 (s.rdG a) fun s => s.chkG 3 (s.rdG (srcNext a)) fun s => f (s.rdG a).val (s.rdG (srcNext a)).val s

/-- The bytes of a row of the own scratchpad; a row in error reads as zero (Table 19-3). -/
def State.rowBytes (s : State) (k : Nat) : List Byte × State :=
  if s.locSpoiled k 128 then
    (List.replicate 128 0, s.locMet s.iss.cx k 128)
  else (s.locBytes k 128, s)

/-- A scratchpad operand of `n` bytes. -/
def State.spOperand (s : State) (a : Src) (row : Nat) (half : Bool) (n : Nat) (f : List Byte → State → State) : State :=
  s.spPair a fun lo hi s =>
    s.checked 3 (s.locCheck s.iss.cx (coreIdx s.iss.cx) (spRow lo hi row) 0) fun (k, _) =>
      let (bs, s) := s.rowBytes k
      f (spBytes bs hi half n) s

/-! ## Pushing and swapping (R227 to R229) -/

/-- One row pushed, to be in the shadow buffer a cycle later. -/
def State.pushRow (s : State) (t : Ty) (row : Nat) (bs : List Byte) : State :=
  s.flightPut (.push [(row, vecOfBytes bs)] (some (tagOf t)) false none) none 1

/-- Bytes of a row of a format. -/
def rowSize (t : Ty) : Nat := 8 * t.width

def execMpushV (o : OpMP) (s : State) : Out :=
  guarded o.p (fun s =>
    let bs := bytesOfVec (s.rdV o.a).val
    s.pushRow o.ty o.row.toNat ((bs.drop (if o.half then 64 else 0)).take (rowSize o.ty))) s
def execMpushSp (o : OpMP) (s : State) : Out :=
  guarded o.p (fun s => s.spOperand o.a o.row.toNat o.half (rowSize o.ty) fun bs s => s.pushRow o.ty o.row.toNat bs) s

/-- The key slot of a seal tag serves the ASN (R400). -/
def State.keyFor (s : State) (tag asn : Nat) : Option KeySlot :=
  match FMap.find s.keys tag with
  | none => none
  | some k => if k.loaded && k.asn.toNat == asn then some k else none

/-- The plain bytes of one 256-byte unit of MRAM; a sealed one is decrypted under the key of its own page (R398, R400). -/
def State.weightUnit (s : State) (unit asn : Nat) : List Byte :=
  let bs := s.peek (unit * 256) 256
  match s.keyFor (s.sealTag (unit * 256)) asn with
  | none => bs
  | some k => if s.sealTag (unit * 256) = 0 then bs else xtsUnit false k.k1 k.k2 unit bs

/-- `n` plain bytes of MRAM from a physical address. -/
def State.weightBytes (s : State) (pa n asn : Nat) : List Byte :=
  let us := (List.range ((pa + n + 255) / 256 - pa / 256)).flatMap fun i => s.weightUnit (pa / 256 + i) asn
  (us.drop (pa % 256)).take n

/-- The 4 KiB pages of pieces that lie at offsets from a physical address. -/
def pagesOf (base : Nat) (ps : List (Nat × Nat)) : List Nat :=
  (ps.flatMap fun p => [(base + p.1) / 4096, (base + p.1 + p.2 - 1) / 4096]).dedup

/-- The pages of a source let `mpush.w` read them: each is sealed as its leaf says, and a sealed one's slot holds a key for the ASN
(R397, R400). -/
def State.sealsOk (s : State) (asn : Nat) (isSealed : Bool) (pages : List Nat) : Bool :=
  pages.all fun g =>
    let t := s.sealTag (g * 4096)
    (decide (t ≠ 0) == isSealed) && (t == 0 || (s.keyFor t asn).isSome)

/-- Where the rows of a beat lie in their page: for each row, the pieces (offset, length) that make it up; none is a
format fault or a source that passes the page's end (R228, R50). -/
def weightRows (tag : BufTag) (bgeo page off : Nat) : Option (Nat × List (List (Nat × Nat))) :=
  if tag = .k4o then
    match k4oBlock bgeo page off with
    | none => none
    | some (j, _, _) =>
      if j + 4 ≤ k4oCount page then
        some (off, (List.range 4).map fun i =>
          if bgeo = 0 then [(36 * (j + i), 36)]
          else [(page - 4 * k4oCount page + 4 * (j + i), 4), (32 * (j + i), 32)])
      else none
  else
    let n := 8 * tag.width * tag.beatRows
    let start := if tag.width = 4 then off / 32 * 32 else if tag.width = 8 then off / 64 * 64 else off / 256 * 256
    if start + n ≤ page then
      some (start, (List.range tag.beatRows).map fun i => [(start + i * (8 * tag.width), 8 * tag.width)])
    else none

/-- An `mpush.w` in flight: entries that `mpush` and `mswap` wait for (R227, R229). -/
def Flight.isWeight (e : Flight) : Bool :=
  match e.op with
  | .push _ _ _ _ => e.lands.isSome
  | _ => false

/-- Rows that `mpush.w` has read, landing under the promise of LC3 (Table 09-3), or rows of zeros that land after cycles of the core
(R228, R271); an entry lands after those before it. -/
def State.pushWeights (s : State) (op : FlightOp) (l : Nat) (promised : Bool) : State :=
  let (f, s) := s.drawFree
  let lands := if promised then s.clock.toNat + Config.promiseDelay f else s.clock.toNat
  s.updSt fun st =>
    let l := (st.flight.filter Flight.isWeight).foldl (fun l e => max l e.left) l
    { st with flight := st.flight ++ [{ op := op, left := l, coreCount := s.iss.template || !promised, lands := some lands }] }

/-- The rows of a beat as they are read, one in error being zero (Table 19-3), and the FMT flag. -/
def State.readRows (s : State) (cx : Nat) (tag : BufTag) (pagePa row : Nat) (ps : List (List (Nat × Nat))) : List (Nat × BitVec 1024) × MFlags × State :=
  ps.zipIdx.foldl (fun acc p =>
    let (rs, f, s) := acc
    if p.1.any fun q => s.unreadable (dieOf cx) (pagePa + q.1) q.2 then
      (rs ++ [(row + p.2, 0)], f, p.1.foldl (fun s q => s.readMet (dieOf cx) (pagePa + q.1) q.2 (s.slotOf cx)) s)
    else
      let x := vecOfBytes (p.1.flatMap fun q => s.weightBytes (pagePa + q.1) q.2 (s.asnOf cx))
      let late := tag == .k4o && (k4oValues (x.toNat % 2 ^ 32) (x.toNat / 2 ^ 32 % 2 ^ 256)).2
      (rs ++ [(row + p.2, x)], f ||| (if late then fFMT else 0), s)) ([], 0, s)

/-- `mpush.w` through a resident run: the checks of R228 and R400, then the push. -/
def State.pushPage (s : State) (r : Run) (va row : Nat) : State :=
  let cx := s.iss.cx
  let size := r.pageAt va
  let page := va / size * size
  let pagePa := r.pa + page - r.va
  let pa := pagePa + va % size
  let bank := bankOf (coreOf cx)
  match tagOfEfmt r.efmt, bank ≤ pa ∧ pa < bank + bankSize with
  | some tag, _ =>
    match weightRows tag r.bgeo size (va % size) with
    | none => s.raise 3 .prot va 0
    | some (start, ps) =>
      if ¬(bank ≤ pa ∧ pa < bank + bankSize) ∨ row % tag.beatRows ≠ 0 ∨ tag.depth < row + tag.beatRows then
        s.raise 3 .prot va 0
      else if ps.any fun q => q.any fun p => (s.ctx cx).st.ctl.watches true false (page + p.1) p.2 then
        s.raise 3 .watch va 0
      else if !s.sealsOk (s.asnOf cx) r.isSealed (pagesOf pagePa ps.flatten) then s.raise 3 .sealed va 0
      else
        let (rows, f, s) := s.readRows cx tag pagePa row ps
        (s.pushWeights (.push rows (some tag) r.isSealed (some (page + start, row))) 20 true).flag f
  | none, _ => s.raise 3 .prot va 0

def execMpushW (o : OpMP) (s : State) : Out :=
  guarded o.p (fun s => s.chkG 3 (s.rdG o.a) fun s =>
    let va := (s.rdG o.a).val.toNat
    match findRun s.cur.runs va with
    | none => s.raise 3 .extentMiss va 0
    | some (i, r) =>
      if !r.r then s.raise 3 .prot va 0
      else if r.resident then s.pushPage r va o.row.toNat
      else if s.cur.st.ctl.watches true false va 1 then s.raise 3 .watch va 0
      else
        let n := s.cur.st.shadow.tag.beatRows
        let s := s.pushWeights (.push ((List.range n).map fun k => (o.row.toNat + k, 0)) none false none) 2 false
        (s.hw .resFlag).dropRun s.iss.cx i) s

def execMswap (o : OpN) (s : State) : Out :=
  guarded o.p (fun s => s.updSt fun st => { st with active := st.shadow, shadow := st.active }) s
def execMnop (o : OpN) (s : State) : Out := guarded o.p (fun s => s) s

/-! ## Accumulating and draining (R230 to R232) -/

/-- The exact sums of a beat, one for each column, and whether NV arises (R70, R71). -/
def beat (b : Buffer) (ty : Ty) (a : Nat) : List XNum × Bool :=
  let as := (List.range ty.depth).map fun k => (valueOf ty (laneN ty.width a k)).1
  let rows := (List.range ty.depth).map b.rowVals
  let cols := (List.range 64).map fun j =>
    beatSum (List.zipWith (fun x r => x.mul (r.getD j (.fin 0 0))) as rows)
  (cols.map (·.1), cols.any (·.2))

/-- The active buffer as a beat of `n` rows reads it; its words in error are counted (R392). -/
def State.readBuffer (s : State) (n : Nat) : Buffer × State :=
  let b := s.cur.st.active
  let bad := (b.bad.filter fun w => decide (w / 16 < n)).length
  if bad = 0 then (b, s)
  else
    let (f, s) := s.drawFree
    (b.read f, s.storeEcc s.iss.cx (coreOf s.iss.cx) bad)

/-- A beat with its 64-byte A operand. -/
def State.maccBeat (s : State) (o : OpMA) (a : List Byte) : State :=
  let b := s.cur.st.active
  if b.tag = .none then s.count s.iss.cx .beats 1
  else if !b.tag.agrees o.ty then s.raise 3 .prot 0 0
  else
    let (b, s) := (s.count s.iss.cx .beats 1).readBuffer o.ty.depth
    let (sums, nv) := beat b o.ty (leValue a)
    s.flightPut (.macc o.t.toNat o.row.toNat (!b.tag.isInt) sums nv) none 4

def execMaccV (o : OpMA) (s : State) : Out :=
  guarded o.p (fun s => s.maccBeat o (((bytesOfVec (s.rdV o.a).val).drop (if o.half then 64 else 0)).take 64)) s
def execMaccSp (o : OpMA) (s : State) : Out :=
  guarded o.p (fun s => s.spOperand o.a o.row.toNat o.half 64 fun bs s => s.maccBeat o bs) s
def execMshift (o : OpMT) (s : State) : Out := guarded o.p (fun s => s.flightPut (.mshift o.t.toNat) none 4) s
def execMzero (o : OpMT) (s : State) : Out := guarded o.p (fun s => s.flightPut (.mzero o.t.toNat) none 4) s

/-- Key of element (i, j) of a tile. -/
def accKey (tile i j : Nat) : Nat := tile * 4096 + i * 64 + j

/-- `mdrain` (R232). An element whose word holds an uncorrectable error reads as zero (Table 19-3). -/
def execMdrain (o : OpMD) (s : State) : Out :=
  guarded o.p (fun s =>
    let first := accKey o.t.toNat o.row.toNat (if o.half then 32 else 0)
    let st := s.cur.st
    let x := ofLanes 32 ((List.range 32).map fun j =>
      if inSet st.accBad ((first + j) / 2) then 0 else (FMap.getD st.acc (first + j) 0).toNat)
    let bad := ((List.range 16).filter fun i => inSet st.accBad (first / 2 + i)).length
    (s.storeEcc s.iss.cx (coreOf s.iss.cx) bad).wrV o.d 3 { val := BitVec.ofNat 1024 x, res := laneResid x }) s

/-! ## Known-answer beats (R234) -/

/-- The checksum that the lattice returns for a pattern. -/
def katSum (p : Nat) : Nat :=
  let a := (List.range 64).map fun k => sextN 8 (p + 3 * k)
  let col (j : Nat) : Int := (a.zipIdx.map fun e => e.1 * sextN 8 (5 * p + e.2 + 7 * j)).foldl (· + ·) 0
  narrow 64 (((List.range 64).map fun (j : Nat) => ((j + 1 : Nat) : Int) * col j).foldl (· + ·) 0)

def execMkat (o : OpMK) (s : State) : Out :=
  guarded o.p (fun s =>
    let chk := katSum o.pat.toNat
    (s.flightPut (.mkat (BitVec.ofNat 64 chk) (chk != (s.rdG o.a).val.toNat)) none 6).count s.iss.cx .beats 1) s

/-! ## Readable cycles (R267, R359) -/

/-- A tile's elements changed by an update in flight, with the flags it sets. -/
def tileUpdate (acc : FMap (BitVec 32)) (op : FlightOp) : FMap (BitVec 32) × MFlags :=
  match op with
  | .macc tile row fp sums nv =>
    sums.zipIdx.foldl (fun st p =>
      let k := accKey tile row p.2
      let old := (FMap.getD st.1 k 0).toNat
      let (x, f) : Nat × MFlags :=
        if fp then accF old p.1
        else match p.1 with
          | .fin m e => accI old (m * ((2 ^ e.toNat : Nat) : Int))
          | _ => (old, 0)
      (FMap.put st.1 k (BitVec.ofNat 32 x), st.2 ||| f)) (acc, if nv then fNV else 0)
  | .mshift tile =>
    (acc.filterMap fun e =>
      if e.1 / 4096 != tile then some e else if e.1 % 4096 < 64 then none else some (e.1 - 64, e.2), 0)
  | .mzero tile => (acc.filter fun e => e.1 / 4096 != tile, 0)
  | _ => (acc, 0)

/-- The words of tiles in error as an update in flight leaves them: `mzero` rewrites a tile, `mshift` moves its rows (assumption
86). -/
def tileErrors (bad : List Nat) (op : FlightOp) : List Nat :=
  match op with
  | .mshift tile => bad.filterMap fun w => if w / 2048 != tile then some w else if w % 2048 < 32 then none else some (w - 32)
  | .mzero tile => bad.filter fun w => w / 2048 != tile
  | _ => bad

/-- How many words of tiles in error an update in flight reads (R392). -/
def tileMet (bad : List Nat) (op : FlightOp) : Nat :=
  match op with
  | .macc tile row _ sums _ =>
    (bad.filter fun w => decide (accKey tile row 0 / 2 ≤ w) && decide (2 * w < accKey tile row 0 + sums.length)).length
  | .mshift tile => (bad.filter fun w => w / 2048 == tile).length
  | _ => 0

/-- The job traps known-answer mismatches (Table 13-1). -/
def State.kattrap (s : State) (cx : Nat) : Bool :=
  match s.taskOf cx with
  | none => false
  | some t => bit (t.jw 0) 58

/-- The compare of a known-answer beat ends (R234). -/
def State.katEnd (s : State) (cx : Nat) (chk : Word) (bad : Bool) : State :=
  if !bad then s
  else
    let s := (s.count cx .kat 1).noteMstat cx fKAT
    s.updCtx cx fun c => { c with st := { c.st with kat := if s.kattrap cx then some chk else c.st.kat } }

/-- A strand's registers as a result leaves them. -/
def Strand.deliver (st : Strand) (op : FlightOp) : Strand :=
  match op with
  | .g n v => st.putG n v
  | .v n v => st.putV n v
  | .k n m => st.putK n m
  | .q mask val => { st with q := (st.q &&& ~~~mask) ||| (val &&& mask) }
  | .latchOnly => st
  | .push rows tag sl src => { st with shadow := st.shadow.push rows tag sl src }
  | .macc _ _ _ _ _ | .mshift _ | .mzero _ =>
    { st with acc := (tileUpdate st.acc op).1, accBad := tileErrors st.accBad op }
  | .mkat _ _ => st

/-- An interlocked result issued later has landed in a register or latch in this cycle of the core (R87). -/
def Ctx.beaten (c : Ctx) (e : Flight) : Bool :=
  match e.op.reg with
  | some r => c.landRegs.any fun l => l.1 == r && decide (e.ord ≤ l.2)
  | none => false
def Ctx.latchBeaten (c : Ctx) (e : Flight) (n : Nat) : Bool := c.landLatches.any fun l => l.1 == n && decide (e.ord ≤ l.2)

/-- A result becomes readable: it is written into its register and its latch, or acts on the lattice and sets its flags (R66). -/
def State.deliver (s : State) (cx : Nat) (e : Flight) : State :=
  let s := s.storeEcc cx (coreOf cx) (tileMet (s.ctx cx).st.accBad e.op)
  let s := s.noteMstat cx (tileUpdate (s.ctx cx).st.acc e.op).2
  let s := s.updCtx cx fun c =>
    { c with
      st := if c.beaten e then c.st else c.st.deliver e.op
      x := match e.latch with
        | some (n, l) => if c.latchBeaten e n then c.x else FMap.put c.x n l
        | none => c.x }
  match e.op with
  | .mkat chk bad => s.katEnd cx chk bad
  | _ => s

/-- What must change in the order of issue though the counts of a template's results run apart from those of its owner's bundles
(R70, R227, R235, R251): a tile, or the shadow buffer. -/
def FlightOp.target : FlightOp → Option Nat
  | .macc t _ _ _ _ | .mshift t | .mzero t => some t
  | .push _ _ _ _ => some 4
  | .g _ _ | .v _ _ | .k _ _ | .q _ _ | .latchOnly | .mkat _ _ => none

/-- The entries that `f` picks, with those issued before them that change the same tile or buffer, and the rest (assumption 73). -/
def splitFlights (f : Flight → Bool) : List Flight → List Flight × List Flight
  | [] => ([], [])
  | e :: r =>
    let (now, rest) := splitFlights f r
    if f e || (e.op.target.isSome && now.any fun d => d.op.target == e.op.target) then (e :: now, rest) else (now, e :: rest)

/-- Entries written, in the order of their issue (R87). -/
def State.deliverWhere (s : State) (cx : Nat) (f : Flight → Bool) : State :=
  let (now, rest) := splitFlights f (s.ctx cx).st.flight
  now.foldl (fun s e => s.deliver cx e) (s.updCtx cx fun c => { c with st := { c.st with flight := rest } })

/-- An entry whose readable cycle has come and whose data, if it is promised, has landed. -/
def Flight.due (now : Nat) (e : Flight) : Bool :=
  e.left == 0 && (e.lands.map fun t => decide (t ≤ now)).getD true

/-- The counts of some entries fall by one. -/
def State.tickFlights (s : State) (cx : Nat) (f : Flight → Bool) : State :=
  s.updCtx cx fun c => { c with st := { c.st with
    flight := c.st.flight.map fun e => if f e then { e with left := e.left - 1 } else e } }

/-- One cycle of some entries: their remaining counts fall, and those that are due are written. -/
def State.countDown (s : State) (cx : Nat) (f : Flight → Bool) : State :=
  (s.tickFlights cx f).deliverWhere cx fun e => f e && e.due s.clock.toNat

end Sys2Proof.Machine
end

