-- ==== Sys2Proof/Machine/Remote.lean ====
section
/-!
DEFINITION. Remote: what a PEER request does at its destination home (R180, R186, R187, R323), and the reduction rounds
that a home keeps.
-/
namespace Sys2Proof.Machine

/-- How a remote request ends at its destination (R180, Table 19-1). -/
inductive RemoteEnd where
  | done
  | ecc
  | xlat
  | sealed
  | waits
deriving DecidableEq, Repr

/-! ## Reductions at a home (R186, R187) -/

/-- One element of a reduction (R186): `.s32` clamps, `.z32` wraps, the floats round once with RNE. -/
def redElem (ty : Ty) (a b : Nat) : Nat :=
  match ty with
  | .s32 => (clampTo .s32 (sextN 32 a + sextN 32 b)).1
  | .z32 => (a + b) % 2 ^ 32
  | t =>
    let (s, _) := (decodeFloat t a).add .rne (decodeFloat t b)
    (roundTo t .rne 0 s).1

/-- A line with a row added element by element. -/
def redLine (ty : Ty) (line row : List Byte) : List Byte :=
  let w := ty.width
  let a := leValue line
  let b := leValue row
  leBytes 128 (ofLanes w ((List.range (1024 / w)).map fun i => redElem ty (laneN w a i) (laneN w b i)))

/-- Elements of a type added to those in memory, as a reduction adds them (R233). -/
def redElems (ty : Ty) (old data : List Byte) : List Byte :=
  let w := ty.width
  let a := leValue old
  let b := leValue data
  leBytes data.length (ofLanes w ((List.range (8 * data.length / w)).map fun i => redElem ty (laneN w a i) (laneN w b i)))

/-- A contribution counted toward its round, where it has a flag (R187). -/
def State.redCount (s : State) (slot : Option Nat) (line : Nat) (flag : Option Nat) (cnt : Nat) : State :=
  match flag with
  | none => s
  | some flag =>
    let r := (s.reds.find? fun r => r.line == line && r.flag == flag).getD { line := line, flag := flag, count := 0, cnt := cnt }
    let rest := s.reds.filter fun r => !(r.line == line && r.flag == flag)
    if r.count + 1 ≥ r.cnt then (({ s with reds := rest }).poke slot flag (leBytes 8 r.cnt)).setFull flag true
    else { s with reds := rest ++ [{ r with count := r.count + 1 }] }

/-- The home of a flag word has room to count a contribution (R187: 4,096 counters at each home). -/
def State.redRoom (s : State) (line : Nat) (flag : Option Nat) : Bool :=
  match flag with
  | none => true
  | some flag => (s.reds.any fun r => r.line == line && r.flag == flag) ||
    decide ((s.reds.filter fun r => homeOf r.flag == homeOf flag).length < 4096)

/-- A contribution performed: the line and then its round, as one event. -/
def State.redApply (s : State) (slot : Option Nat) (ty : Ty) (line : Nat) (row : List Byte) (flag : Option Nat) (cnt : Nat) :
    State :=
  (s.poke slot line (redLine ty (s.peek line 128) row)).redCount slot line flag cnt

/-! ## Requests at their destination -/

/-- The physical place of a PEER request's bytes that lie in one page, under the destination's ASN and its rights (R180, R282), and
whether the page's words carry full/empty bits. -/
def State.peerPlace (s : State) (die asn va n : Nat) (rd wr : Bool) : Except RemoteEnd (Nat × Bool) × State :=
  let e := s.asnEntry asn
  if e.1 ≠ 1 ∨ e.2.1 = false then (.error .xlat, s)
  else
    let (l, s) := s.translate die asn va
    match l with
    | none => (.error .xlat, s)
    | some l =>
      let pa := l.paOf va
      if l.isSealed ∨ s.sealTag pa ≠ 0 ∨ l.co then (.error .sealed, s)
      else if va + n ≤ l.va + l.size ∧ (rd → l.r) ∧ (wr → l.w) then (.ok (pa, l.fe), s)
      else (.error .xlat, s)

/-- The physical parts of a range that may cross pages, or how the first page that fails ends it. -/
def State.peerParts (s : State) (die asn va : Nat) (rd wr : Bool) : Nat → Nat → Except RemoteEnd (List (Nat × Nat × Bool)) × State
  | 0, _ => (.ok [], s)
  | fuel + 1, n =>
    if n = 0 then (.ok [], s)
    else
      let k := min n (4096 - va % 4096)
      match s.peerPlace die asn va k rd wr with
      | (.error e, s) => (.error e, s)
      | (.ok p, s) =>
        match s.peerParts die asn (va + k) rd wr fuel (n - k) with
        | (.error e, s) => (.error e, s)
        | (.ok ps, s) => (.ok ((p.1, k, p.2) :: ps), s)
/-- The parts of a whole range. -/
def State.peerSpan (s : State) (die asn va n : Nat) (rd wr : Bool) : Except RemoteEnd (List (Nat × Nat × Bool)) × State :=
  s.peerParts die asn va rd wr (n / 4096 + 2) n

/-- The aligned words that lie wholly within `n` bytes from an address. -/
def wholeIn (a n : Nat) : List Nat := (List.range ((a + n) / 8 - (a + 7) / 8)).map fun i => ((a + 7) / 8 + i) * 8

/-- Bytes written to physical parts; `fill` sets the words that carry a bit and that are written whole (R240). -/
def State.pokeParts (s : State) (fill : Bool) : List (Nat × Nat × Bool) → List Byte → State
  | [], _ => s
  | (pa, n, fe) :: ps, bs =>
    let s := s.poke none pa (bs.take n)
    let s := if fill && fe then (wholeIn pa n).foldl (fun s w => s.setFull w true) s else s
    s.pokeParts fill ps (bs.drop n)

/-- The bytes of physical parts, or how the read ends where a word is uncorrectable (R392). -/
def State.peekParts (s : State) (ps : List (Nat × Nat × Bool)) : Except RemoteEnd (List Byte) × State :=
  match ps.find? fun p => s.spoiled p.1 p.2.1 with
  | some p => (.error .ecc, s.eccMet p.1 p.2.1 none)
  | none => (.ok (ps.flatMap fun p => s.peek p.1 p.2.1), s)

/-- A request performed at this module as its destination: how it ends, and the value it answers. -/
def State.homeApply (s : State) (die asn : Nat) (op : ShardOp) : RemoteEnd × BitVec 1024 × State :=
  match op with
  | .load addr n =>
    match s.peerSpan die asn addr n true false with
    | (.error e, s) => (e, 0, s)
    | (.ok ps, s) =>
      match s.peekParts ps with
      | (.error e, s) => (e, 0, s)
      | (.ok bs, s) => (.done, BitVec.ofNat 1024 (leValue bs), s)
  | .store addr data fill =>
    match s.peerSpan die asn addr data.length false true with
    | (.error e, s) => (e, 0, s)
    | (.ok ps, s) => (.done, 0, s.pokeParts fill ps data)
  | .atomic aop addr c e =>
    match s.peerPlace die asn addr 8 true true with
    | (.error x, s) => (x, 0, s)
    | (.ok (pa, _), s) =>
      if s.spoiled pa 8 then (.ecc, 0, s.eccMet pa 8 none)
      else
        let old := leValue (s.peek pa 8)
        let s := match atomNew aop 64 old c.toNat e.toNat with
          | none => s
          | some v => s.poke none pa (leBytes 8 v)
        (.done, (atomResult aop 64 old).setWidth 1024, s)
  | .addElems ty addr data =>
    match s.peerSpan die asn addr data.length false true with
    | (.error e, s) => (e, 0, s)
    | (.ok ps, s) =>
      match s.peekParts ps with
      | (.error e, s) => (e, 0, s)
      | (.ok old, s) => (.done, 0, s.pokeParts false ps (redElems ty old data))
  | .reduce ty line row flag cnt =>
    match s.peerPlace die asn line 128 false true with
    | (.error e, s) => (e, 0, s)
    | (.ok (pa, _), s) =>
      let flagAt : Except RemoteEnd (Option Nat) × State :=
        if flag = 0 then (.ok none, s)
        else
          let (p, s) := s.peerPlace die asn flag 8 false true
          (p.map fun p => some p.1, s)
      match flagAt with
      | (.error e, s) => (e, 0, s)
      | (.ok fpa, s) =>
        if s.spoiled pa 128 then (.ecc, 0, s.eccMet pa 128 none)
        else if !s.redRoom pa fpa then (.waits, 0, s)
        else (.done, 0, s.redApply none ty pa row fpa cnt)

/-- How many bytes of a context's write at this module as its destination are performed (R405). -/
def State.peerWrote (s : State) (cx addr n : Nat) : Nat :=
  match (s.peerSpan (dieOf cx) (s.pasnOf cx) addr n false true).1 with
  | .ok ps => (ps.map fun p => s.wrote p.1 p.2.1).sum
  | .error _ => 0

/-- The code of Table 19-1 with which a request that ends so is answered. -/
def RemoteEnd.code : RemoteEnd → Nat
  | .ecc => 1
  | .sealed => 4
  | .xlat => 5
  | .done | .waits => 0

/-- The home of a request's first byte, where it translates (R316, R325). -/
def State.homeOfOp (s : State) (die asn : Nat) (op : ShardOp) : Option Nat :=
  let at_ (a : Nat) : Option Nat := match (s.peerPlace die asn a 1 false false).1 with
    | .ok p => some (homeOf p.1)
    | .error _ => none
  match op with
  | .load a _ | .store a _ _ | .atomic _ a _ _ | .addElems _ a _ | .reduce _ a _ _ _ => at_ a

end Sys2Proof.Machine
end

