-- ==== Sys2Proof/Machine/MemOps.lean ====
section
/-!
DEFINITION. MemOps: the scalar loads and stores, the full/empty forms, the atomics and `pagein` of chapter 07.
-/
namespace Sys2Proof.Machine

/-- Bytes of an access size (R165). -/
def sizeBytes : Size → Nat
  | .b => 1 | .h => 2 | .w => 4 | .d => 8

/-- The value a load of `n` bytes leaves (R168). -/
def extend (sx : Bool) (n x : Nat) : Word := BitVec.ofNat 64 (if sx then narrow 64 (sextN (8 * n) x) else x)

/-! ## Full/empty forms (R174 to R177) -/

/-- The bit of a word lets a form be performed (Table 07-7). -/
def State.feAllows (s : State) (w : Word64) (form : Form) : Bool :=
  Form.allowed form (match w with
    | .loc k => s.locIsFull k
    | .dev pa => s.isFull pa)

/-- A full/empty bit that is read in a word with an uncorrectable error, counted (R392). -/
def State.feMet (s : State) (cx : Nat) (w : Word64) : State :=
  match w with
  | .loc k => s.locMet cx k 8
  | .dev pa => if s.spoiled pa 8 then s.eccMet pa 8 (s.slotOf cx) else s

/-- A form performed at its home as one event: the word read, and the state with the word and its bit changed. `.force` does not
read the bit. -/
def State.fePerform (s : State) (cx : Nat) (w : Word64) (form : Form) (data : Word) (c : Counter) : Word × State :=
  let store := form == .fill || form == .force
  let s := if form == .force then s else s.feMet cx w
  match w with
  | .loc k =>
    let v := BitVec.ofNat 64 (s.locNum k 8)
    let s := if store then s.locPut cx k (leBytes 8 data.toNat) else s
    (v, (if form = .wait then s else s.setLocFull k store).count cx c 8)
  | .dev pa =>
    let v := BitVec.ofNat 64 (leValue (s.peek pa 8))
    let s := if store then s.devWrite cx pa (leBytes 8 data.toNat) else s.count cx .device 8
    (v, if form = .wait then s else s.setFull pa store)

/-- The current context's form on a word is lost between dies (R395). -/
def State.feLost (s : State) (w : Word64) : Bool :=
  match w with
  | .loc _ => false
  | .dev pa => s.severed (dieOf s.iss.cx) pa
def State.feLostMet (s : State) (w : Word64) : State :=
  match w with
  | .loc _ => s
  | .dev pa => s.eccAt [pa] pa (s.slotOf s.iss.cx)

/-- A form of the current bundle, unless it is lost between dies: performed at once where the bit allows it and no fence of the bundle is to be waited for
(R189, R190), else a hold. `k` takes the word read. -/
def State.feAccess (s : State) (w : Word64) (form : Form) (data : Word) (addr space : Nat) (c : Counter)
    (k : Word → State → State) : State :=
  let s' := s.updIss fun i => { i with req := some (.fe w form data addr space) }
  if !s.iss.fenced && s.feLost w then
    let s := s'.feLostMet w
    k 0 (if form == .fill || form == .force then s else s.hw .resFlag)
  else if form == .force || (!s.iss.fenced && s.feAllows w form) then
    let (v, s'') := s'.fePerform s.iss.cx w form data c
    k v s''
  else s'.updIss fun i => { i with held := true }

/-- What the home returned for the full/empty form of a bundle that commits after a hold: the form has been performed, and its checks
with it (R175). -/
def State.formDone (s : State) (form : Form) : Option Word :=
  if form = .plain then none else s.iss.committed.bind Hold.got

/-! ## Locations of the S slot -/

/-- The row offset and word of a scalar scratchpad operand (R164). -/
def smOff (imm : BitVec 44) : Int := (imm.extractLsb' 4 8).toInt
def smWord (imm : BitVec 44) : Nat := (imm.extractLsb' 0 4).toNat

/-- A LOCAL word. -/
def State.locPlace (s : State) (a : Src) (imm : BitVec 44) : Checked (Nat × Nat) :=
  s.locCheck s.iss.cx (coreIdx s.iss.cx) (rowPlus (s.bRow (srcNum a)) (smOff imm)) (smWord imm)
/-- A CLUSTER word; the base register's residue has been checked. -/
def State.cluPlace (s : State) (g : Word) (imm : BitVec 44) : Checked (Nat × Nat) :=
  s.locCheck s.iss.cx (bits g.toNat 15 13) (rowPlus (bits g.toNat 12 0) (smOff imm)) (smWord imm)
/-- The address a DEVICE operand presents. -/
def devAddr (g : Word) (imm : BitVec 44) : Int := (g.toNat : Int) + immI imm

/-- A scalar result of a scratchpad load: LOCAL after two cycles, CLUSTER interlocked (Table 07-17). -/
def State.locResult (s : State) (clu : Bool) (d : Dst) (l : Nat) (v : Word) : State :=
  if clu then
    let (t, s) := s.landing Config.accessDelay
    s.pendG d v t
  else s.wrG d l (fresh v)

/-- A scalar scratchpad load. -/
def locLoad (o : OpSM) (clu : Bool) (p : Checked (Nat × Nat)) (s : State) : State :=
  let c : Counter := if clu then .cluster else .local_
  match s.formDone o.form with
  | some v => s.wrG o.d 1 (fresh v)
  | none => s.checked 0 p fun (k, fa) =>
    if o.form = .plain then
      match s.locRead s.iss.cx k 8 c with
      | (none, s) => (s.locResult clu o.d 2 0).hw .resFlag
      | (some bs, s) => s.noteAgain (s.locResult clu o.d 2 (BitVec.ofNat 64 (leValue bs))) [(.loc k, 8)] 8
    else s.feAccess (.loc k) o.form 0 fa (if clu then 1 else 0) c fun v s => s.wrG o.d 1 (fresh v)
/-- A scalar scratchpad store. -/
def locStoreOp (o : OpSM) (clu : Bool) (p : Checked (Nat × Nat)) (s : State) : State :=
  let c : Counter := if clu then .cluster else .local_
  if (s.formDone o.form).isSome then s
  else s.chkG 0 (s.rdG o.c) fun s =>
    s.checked 0 p fun (k, fa) =>
      let v := (s.rdG o.c).val
      if o.form = .plain then s.locWrite s.iss.cx k (leBytes 8 v.toNat) c
      else s.feAccess (.loc k) o.form v fa (if clu then 1 else 0) c fun _ s => s

def execLdLoc (o : OpSM) (s : State) : Out := guarded o.p (fun s => locLoad o false (s.locPlace o.a o.imm) s) s
def execStLoc (o : OpSM) (s : State) : Out := guarded o.p (fun s => locStoreOp o false (s.locPlace o.a o.imm) s) s
def execLdClu (o : OpSM) (s : State) : Out :=
  guarded o.p (fun s => s.chkG 0 (s.rdG o.a) fun s => locLoad o true (s.cluPlace (s.rdG o.a).val o.imm) s) s
def execStClu (o : OpSM) (s : State) : Out :=
  guarded o.p (fun s => s.chkG 0 (s.rdG o.a) fun s => locStoreOp o true (s.cluPlace (s.rdG o.a).val o.imm) s) s

def execLdDev (o : OpSM) (s : State) : Out :=
  guarded o.p (fun s => match s.formDone o.form with
  | some v => s.wrG o.d 1 (fresh v)
  | none => s.chkG 0 (s.rdG o.a) fun s =>
    let n := sizeBytes o.size
    s.checked 0 (s.devCheck s.iss.cx (devAddr (s.rdG o.a).val o.imm) n true false (o.form != .plain)) fun a =>
      match a.pa with
      | none => s.zeroG o.d
      | some pa =>
        if o.form = .plain then
          match s.devRead s.iss.cx pa n with
          | (none, s) => s.zeroG o.d
          | (some bs, s) =>
            s.noteAgain (s.devG o.d a (extend o.sx n (leValue bs))) [(.dev pa, n)] (n + if o.sx then 16 else 0)
        else (s.mixProbe s.iss.cx pa n).feAccess (.dev pa) o.form 0 a.va 2 .device fun v s => s.wrG o.d 1 (fresh v)) s
def execStDev (o : OpSM) (s : State) : Out :=
  guarded o.p (fun s => if (s.formDone o.form).isSome then s else s.chkG 0 (s.rdG o.a) fun s => s.chkG 0 (s.rdG o.c) fun s =>
    let n := sizeBytes o.size
    let v := (s.rdG o.c).val
    s.checked 0 (s.devCheck s.iss.cx (devAddr (s.rdG o.a).val o.imm) n false true (o.form != .plain)) fun a =>
      match a.pa with
      | none => s.dropRun s.iss.cx a.idx
      | some pa =>
        if o.form = .plain then s.devWrite s.iss.cx pa (leBytes n v.toNat)
        else (s.mixProbe s.iss.cx pa n).feAccess (.dev pa) o.form v a.va 2 .device fun _ s => s) s

/-! ## PEER and HOST (R164, R165, R180) -/

/-- A PEER or HOST pair with its residues checked: the aligned address and the second register. The address is an exact integer
(R164); one outside 64 bits names no location, so that the access fails (R180). -/
def State.pairAt (s : State) (slot : Nat) (a : Src) (imm : Int) (n : Nat) (f : Option Nat → Word → State → State) : State :=
  s.chkG slot (s.rdG a) fun s => s.chkG slot (s.rdG (srcNext a)) fun s =>
    let at_ : Int := ((s.rdG a).val.toNat : Int) + imm
    f (if 0 ≤ at_ ∧ at_ < 2 ^ 64 then some (at_.toNat / n * n) else none) (s.rdG (srcNext a)).val s

/-- A PEER access cannot be sent or performed: the module number names none, or the module is not reachable (R180). -/
def State.noModule (s : State) (mod : Nat) : Bool := decide (288 ≤ mod) || (mod != s.boot.modid.toNat && !s.reachable)

/-- A failed remote load or atomic: zero, and the failure counted (R180). -/
def State.failG (s : State) (d : Dst) : State :=
  let (t, s) := s.landing Config.accessDelay
  (s.pendG d 0 t).remFail s.iss.cx

/-- A request of a strand is a load. -/
def ShardOp.isLoad : ShardOp → Bool
  | .load _ _ => true
  | .store _ _ _ | .atomic _ _ _ _ | .reduce _ _ _ _ _ | .addElems _ _ _ => false
/-- The bytes that a strand's PEER access has moved once it is performed, by what it answers: an atomic reads 8, and writes them unless it is
a `cas` that writes nothing (R405). -/
def ShardOp.moved (op : ShardOp) (v : Nat) : Nat :=
  match op with
  | .load _ n => n
  | .store _ d _ => d.length
  | .atomic k _ c e => if (atomNew k 64 (v % 2 ^ 64) c.toNat e.toNat).isSome then 16 else 8
  | .reduce _ _ _ _ _ => 128
  | .addElems _ _ d => d.length

/-- A PEER request whose answer lands in a scalar register: performed here if the module is this one, sent otherwise; a
module number that names none fails (R180). A load that meets an uncorrectable error gives zero and RES (Table 19-3). -/
def State.peerG (s : State) (d : Dst) (mod : Nat) (op : ShardOp) (tracked : Bool) : State :=
  let cx := s.iss.cx
  let s0 := s
  if s.noModule mod then s.failG d
  else if mod = s.boot.modid.toNat then
    match s.homeApply (dieOf cx) (s.pasnOf cx) op with
    | (.done, v, s) =>
      let (t, s) := s.landing Config.accessDelay
      let s := (s.pendG d (v.setWidth 64) t).count cx .peer (ShardOp.moved op v.toNat)
      match op with
      | .load a n => s0.noteAgain s [(.peer mod a, n)] 8
      | .atomic k a c e => s0.noteAgain s [(.peer mod a, 8)] 8 (some (k, c.toNat, e.toNat))
      | _ => s
    | (.ecc, _, s) =>
      let (t, s) := s.landing Config.accessDelay
      let s := (s.pendG d 0 t).count cx .eccu 1
      if ShardOp.isLoad op then s.hw .resFlag else s
    | (_, _, s) => s.failG d
  else
    let (id, s) := s.newId
    let (_, s) := s.sendPeer cx mod op tracked (some id) none
    s.updSt fun st => { st with pend := st.pend ++
      [{ id := id, reg := if d.latchOnly then none else some (.g d.n.toNat), latch := some (d.n.toNat % 16),
         kind := .peer id }] }

/-- A PEER store. -/
def State.peerStore (s : State) (mod : Nat) (addr : Option Nat) (data : List Byte) : State :=
  let cx := s.iss.cx
  match addr with
  | none => s.remFail cx
  | some addr =>
    if s.noModule mod then s.remFail cx
    else if mod = s.boot.modid.toNat then
      let n := s.peerWrote cx addr data.length
      let (e, _, s) := s.homeApply (dieOf cx) (s.pasnOf cx) (.store addr data false)
      if e = .done then s.count cx .peer n else s.remFail cx
    else (s.sendPeer cx mod (.store addr data false) true none none).2

def execLdPeer (o : OpSM) (s : State) : Out :=
  guarded o.p (fun s => s.pairAt 0 o.a (immI o.imm) 8 fun addr b s =>
    match addr with
    | none => s.failG o.d
    | some addr => s.peerG o.d (bits b.toNat 8 0) (.load addr 8) false) s
def execStPeer (o : OpSM) (s : State) : Out :=
  guarded o.p (fun s => s.pairAt 0 o.a (immI o.imm) 8 fun addr b s => s.chkG 0 (s.rdG o.c) fun s =>
    s.peerStore (bits b.toNat 8 0) addr (leBytes 8 (s.rdG o.c).val.toNat)) s

/-- A HOST access is possible: the job has a function on the port and the completion succeeds (R180). -/
def State.hostOk (s : State) (port : Nat) : Bool × State :=
  let (f, s) := s.drawFree
  ((s.jobFn port (s.jobOf s.iss.cx)).isSome && FMap.getD s.linkUp port false && !Config.hostFails f, s)

def execLdHost (o : OpSM) (s : State) : Out :=
  guarded o.p (fun s => s.pairAt 0 o.a (immI o.imm) 8 fun addr b s =>
    let port := b.toNat % 2
    let (ok, s) := s.hostOk port
    match addr, ok with
    | some addr, true =>
      let (t, s) := s.landing Config.accessDelay
      (s.noteAgain (s.pendG o.d (BitVec.ofNat 64 (Memory.num (s.hostMem port) addr 8)) t) [(.host port addr, 8)] 8).count
        s.iss.cx .host 8
    | _, _ => s.failG o.d) s
/-- A HOST store performed (R324: posted, in issue order). -/
def State.hostStore (s : State) (port : Nat) (addr : Option Nat) (data : List Byte) : State :=
  let (ok, s) := s.hostOk port
  match addr, ok with
  | some addr, true => (s.setHost port (Memory.store (s.hostMem port) addr data)).count s.iss.cx .host data.length
  | _, _ => s.remFail s.iss.cx
def execStHost (o : OpSM) (s : State) : Out :=
  guarded o.p (fun s => s.pairAt 0 o.a (immI o.imm) 8 fun addr b s => s.chkG 0 (s.rdG o.c) fun s =>
    s.hostStore (b.toNat % 2) addr (leBytes 8 (s.rdG o.c).val.toNat)) s

/-! ## Atomics (R178, R179) -/

/-- The expected value of `cas`: the old contents of the destination register. -/
def State.expected (s : State) (d : Dst) : Nat := (s.cur.st.getG d.n.toNat).val.toNat

/-- An atomic on a scratchpad word. -/
def locAtomic (op : AtomOp) (o : OpSA) (clu : Bool) (p : Checked (Nat × Nat)) (s : State) : State :=
  let c : Counter := if clu then .cluster else .local_
  s.chkG 0 (s.rdG o.c) fun s =>
    s.checked 0 p fun (k, _) =>
      match s.locRead s.iss.cx k 8 c with
      | (none, s) => s.locResult clu o.d 3 0
      | (some bs, s) =>
        let old := leValue bs
        let s := s.noteAgain (s.locResult clu o.d 3 (atomResult op 64 old)) [(.loc k, 8)] 8
          (some (op, (s.rdG o.c).val.toNat, s.expected o.d))
        match atomNew op 64 old (s.rdG o.c).val.toNat (s.expected o.d) with
        | none => s
        | some v => s.locWrite s.iss.cx k (leBytes 8 v) c
def atomLoc (op : AtomOp) (o : OpSA) (s : State) : Out :=
  guarded o.p (fun s => locAtomic op o false (s.locPlace o.a o.imm) s) s
def atomClu (op : AtomOp) (o : OpSA) (s : State) : Out :=
  guarded o.p (fun s => s.chkG 0 (s.rdG o.a) fun s => locAtomic op o true (s.cluPlace (s.rdG o.a).val o.imm) s) s
def atomDev (op : AtomOp) (o : OpSA) (s : State) : Out :=
  guarded o.p (fun s => s.chkG 0 (s.rdG o.a) fun s => s.chkG 0 (s.rdG o.c) fun s =>
    let n := sizeBytes o.size
    s.checked 0 (s.devCheck s.iss.cx (devAddr (s.rdG o.a).val o.imm) n true true false) fun a =>
      match a.pa with
      | none => (s.zeroG o.d).dropRun s.iss.cx a.idx
      | some pa =>
        let (t, s) := s.landing Config.accessDelay
        match s.devRead s.iss.cx pa n with
        | (none, s) => s.pendG o.d 0 t
        | (some bs, s) =>
          let old := leValue bs
          let m := 2 ^ (8 * n)
          let s := s.noteAgain (s.pendG o.d (atomResult op (8 * n) old) t) [(.dev pa, n)] n
            (some (op, (s.rdG o.c).val.toNat % m, s.expected o.d % m))
          match atomNew op (8 * n) old ((s.rdG o.c).val.toNat % m) (s.expected o.d % m) with
          | none => s
          | some v => s.devWrite s.iss.cx pa (leBytes n v)) s
def atomPeer (op : AtomOp) (o : OpSA) (s : State) : Out :=
  guarded o.p (fun s => s.pairAt 0 o.a (immI o.imm) 8 fun addr b s => s.chkG 0 (s.rdG o.c) fun s =>
    match addr with
    | none => s.failG o.d
    | some addr => s.peerG o.d (bits b.toNat 8 0) (.atomic op addr (s.rdG o.c).val (BitVec.ofNat 64 (s.expected o.d))) true) s

def execAtomAddLoc (o : OpSA) (s : State) : Out := atomLoc .add o s
def execAtomAndLoc (o : OpSA) (s : State) : Out := atomLoc .and o s
def execAtomOrLoc (o : OpSA) (s : State) : Out := atomLoc .or o s
def execAtomXorLoc (o : OpSA) (s : State) : Out := atomLoc .xor o s
def execAtomMinsLoc (o : OpSA) (s : State) : Out := atomLoc .mins o s
def execAtomMinzLoc (o : OpSA) (s : State) : Out := atomLoc .minz o s
def execAtomMaxsLoc (o : OpSA) (s : State) : Out := atomLoc .maxs o s
def execAtomMaxzLoc (o : OpSA) (s : State) : Out := atomLoc .maxz o s
def execAtomSwapLoc (o : OpSA) (s : State) : Out := atomLoc .swap o s
def execAtomCasLoc (o : OpSA) (s : State) : Out := atomLoc .cas o s
def execAtomAddClu (o : OpSA) (s : State) : Out := atomClu .add o s
def execAtomAndClu (o : OpSA) (s : State) : Out := atomClu .and o s
def execAtomOrClu (o : OpSA) (s : State) : Out := atomClu .or o s
def execAtomXorClu (o : OpSA) (s : State) : Out := atomClu .xor o s
def execAtomMinsClu (o : OpSA) (s : State) : Out := atomClu .mins o s
def execAtomMinzClu (o : OpSA) (s : State) : Out := atomClu .minz o s
def execAtomMaxsClu (o : OpSA) (s : State) : Out := atomClu .maxs o s
def execAtomMaxzClu (o : OpSA) (s : State) : Out := atomClu .maxz o s
def execAtomSwapClu (o : OpSA) (s : State) : Out := atomClu .swap o s
def execAtomCasClu (o : OpSA) (s : State) : Out := atomClu .cas o s
def execAtomAddDev (o : OpSA) (s : State) : Out := atomDev .add o s
def execAtomAndDev (o : OpSA) (s : State) : Out := atomDev .and o s
def execAtomOrDev (o : OpSA) (s : State) : Out := atomDev .or o s
def execAtomXorDev (o : OpSA) (s : State) : Out := atomDev .xor o s
def execAtomMinsDev (o : OpSA) (s : State) : Out := atomDev .mins o s
def execAtomMinzDev (o : OpSA) (s : State) : Out := atomDev .minz o s
def execAtomMaxsDev (o : OpSA) (s : State) : Out := atomDev .maxs o s
def execAtomMaxzDev (o : OpSA) (s : State) : Out := atomDev .maxz o s
def execAtomSwapDev (o : OpSA) (s : State) : Out := atomDev .swap o s
def execAtomCasDev (o : OpSA) (s : State) : Out := atomDev .cas o s
def execAtomAddPeer (o : OpSA) (s : State) : Out := atomPeer .add o s
def execAtomAndPeer (o : OpSA) (s : State) : Out := atomPeer .and o s
def execAtomOrPeer (o : OpSA) (s : State) : Out := atomPeer .or o s
def execAtomXorPeer (o : OpSA) (s : State) : Out := atomPeer .xor o s
def execAtomMinsPeer (o : OpSA) (s : State) : Out := atomPeer .mins o s
def execAtomMinzPeer (o : OpSA) (s : State) : Out := atomPeer .minz o s
def execAtomMaxsPeer (o : OpSA) (s : State) : Out := atomPeer .maxs o s
def execAtomMaxzPeer (o : OpSA) (s : State) : Out := atomPeer .maxz o s
def execAtomSwapPeer (o : OpSA) (s : State) : Out := atomPeer .swap o s
def execAtomCasPeer (o : OpSA) (s : State) : Out := atomPeer .cas o s

/-! ## `pagein` (R173) -/

/-- An interlocked scalar status that an agent other than a timer delivers. -/
def State.pendKind (s : State) (d : Dst) (kind : PendKind) : State :=
  let (id, s) := s.newId
  s.updSt fun st => { st with pend := st.pend ++
    [{ id := id, reg := if d.latchOnly then none else some (.g d.n.toNat), latch := some (d.n.toNat % 16), kind := kind }] }

/-- `pagein`: EXTENT_MISS outside every run; a resident run answers at once; otherwise a walk starts. DROPS is cleared
when it is read. -/
def execPagein (o : OpRI) (s : State) : Out :=
  guarded o.p (fun s => s.chkG 0 (s.rdG o.a) fun s =>
    let va := devAddr (s.rdG o.a).val o.imm
    match (if va < 0 then none else findRun s.cur.runs va.toNat) with
    | none => s.raise 0 .extentMiss (narrow 64 va) 0
    | some (i, r) =>
      if r.resident then
        let s := s.upd fun c => { c with runs := c.runs.modify i fun r => { r with drops := 0 } }
        s.pendG o.d (BitVec.ofNat 64 (r.drops * 65536 + 1)) (s.clock.toNat + 1)
      else
        let (t, s) := s.landing Config.unitDelay
        s.pendKind o.d (.walk va.toNat t)) s

end Sys2Proof.Machine
end

