-- ==== Sys2Proof/Machine/Sync.lean ====
section
/-!
DEFINITION. Sync: transaction barriers (R181 to R184), fences (R189, R190), `crew.sync` (R191) and `task.end` (R192) with
the conditions that held bundles wait for.
-/
namespace Sys2Proof.Machine

/-! ## The barrier word (Table 07-10) -/

def barPhase (w : Nat) : Nat := bits w 3 0
def barArr (w : Nat) : Nat := bits w 23 4
def barSec (w : Nat) : Nat := bits w 47 24
def barErr (w : Nat) : Nat := bits w 55 48
def barInit (w : Nat) : Nat := bits w 83 64

/-- The test for completion after an update (R183). -/
def barComplete (clock : Nat) (w : Nat) : Nat :=
  if barArr w = 0 ∧ barSec w = 0 then
    setField (setField (setField w 0 4 (barPhase w + 1)) 4 20 (barInit w)) 84 44 clock
  else w

/-- One sector landed (code 0) or settled in error (R183, R389). -/
def barSector (clock code : Nat) (w : Nat) : Nat :=
  let w := setField w 24 24 (barSec w + 2 ^ 24 - 1)
  barComplete clock (if barErr w = 0 then setField w 48 8 code else w)

/-- `n` sectors, one at a time. -/
def barSectors (clock code : Nat) : Nat → Nat → Nat
  | 0, w => w
  | n + 1, w => barSectors clock code n (barSector clock code w)

/-- Sectors added to SEC (R183). -/
def barExpect (w n : Nat) : Nat := setField w 24 24 (barSec w + n)

/-- The barrier at a scratchpad key; one in error reads as zero (Table 19-3). -/
def State.barNum (s : State) (k : Nat) : Nat := if s.locSpoiled k 16 then 0 else s.locNum k 16
/-- A barrier that an engine reads or changes met in error, counted on its die; `cx` is the context that met it, where a strand did
(R392). -/
def State.barMet (s : State) (cx : Option Nat) (k : Nat) : State :=
  match cx with
  | some c => s.locMet c k 16
  | none => s.updDie (k / 0x10000000) fun d => { d with uncorr := satWord d.uncorr (s.locBadIn k 16) }
/-- The barrier at a scratchpad key changed as one event; one in error stays as it is, as after an atomic (Table 19-3;
assumption 89). -/
def State.updBar (s : State) (k : Nat) (f : Nat → Nat) (cx : Option Nat := none) : State :=
  if s.locSpoiled k 16 then s.barMet cx k else s.locStore k (leBytes 16 (f (s.locNum k 16)))

/-- `n` sectors of a barrier settled with a code at the current tick. -/
def State.settle (s : State) (bar : Option Nat) (n code : Nat) : State :=
  match bar with
  | none => s
  | some k => if n = 0 then s else s.updBar k (barSectors s.clock.toNat code n)

/-! ## Bar instructions (R182, R184) -/

/-- The key of a barrier by row and slot of the own scratchpad. A fault reports its first word, for a barrier names no whole row
(R176). -/
def State.barKey (s : State) (row slot : Nat) : Checked Nat :=
  (s.locCheck s.iss.cx (coreIdx s.iss.cx) row (2 * slot)).map (·.1)
/-- The barrier that a BR operand names: its key. -/
def State.barPlace (s : State) (o : OpBR) : Checked Nat :=
  s.barKey (rowPlus (s.bRow o.bn.toNat) o.off.toInt) o.slot.toNat

def execBarInit (o : OpBR) (s : State) : Out :=
  guarded o.p (fun s => s.checked 0 (s.barPlace o) fun k =>
    let n := (s.rdG o.b).val.toNat % 2 ^ 20
    s.locStore k (leBytes 16 (n * 2 ^ 64 + n * 16))) s

/-- `bar.arrive`'s three steps and the test (R182). -/
def barArrival (clock : Nat) (b c : Word) (w : Nat) : Nat :=
  let w := if c.getLsbD 0 then setField w 48 8 0 else w
  let w := barExpect w (b.toNat % 2 ^ 24)
  let w := if c.getLsbD 1 then w else setField w 4 20 (barArr w - 1)
  barComplete clock w

def execBarArrive (o : OpBR) (s : State) : Out :=
  guarded o.p (fun s => s.checked 0 (s.barPlace o) fun k =>
    let old := barPhase (s.barNum k)
    (s.updBar k (barArrival s.clock.toNat (s.rdG o.b).val (s.rdG o.c).val) (some s.iss.cx)).wrG o.d 2 (freshN old)) s

def execBarTest (o : OpBR) (s : State) : Out :=
  guarded o.p (fun s => s.checked 0 (s.barPlace o) fun k =>
    if s.locSpoiled k 8 then ((s.locMet s.iss.cx k 8).wrG o.d 2 (freshN 0)).hw .resFlag
    else s.wrG o.d 2 (freshN (s.locNum k 8))) s

/-- The status of a completed wait (R184). -/
def barStatus (w : Nat) : Word := if barErr w = 0 then 0 else 2

/-- A held `bar.wait` ends: none while its phase has not passed and its limit has not come (R184). -/
def State.barEnds (s : State) (key phase : Nat) (limit : Option Nat) : Option Word :=
  let w := s.barNum key
  if barPhase w ≠ phase then some (barStatus w)
  else
    match limit with
    | none => none
    | some t => if t ≤ s.clock.toNat then some 1 else none

def execBarWait (o : OpBR) (s : State) : Out :=
  guarded o.p (fun s => s.checked 0 (s.barPlace o) fun k =>
    match s.iss.committed with
    | some h => s.wrG o.d 1 (fresh (h.got.getD 0))
    | none =>
      let c := (s.rdG o.c).val.toNat
      let limit := if c = 0 then none else some (match s.cur.st.barLimit with
        | some (pc, t) => if pc = s.iss.pc then t else s.clock.toNat + c
        | none => s.clock.toNat + c)
      let phase := (s.rdG o.b).val.toNat % 16
      let s := if s.locSpoiled k 16 then s.locMet s.iss.cx k 16 else s
      let s := s.updIss fun i => { i with req := some (.bar k phase limit) }
      match (if s.iss.fenced then none else s.barEnds k phase limit) with
      | some v => s.wrG o.d 1 (fresh v)
      | none => s.updIss fun i => { i with held := true }) s

/-! ## L-slot holds (R189 to R192) -/

/-- The contexts that hold members of a context's crew. -/
def State.crewOf (s : State) (cx : Nat) : List Nat :=
  match (s.ctx cx).task with
  | none => [cx]
  | some t => (s.ctxs.filter fun e => e.2.task == some t).map (·.1)

/-- A member has presented its `k`-th `crew.sync`, or has ended (R191). -/
def State.syncPresent (s : State) (k cx : Nat) : Bool :=
  let c := s.ctx cx
  c.st.ended || decide (k < c.st.syncs) ||
  (decide (c.st.syncs = k) && c.st.mode == .hold && (c.hold.bind fun h => h.lreq) == some .crewSync)

/-- A PEER strand access of a context has not been performed yet (R190). -/
def State.peerBusy (s : State) (cx : Nat) : Bool := s.outReqs.any fun r => r.cx == cx && r.cmd.isNone

/-- A context has a command in a queue of a mask (R189). -/
def State.queueBusy (s : State) (cx mask : Nat) : Bool := s.cmds.any fun c => c.cx == cx && bit mask c.queue

/-- A member lets the k-th `crew.sync` of its crew be released: it has presented its own with every earlier PEER access of it
performed, or it is past it, or it has ended (R191). -/
def State.syncReady (s : State) (k cx : Nat) : Bool :=
  s.syncPresent k cx && (!s.peerBusy cx || decide (k < (s.ctx cx).st.syncs))

/-- A `crew.sync` of a context's crew is released: the other members that hold at it commit, whatever else is asked of them (R191). -/
def State.syncRelease (s : State) (cx : Nat) : State :=
  (s.crewOf cx).foldl (fun s m =>
    match (s.ctx m).hold with
    | some h => if m ≠ cx ∧ h.lreq = some .crewSync ∧ !h.synced then s.updCtx m fun c => { c with hold := some { h with synced := true } } else s
    | none => s) s

/-- What an L slot waits for holds. HOST strand accesses are performed as they issue (R324; assumption 8). A crew of one does not
hold at a `crew.sync`. -/
def State.lReady (s : State) (cx : Nat) (l : HoldL) : Bool :=
  match l with
  | .fenceQ mask => !s.queueBusy cx mask
  | .fencePeer => !s.peerBusy cx
  | .fenceHost => true
  | .crewSync => decide ((s.crewOf cx).length ≤ 1) ||
      (!s.peerBusy cx && (s.crewOf cx).all fun m => m == cx || s.syncReady (s.ctx cx).st.syncs m)
  | .taskEnd => !s.queueBusy cx 31 && !s.peerBusy cx

/-- An L-slot hold of the current bundle; `f` takes effect once it ends. In a bundle that is only being presented it always holds. -/
def State.lHold (s : State) (l : HoldL) (f : State → State) : State :=
  if s.iss.committed.isSome then f s
  else
    let s := s.updIss fun i => { i with lreq := some l }
    if !s.iss.fenced && s.lReady s.iss.cx l then f s else s.updIss fun i => { i with held := true }

def execFenceQ (o : OpLI) (s : State) : Out :=
  guarded o.p (fun s => if o.imm = 0 then s else s.lHold (.fenceQ o.imm.toNat) id) s
def execFencePeer (o : OpN) (s : State) : Out := guarded o.p (fun s => s.lHold .fencePeer id) s
def execFenceHost (o : OpN) (s : State) : Out := guarded o.p (fun s => s.lHold .fenceHost id) s
def execCrewSync (o : OpN) (s : State) : Out :=
  guarded o.p (fun s => s.lHold .crewSync fun s => s.updSt fun st => { st with syncs := st.syncs + 1 }) s
def execTaskEnd (o : OpN) (s : State) : Out := guarded o.p (fun s => s.lHold .taskEnd fun s => s.after .endStrand) s
def execTaskYield (o : OpN) (s : State) : Out := guarded o.p (fun s => s.after .yield_) s

end Sys2Proof.Machine
end

