-- ==== Sys2Proof/Machine/Queue.lean ====
section
/-!
DEFINITION. Queue: the core's command queues: entry, the promised tick (R238), the performance of moved data, and the
settlement of sectors (R183, R240, R321, R389).
-/
namespace Sys2Proof.Machine

/-! ## Places and sectors -/

def Place.off (p : Place) (i : Nat) : Place :=
  match p with
  | .loc k => .loc (k + i)
  | .clu k => .clu (k + i)
  | .dev a => .dev (a + i)
  | .peer m a => .peer m (a + i)
  | .host q a => .host q (a + i)
  | .zero => .zero

/-- The address of a place within its space. -/
def Place.addr : Place → Nat
  | .loc k | .clu k => k
  | .dev a => a
  | .peer _ a | .host _ a => a
  | .zero => 0

/-- The space of a place, with its module or port, as a number. -/
def Place.space : Place → Nat
  | .loc _ | .clu _ => 0
  | .dev _ => 1
  | .zero => 2
  | .host q _ => 3 + q
  | .peer m _ => 16 + m

/-- The counter of a place's space (Table 19-9). -/
def Place.counter : Place → Option Counter
  | .loc _ => some .local_
  | .clu _ => some .cluster
  | .dev _ => some .device
  | .peer _ _ => some .peer
  | .host _ _ => some .host
  | .zero => none

/-- The 32-byte sector that a place lies in. -/
def Place.sector (p : Place) : Nat × Nat := (p.space, p.addr / 32)

/-- A piece cut where its `side` address crosses a multiple of `u`. -/
def cutPiece (u : Nat) (side : Piece → Place) : Nat → Piece → List Piece
  | 0, _ => []
  | k + 1, p =>
    let n := u - (side p).addr % u
    if p.n = 0 then []
    else if p.n ≤ n then [p]
    else { p with n := n } :: cutPiece u side k { p with src := p.src.off n, dst := p.dst.off n, n := p.n - n }

/-- Pieces cut at the sectors of their destination. -/
def cutSectors (ps : List Piece) : List Piece := ps.flatMap fun p => cutPiece 32 Piece.dst (p.n / 32 + 2) p
/-- The distinct sectors that pieces touch at their destination (R237). -/
def sectorsOf (ps : List Piece) : List (Nat × Nat) := ((cutSectors ps).map fun p => p.dst.sector).dedup

/-! ## Entry (R188, R238) -/

/-- Setup ticks of a side (Table 09-7): a DEVICE side by the class of its first page. -/
def setupOf : Place → Nat → Nat
  | .loc _, _ | .clu _, _ => 8
  | .dev _, c => if c = 1 then 40 else if c = 2 then 120 else if c = 3 then 20 else 400
  | .peer _ _, _ => 2000
  | .host _ _, _ => 4000
  | .zero, _ => 0

/-- The promise of a context's last command in a queue. -/
def State.lastPromise (s : State) (q : Nat) : Nat := FMap.getD s.cur.st.promises q 0

/-- The promised tick of a command that moves `n` bytes (R238). -/
def State.promiseTick (s : State) (q setup n : Nat) : Nat :=
  let base := max s.clock.toNat (s.lastPromise q)
  if n = 0 then base else base + setup + (n + 63) / 64

/-- The tick by which every command of a core's queue will have completed. -/
def State.queueEnd (s : State) (core q : Nat) : Nat :=
  s.cmds.foldl (fun m c => if coreOf c.cx = core ∧ c.queue = q then max m c.doneAt else m) s.clock.toNat

/-- A command enters its queue: its sectors are added to its barrier (R183), and the promise is kept (R238). -/
def State.enqueue (s : State) (q : Nat) (kind : CmdKind) (bar : Option Nat) (sectors code promised : Nat)
    (evt : Option Nat) (isCopy : Bool) : State :=
  let (id, s) := s.newId
  let (f, s) := s.drawFree
  let at_ := s.queueEnd (coreOf s.iss.cx) q + 1 + Config.commandDelay f
  let s : State := match bar with
    | none => s
    | some k => if sectors = 0 then s else s.updBar k fun w => barExpect w sectors
  let c : Cmd :=
    { id := id, cx := s.iss.cx, queue := q, kind := kind, barrier := bar, sectors := sectors, code := code,
      promised := promised, doneAt := at_, evt := evt, isCopy := isCopy }
  let s : State := { s with cmds := s.cmds ++ [c] }
  s.updSt fun st => { st with promises := FMap.put st.promises q promised }

/-- A copy issue's `%due` and, where it has one, its result register (R238, R262). -/
def State.issued (s : State) (d : Option Dst) (p : Nat) : State :=
  let s := s.hw (.due (BitVec.ofNat 64 p))
  match d with
  | none => s
  | some d => s.wrG d 1 (freshN p)

/-! ## Barrier operands (R181) -/

/-- The barrier of an operand, if it counts. -/
def State.barIf (s : State) (use : Bool) (row slot : Nat) : Checked (Option Nat) :=
  if use then (s.barKey row slot).map some else .ok none

/-! ## Combining the checks of a slot (R166) -/

/-- The place of a cause in the order of R166. -/
def causeRank : Cause → Nat
  | .residue => 1 | .extentMiss => 2 | .sealed => 3 | .computeOnly => 4 | .prot => 5 | .kvFault => 6 | .kvShared => 7
  | .watch => 8 | .mixsize => 9 | _ => 0

/-- The first cause, in the order of R166, among checks that have failed. -/
def firstCause : List (Option (Cause × Nat × Nat)) → Option (Cause × Nat × Nat)
  | [] => none
  | none :: r => firstCause r
  | some f :: r =>
    match firstCause r with
    | none => some f
    | some g => some (if causeRank g.1 < causeRank f.1 then g else f)

/-- What a check failed with. -/
def failed {α : Type} : Checked α → Option (Cause × Nat × Nat)
  | .error e => some e
  | .ok _ => none

/-- PROT at an address where a condition does not hold. -/
def protUnless (ok : Bool) (addr : Nat) : Option (Cause × Nat × Nat) := if ok then none else some (.prot, addr, 0)

/-- Runs `f` unless a check has failed. -/
def State.unless (s : State) (slot : Nat) (cs : List (Option (Cause × Nat × Nat))) (f : State → State) : State :=
  match firstCause cs with
  | some (c, a, d) => s.raise slot c a d
  | none => f s

/-- What a check found, or a default where it failed. -/
def okOr {α : Type} (d : α) : Checked α → α
  | .ok x => x
  | .error _ => d

/-- The number of a C slot. -/
def slotC : Twin → Nat
  | .first => 4
  | .second => 5

/-! ## Memory ranges of a command (R237, R240, R241) -/

/-- A DEVICE range as physical pieces, each with whether its words carry full/empty bits, and the first run of it that was not
resident at dispatch. -/
structure DevRange where
  parts : List (Nat × Nat × Bool) := []
  absent : Option Nat := none
  lclass : Nat := 0

/-- Steps 2 to 4 of R166 for the pages of a range, in rising address order. -/
def State.devRange (s : State) (cx : Nat) (wr : Bool) (va : Nat) : Nat → Nat → Checked DevRange
  | 0, _ => .ok {}
  | fuel + 1, n =>
    if n = 0 then .ok {}
    else
      match findRun (s.ctx cx).runs va with
      | none => .error (.extentMiss, va % 2 ^ 64, 0)
      | some (i, r) =>
        let pa := r.pa + (va - r.va)
        if r.resident ∧ (r.isSealed ∨ s.sealTag pa ≠ 0) then .error (.sealed, va, 0)
        else if r.resident ∧ r.co then .error (.computeOnly, va, 0)
        else if if wr then !r.w else !r.r then .error (.prot, va, 0)
        else
          let k := min n (4096 - va % 4096)
          (s.devRange cx wr (va + k) fuel (n - k)).map fun d =>
            if r.resident then { d with parts := (pa, k, r.fe) :: d.parts, lclass := r.lclass }
            else { d with absent := some i, lclass := 0 }

/-- The whole range. -/
def State.devSpan (s : State) (wr : Bool) (va n : Nat) : Checked DevRange := s.devRange s.iss.cx wr va (n / 4096 + 2) n

/-- A scratchpad range of `n` bytes from an offset of a core's scratchpad: its key. PROT where a row of it is not
allocated. -/
def State.locSpan (s : State) (i off n : Nat) : Checked Nat :=
  match (List.range ((off % 128 + n + 127) / 128)).find? fun j =>
      (failed (s.locCheck s.iss.cx i (off / 128 + j) 0)).isSome with
  | some j => .error (.prot, locAddr i (off / 128 + j) (if j = 0 then off % 128 / 8 else 0), 0)
  | none => .ok (okOr 0 ((s.locCheck s.iss.cx i (off / 128) 0).map (·.1)) + off % 128)

/-! ## Performing a movement (R240, R321, R389) -/

/-- How a HOST access of a command ends: none where it succeeds, else the code it settles with. A port that is down, or a read
that times out, loses it; UR, CA and a job without a function on the port give XLAT (Table 19-1). -/
def State.hostEnd (s : State) (cx q : Nat) (read : Bool) : Option Nat × State :=
  let (f, s) := s.drawFree
  if (s.jobFn q (s.jobOf cx)).isNone then (some 5, s.remFail cx)
  else if !FMap.getD s.linkUp q false then (some 2, s.remFail cx)
  else if Config.hostFails f then (some (if read && Config.hostTimesOut f then 2 else 5), s.remFail cx)
  else (none, s)

/-- A PEER access of a command that failed in this module, counted where R180 counts it. -/
def State.peerEnd (s : State) (cx : Nat) (e : RemoteEnd) : State := if e = .ecc then s.count cx .eccu 1 else s.remFail cx

/-- The bytes of a source, or the code its sector settles with. PEER places here lie in this module. -/
def State.readPlace (s : State) (cx : Nat) (p : Place) (n : Nat) : Except Nat (List Byte) × State :=
  match p with
  | .zero => (.ok (List.replicate n 0), s)
  | .loc k | .clu k =>
    if s.locSpoiled k n then (.error 1, s.locMet cx k n) else (.ok (s.locBytes k n), s)
  | .dev a =>
    if s.unreadable (dieOf cx) a n then (.error 1, s.readMet (dieOf cx) a n (s.slotOf cx)) else (.ok (s.peek a n), s)
  | .host q a =>
    match s.hostEnd cx q true with
    | (none, s) => (.ok (Memory.bytes (s.hostMem q) a n), s)
    | (some e, s) => (.error e, s)
  | .peer m a =>
    if m = s.boot.modid.toNat then
      match s.homeApply (dieOf cx) (s.pasnOf cx) (.load a n) with
      | (.done, v, s) => (.ok (leBytes n v.toNat), s)
      | (e, _, s) => (.error e.code, s.peerEnd cx e)
    else (.error 5, s.remFail cx)

/-- Bytes written to a destination, and the code its sector settles with. -/
def State.writePlace (s : State) (cx : Nat) (p : Place) (bs : List Byte) : Nat × State :=
  match p with
  | .zero => (0, s)
  | .loc k | .clu k => (0, s.locPut cx k bs)
  | .dev a =>
    if s.severed (dieOf cx) a then (1, s.eccAt [a] a (s.slotOf cx)) else (0, s.poke (s.slotOf cx) a bs)
  | .host q a =>
    match s.hostEnd cx q false with
    | (none, s) => (0, s.setHost q (Memory.store (s.hostMem q) a bs))
    | (some e, s) => (e, s)
  | .peer m a =>
    if m = s.boot.modid.toNat then
      match s.homeApply (dieOf cx) (s.pasnOf cx) (.store a bs false) with
      | (.done, _, s) => (0, s)
      | (e, _, s) => (e.code, s.peerEnd cx e)
    else (5, s.remFail cx)

/-- How many bytes of a write to a place are performed (R405). -/
def State.wroteAt (s : State) (cx : Nat) (p : Place) (n : Nat) : Nat :=
  match p with
  | .loc k | .clu k => s.locWrote k n
  | .dev a => s.wrote a n
  | .peer _ a => s.peerWrote cx a n
  | .host _ _ => n
  | .zero => 0

/-- Bytes counted for a place (R405). -/
def State.countPlace (s : State) (cx : Nat) (p : Place) (n : Nat) : State :=
  match p.counter with
  | none => s
  | some c => s.count cx c n

/-- The full/empty bit of a word at a place; a word without one counts as full (R240). -/
def State.placeFull (s : State) (p : Place) : Bool :=
  match p with
  | .loc k | .clu k => s.locIsFull k
  | .dev a => !inLpddr a || s.isFull a
  | _ => true
/-- A word's bit set or cleared, where it has one: a PEER word of this module where its page's words carry bits. -/
def State.setPlaceFull (s : State) (cx : Nat) (p : Place) (b : Bool) : State :=
  match p with
  | .loc k | .clu k => s.setLocFull k b
  | .dev a => s.setFull a b
  | .peer m a =>
    if m = s.boot.modid.toNat then
      match s.peerPlace (dieOf cx) (s.pasnOf cx) a 8 false true with
      | (.ok (pa, fe), s) => if fe then s.setFull pa b else s
      | (.error _, s) => s
    else s
  | .host _ _ | .zero => s

/-- The bytes of a place in this module or in host memory, or none where it has none or they cannot be read. -/
def State.bytesAt (s : State) (p : Place) (n : Nat) : Option (List Byte) :=
  match p with
  | .loc k | .clu k => if s.locSpoiled k n then none else some (s.locBytes k n)
  | .dev a => if s.spoiled a n then none else some (s.peek a n)
  | .host q a => some (Memory.bytes (s.hostMem q) a n)
  | .peer _ _ | .zero => none

/-- A write that is settled in error: each byte of the destination keeps its old value or takes the one that would have been
written, by a free choice (R389; assumption 7). -/
def State.blur (s : State) (cx : Nat) (p : Place) (bs : List Byte) : State :=
  match s.bytesAt p bs.length with
  | none => s
  | some old =>
    let (f, s) := s.drawFree
    let bs := (old.zip bs).zipIdx.map fun b => if (Config.choice f).testBit b.2 then b.1.2 else b.1.1
    match p with
    | .loc k | .clu k => s.locStore k bs
    | .dev a => s.poke (s.slotOf cx) a bs
    | .host q a => s.setHost q (Memory.store (s.hostMem q) a bs)
    | .peer _ _ | .zero => s

/-- `n` bytes of which nothing is known. -/
def State.freeBytes (s : State) (n : Nat) : List Byte × State :=
  let (f, s) := s.drawFree
  ((List.range n).map fun i => Config.outsideByte ((f + 1) * 2 ^ 32 + i), s)

/-- A place of another module, reached by PEER requests. -/
def State.isRemote (s : State) (p : Place) : Bool :=
  match p with
  | .peer m _ => decide (m < 288) && m != s.boot.modid.toNat && s.reachable
  | _ => false

/-- Every byte of a range is written by some piece. -/
def covered (ps : List Piece) (p : Place) (n : Nat) : Bool :=
  (List.range n).all fun i => ps.any fun q =>
    q.dst.space == p.space && decide (q.dst.addr ≤ p.addr + i) && decide (p.addr + i < q.dst.addr + q.n)

/-- The aligned words that a piece touches at its destination, where they carry full/empty bits. -/
def Piece.words (q : Piece) : List Place :=
  let ws (a : Nat) (f : Nat → Place) : List Place := (List.range ((a + q.n + 7) / 8 - a / 8)).map fun i => f ((a / 8 + i) * 8)
  match q.dst with
  | .loc k | .clu k => ws k .loc
  | .dev a => if q.dfe then ws a .dev else []
  | .peer m a => ws a (.peer m)
  | .host _ _ | .zero => []

/-- The aligned words that pieces write whole, each once. -/
def wholeWords (ps : List Piece) : List Place := ((ps.flatMap Piece.words).dedup).filter fun w => covered ps w 8

/-- The sources of pieces read in order. -/
def State.readAll (s : State) (cx : Nat) (ps : List Piece) : List (Piece × Except Nat (List Byte)) × State :=
  ps.foldl (fun acc p =>
    let (r, s') := acc.2.readPlace cx p.src p.n
    (acc.1 ++ [(p, r)], s')) (([] : List (Piece × Except Nat (List Byte))), s)

/-- Destination sectors that are not written, since a source word of them is uncorrectable (R389). -/
def spoiledSectors (rs : List (Piece × Except Nat (List Byte))) : List (Nat × Nat) :=
  rs.filterMap fun r =>
    match r.2 with
    | .error 1 => some r.1.dst.sector
    | _ => none

/-- Pieces moved: every source is read, then every destination written; a piece that fails may leave some of its bytes. Answers each
sector with the code it settles with, and the pieces that were written. -/
def State.movePieces (s : State) (cx : Nat) (ps : List Piece) : List ((Nat × Nat) × Nat) × List Piece × State :=
  let (rs, s) := s.readAll cx ps
  let lost := spoiledSectors rs
  rs.foldl (fun acc pr =>
    let (cs, done, s) := acc
    match pr.2 with
    | .error c =>
      let s := if lost.contains pr.1.dst.sector then s else s.blur cx pr.1.dst ((s.bytesAt pr.1.src pr.1.n).getD [])
      (cs ++ [(pr.1.dst.sector, c)], done, s)
    | .ok bs =>
      if lost.contains pr.1.dst.sector then acc
      else
        let n := s.wroteAt cx pr.1.dst pr.1.n
        let (c, s) := s.writePlace cx pr.1.dst bs
        if c ≠ 0 then (cs ++ [(pr.1.dst.sector, c)], done, if c = 1 then s else s.blur cx pr.1.dst bs)
        else (cs ++ [(pr.1.dst.sector, 0)], done ++ [pr.1],
          (s.countPlace cx pr.1.src pr.1.n).countPlace cx pr.1.dst n)) ([], [], s)

/-- The lower of two codes that are not NONE. -/
def worse (a b : Nat) : Nat := if a = 0 then b else if b = 0 then a else min a b

/-- Sectors settled by the codes of their pieces: those in error first, lowest code first (R390), then the others. -/
def State.settleCodes (s : State) (bar : Option Nat) (cs : List ((Nat × Nat) × Nat)) : State :=
  let ks := (cs.map (·.1)).dedup
  let codes := ks.map fun k => cs.foldl (fun c e => if e.1 = k then worse c e.2 else c) 0
  let s := [1, 2, 3, 4, 5, 6].foldl (fun s c => s.settle bar (codes.count c) c) s
  s.settle bar (codes.count 0) 0

/-- The first command of a core's queue. -/
def State.headCmd (s : State) (core q : Nat) : Option Cmd := s.cmds.find? fun c => coreOf c.cx == core && c.queue == q

/-- A command changed. -/
def State.updCmd (s : State) (id : Nat) (f : Cmd → Cmd) : State :=
  { s with cmds := s.cmds.map fun k => if k.id = id then f k else k }

/-- A PEER request of a command, with where a load lands and the sectors that its answer settles. -/
def State.sendCmdPeer (s : State) (c : Cmd) (mod : Nat) (op : ShardOp) (tracked : Bool) (dst : Option Place) (dfe : Bool)
    (sectors : Nat) (secs : List (Nat × Nat)) : State :=
  let (_, s) := s.sendPeer c.cx mod op tracked none (some c.id)
  { s with outReqs := s.outReqs.modifyLast fun r => { r with dst := dst, dfe := dfe, sectors := sectors, secs := secs } }

/-- The requests of pieces whose source lies in another module, line by line of the source. -/
def State.sendLoads (s : State) (c : Cmd) (ps : List Piece) : State :=
  (ps.flatMap fun p => cutPiece 128 Piece.src (p.n / 128 + 2) p).foldl (fun s p =>
    match p.src with
    | .peer m a => s.sendCmdPeer c m (.load a p.n) false (some p.dst) p.dfe 0 (sectorsOf [p])
    | _ => s) s

/-- Bytes by address, of which the last written stays. -/
def byteMap (xs : List (Nat × List Byte)) : FMap Byte :=
  xs.foldl (fun m x => x.2.zipIdx.foldl (fun m b => FMap.put m (x.1 + b.2) b.1) m) []
/-- Bytes for adjacent addresses of one line joined. -/
def lineSegs (xs : List (Nat × List Byte)) : List (Nat × List Byte) :=
  (byteMap xs).foldr (fun e acc =>
    match acc with
    | [] => [(e.1, [e.2])]
    | (b, y) :: r => if e.1 + 1 = b ∧ e.1 / 128 = b / 128 then (e.1, e.2 :: y) :: r else (e.1, [e.2]) :: acc) []

/-- The sectors of bytes in another module. -/
def peerSectors (m a n : Nat) : List (Nat × Nat) := sectorsOf [{ src := .zero, dst := .peer m a, n := n }]

/-- The requests of pieces whose destination lies in another module, one for adjacent bytes of a line, whichever pieces they come from; they fill the words that they
write whole (R240). A sector with an uncorrectable source is settled and not sent. -/
def State.sendStores (s : State) (c : Cmd) (ps : List Piece) : State :=
  let (rs, s) := s.readAll c.cx (cutSectors ps)
  let lost := (spoiledSectors rs).dedup
  let s := s.settle c.barrier lost.length 1
  let good := rs.filterMap fun r =>
    match r.1.dst, r.2 with
    | .peer m a, .ok bs => if lost.contains r.1.dst.sector then none else some (m, a, bs, r.1.src)
    | _, _ => none
  let s := good.foldl (fun s g => s.countPlace c.cx g.2.2.2 g.2.2.1.length) s
  ((good.map (·.1)).dedup).foldl (fun s m =>
    (lineSegs ((good.filter fun g => g.1 == m).map fun g => (g.2.1, g.2.2.1))).foldl (fun s x =>
      s.sendCmdPeer c m (.store x.1 x.2 true) true none true 0 (peerSectors m x.1 x.2.length)) s) s

/-- A movement performed: the zero fills, then the pieces within this module and its hosts, with their sectors settled;
requests are sent for the others (R240, R242). -/
def State.performMove (s : State) (c : Cmd) (zeros pieces : List Piece) (fe : Bool) : State :=
  let far (p : Piece) : Bool := s.isRemote p.dst || s.isRemote p.src
  let here := cutSectors ((pieces.filter fun p => !far p).flatMap fun p => cutPiece 128 Piece.src (p.n / 128 + 2) p)
  let bits := if fe then (pieces.flatMap fun p => (List.range (p.n / 8)).map fun i =>
      (p.dst.off (8 * i), !p.sfe || s.placeFull (p.src.off (8 * i)), p.dfe)) else []
  let s := (s.movePieces c.cx zeros).2.2
  let (cs, done, s) := s.movePieces c.cx here
  let s :=
    if fe then (bits.filter fun b => b.2.2 && covered done b.1 8).foldl (fun s b => s.setPlaceFull c.cx b.1 b.2.1) s
    else (wholeWords (done ++ zeros)).foldl (fun s w => s.setPlaceFull c.cx w true) s
  let s := s.settleCodes c.barrier cs
  let s := s.updCmd c.id fun k => { k with written := zeros ++ done }
  let loads := pieces.filter fun p => s.isRemote p.src
  let stores := pieces.filter fun p => s.isRemote p.dst
  (s.sendLoads c loads).sendStores c stores

/-- The requests that write to a module which a command not yet performed will make (R325). -/
def Cmd.owes (c : Cmd) (mod : Nat) : Nat :=
  let lines (p : Place) (n : Nat) : Nat :=
    match p with
    | .peer m a => if m = mod ∧ n ≠ 0 then (a + n - 1) / 128 - a / 128 + 1 else 0
    | _ => 0
  if c.started then 0
  else
    match c.kind with
    | .move _ ps _ => (ps.map fun p => lines p.dst p.n).sum
    | .drain rows _ _ _ => (rows.map fun r => (r.1.map fun p => lines p.1 p.2).sum).sum
    | .reduce _ _ l _ _ => lines l 1
    | .gather _ _ _ _ _ | .rotate _ _ _ _ | .settle => 0

/-- Requests of a die that write to a module: unacknowledged, held back, or still to be made by commands (R325). -/
def State.owedTo (s : State) (die mod : Nat) : Nat :=
  (s.outReqs.filter fun r => r.tracked && r.mod == mod && dieOf r.cx == die).length +
  ((s.cmds.filter fun c => dieOf c.cx == die).map fun c => c.owes mod).sum

end Sys2Proof.Machine
end

