-- ==== Sys2Proof/Machine/Copy.lean ====
section
/-!
DEFINITION. Copy: tensor shape records, the copy commands, `mdrain.cp`, `rot.clu` and `red.add` (R185 to R187, R233,
R236 to R245, R408).
-/
namespace Sys2Proof.Machine

/-! ## Records read at issue (R408) -/

/-- 64-bit words of bytes. -/
def wordsOf (bs : List Byte) : List Nat := (List.range (bs.length / 8)).map fun i => leValue ((bs.drop (8 * i)).take 8)

/-- A record of `n` bytes read under R166 as a strand load reads them (R233, R338, R408). `absent` is taken where its run was not
resident at dispatch, or where it cannot be read for an uncorrectable error (Table 19-3). -/
def State.record (s : State) (slot : Nat) (addr : Word) (n : Nat) (absent : Nat → State → State)
    (f : Nat → List Nat → State → State) : State :=
  s.checked slot (s.devCheck s.iss.cx (addr.toNat : Int) n true false false) fun a =>
    match a.pa with
    | none => absent a.idx s
    | some pa =>
      match s.devRead s.iss.cx pa n with
      | (none, s) => absent a.idx s
      | (some bs, s) => f a.va (wordsOf bs) s

/-! ## Tensor shape records (R236, R237) -/

/-- A tensor shape record. `clean` says that its zero fields are zero. -/
structure Tsr where
  dty : Ty
  sp : Nat
  mod : Nat
  clip : Bool
  bslot : Nat
  brow : Nat
  bar : Bool
  d0 : Nat
  d1 : Nat
  d2 : Nat
  s1 : Nat
  s2 : Nat
  o0 : Int
  o1 : Int
  o2 : Int
  b0 : Nat
  b1 : Nat
  b2 : Nat
  clean : Bool
deriving DecidableEq, Repr

def Tsr.of (w : List Nat) : Tsr :=
  let g (i : Nat) : Nat := w.getD i 0
  { dty := Wf.tyOf (BitVec.ofNat 4 (bits (g 0) 63 60)), sp := bits (g 0) 59 58, mod := bits (g 0) 57 49
    clip := bit (g 0) 48, bslot := bits (g 0) 47 45, brow := bits (g 0) 44 32, bar := bit (g 0) 31
    d0 := bits (g 1) 31 0, d1 := bits (g 1) 63 32, d2 := bits (g 2) 31 0, s1 := g 3, s2 := g 4
    o0 := sextN 32 (g 5), o1 := sextN 32 (bits (g 5) 63 32), o2 := sextN 32 (g 6)
    b0 := bits (g 7) 15 0, b1 := bits (g 7) 31 16, b2 := bits (g 7) 47 32
    clean := bits (g 0) 30 0 == 0 && bits (g 2) 63 32 == 0 && bits (g 6) 63 32 == 0 && bits (g 7) 63 48 == 0 }

/-- Byte width of an element. -/
def Tsr.es (t : Tsr) : Nat := t.dty.width / 8

/-- The checks of R237 that every user makes. -/
def Tsr.valid (t : Tsr) : Bool :=
  t.clean && decide (t.sp < 2) && t.dty.width != 4 && t.b0 != 0 && t.b1 != 0 && t.b2 != 0

/-- The elements b0 of a box row that are in bounds, as the first and the number of them. -/
def Tsr.span (t : Tsr) : Nat × Nat :=
  let lo := (max 0 (-t.o0)).toNat
  let hi := (min (t.b0 : Int) ((t.d0 : Int) - t.o0)).toNat
  (lo, hi - lo)

/-- A coordinate lies within an extent. -/
def inDim (x : Int) (d : Nat) : Bool := decide (0 ≤ x) && decide (x < d)

/-- The memory address of element (lo, b1, b2) of the box (R237). -/
def Tsr.addr (t : Tsr) (base b1 b2 : Nat) : Nat :=
  ((base : Int) + (t.o0 + (t.span.1 : Int)) * t.es + (t.o1 + b1) * t.s1 + (t.o2 + b2) * t.s2).toNat

/-- One row of a box: its index, the byte offset and length of its elements in bounds, and their address. -/
structure BoxRow where
  idx : Nat
  at_ : Nat
  n : Nat
  addr : Nat
deriving DecidableEq, Repr

/-- The rows of a box of `n2` planes that have elements in bounds. -/
def Tsr.rows (t : Tsr) (base n2 : Nat) : List BoxRow :=
  if t.span.2 = 0 then []
  else
    (List.range (t.b1 * n2)).filterMap fun i =>
      let b1 := i % t.b1
      let b2 := i / t.b1
      if inDim (t.o1 + b1) t.d1 && inDim (t.o2 + b2) t.d2 then
        some { idx := i, at_ := t.span.1 * t.es, n := t.span.2 * t.es, addr := t.addr base b1 b2 }
      else none

/-- The out-of-bounds bytes of a box, as row, offset and length. -/
def Tsr.fills (t : Tsr) (rows : List BoxRow) : List (Nat × Nat × Nat) :=
  (List.range (t.b1 * t.b2)).flatMap fun i =>
    match rows.find? fun r => r.idx == i with
    | none => [(i, 0, t.b0 * t.es)]
    | some r => [(i, 0, r.at_), (i, r.at_ + r.n, t.b0 * t.es - r.at_ - r.n)].filter fun f => f.2.2 != 0

/-! ## Moving a box (R241, R242) -/

/-- What a tensor command will do: its pieces and fills, its sectors and bytes, the code that all of its sectors settle
with, the run that drops it, and its setup ticks. -/
structure Plan where
  pieces : List Piece := []
  zeros : List Piece := []
  sectors : Nat := 0
  nbytes : Nat := 0
  code : Nat := 0
  absent : Option Nat := none
  setup : Nat := 0

/-- Pieces between a scratchpad key and consecutive physical parts. -/
def zipParts (store : Bool) (key : Nat) : List (Nat × Nat × Bool) → List Piece
  | [] => []
  | (pa, n, fe) :: r =>
    (if store then { src := .loc key, dst := .dev pa, n := n, dfe := fe } else { src := .dev pa, dst := .loc key, n := n, sfe := fe }) ::
      zipParts store (key + n) r

/-- The plan of a tensor movement, with the checks it fails (R237). `recVa` is the record's address. -/
def State.tsrPlan (s : State) (recVa : Nat) (t : Tsr) (store : Bool) (base first : Nat) :
    List (Option (Cause × Nat × Nat)) × Plan :=
  let ok := t.valid && decide (t.b0 * t.es ≤ 128) && decide (t.b1 * t.b2 ≤ 8192)
  if !ok then ([protUnless false recVa], {})
  else
    let rows := t.rows base t.b2
    let peer := t.sp == 1
    let rowOf (i : Nat) : Nat := (first + i) % 8192
    let key (i : Nat) : Checked Nat := (s.locCheck s.iss.cx (coreIdx s.iss.cx) (rowOf i) 0).map (·.1)
    let spans := rows.map fun r => if peer then .ok {} else s.devSpan store r.addr r.n
    let fills := if !store && t.clip then t.fills rows else []
    let errs := spans.map failed ++ rows.map (fun r => failed (key r.idx)) ++ fills.map (fun f => failed (key f.1))
    let absent := (spans.filterMap fun c => (okOr {} c).absent).head?
    let whole (r : BoxRow) : Piece :=
      let m : Place := if peer then .peer t.mod r.addr else .dev r.addr
      let l : Place := .loc (okOr 0 (key r.idx) + r.at_)
      if store then { src := l, dst := m, n := r.n } else { src := m, dst := l, n := r.n }
    let pieces := (rows.zip spans).flatMap fun p =>
      if peer then [whole p.1] else zipParts store (okOr 0 (key p.1.idx) + p.1.at_) (okOr {} p.2).parts
    let setup := 8 + setupOf (if peer then .peer 0 0 else .dev 0) ((spans.head?.map fun c => (okOr {} c).lclass).getD 0)
    let zeros := fills.map fun f => { src := Place.zero, dst := .loc (okOr 0 (key f.1) + f.2.1), n := f.2.2 : Piece }
    (errs,
      match absent with
      | some i => { sectors := (sectorsOf (rows.map whole)).length, code := 5, absent := some i }
      | none =>
        if rows.isEmpty then { zeros := zeros, sectors := 1, code := 3 }
        else { pieces := pieces, zeros := zeros, sectors := (sectorsOf pieces).length,
               nbytes := (rows.map (·.n)).foldl (· + ·) 0, setup := setup })

/-- A planned movement entered in a queue: its promised tick, and the state. -/
def State.enter (s : State) (q : Nat) (p : Plan) (bar : Option Nat) (evt : Option Nat) : Nat × State :=
  let P := s.promiseTick q p.setup p.nbytes
  let s := match p.absent with
    | some i => s.dropRun s.iss.cx i
    | none => s
  (P, s.enqueue q (.move p.zeros p.pieces false) bar p.sectors p.code P evt true)

/-- The result of an issue whose record was not resident (R408): max(clock(), Q). -/
def State.recordAbsent (s : State) (q idx : Nat) (d : Option Dst) : State :=
  ((s.dropRun s.iss.cx idx).hw .resFlag).issued d (s.promiseTick q 0 0)

/-- A tensor movement by an instruction: record, checks, entry. -/
def State.tsrMove (s : State) (tw : Twin) (d : Dst) (q : Nat) (store : Bool) (recAddr base : Word) (first : Nat)
    (bar : Option (Nat × Nat)) (evt : Option Nat) : State :=
  let slot := slotC tw
  let b := match bar with
    | none => .ok none
    | some (r, k) => s.barIf true r k
  s.record slot recAddr 64
    (fun i s => s.unless slot [failed b] fun s =>
      let s := s.enqueue q .settle (okOr none b) (if bar.isSome then 1 else 0) 5 (s.promiseTick q 0 0) evt true
      s.recordAbsent q i (some d))
    (fun va w s =>
      let (errs, p) := s.tsrPlan va (Tsr.of w) store base.toNat first
      s.unless slot (errs ++ [failed b]) fun s =>
        let (P, s) := s.enter q p (okOr none b) evt
        s.issued (some d) P)

def execCpTsr (o : OpCE) (s : State) : Out :=
  guarded o.p (fun s =>
    let slot := slotC o.tw
    s.chkG slot (s.rdG o.a) fun s => s.chkG slot (s.rdG o.b) fun s => s.chkG slot (s.rdG o.c) fun s =>
      let c := (s.rdG o.c).val.toNat
      let bar := if bit c 32 then some (bits c 28 16, bits c 31 29) else none
      s.tsrMove o.tw o.d (if o.m.getLsbD 1 then 1 else 0) (o.m.getLsbD 0) (s.rdG o.a).val (s.rdG o.b).val (bits c 12 0)
        bar none) s

/-! ## Descriptors and schedules (R243, R244) -/

/-- A copy descriptor (Table 09-9). -/
structure Desc where
  bar : Option (Nat × Nat)
  row : Nat
  store : Bool
  last : Bool
  qb : Nat
  stage : Nat
  tsr : Nat
  base : Nat
  evt : Option Nat
deriving DecidableEq, Repr

def Desc.of (w : List Nat) : Desc :=
  let a := w.getD 0 0
  let e := w.getD 3 0
  { bar := if bit a 61 then some (bits a 60 48, bits a 47 45) else none
    row := bits a 44 32, store := bit a 19, last := bit a 18, qb := bits a 16 16, stage := bits a 15 0
    tsr := w.getD 1 0, base := w.getD 2 0, evt := if bit e 5 then some (bits e 4 0) else none }

def execCpGo (o : OpCE) (s : State) : Out :=
  guarded o.p (fun s =>
    let slot := slotC o.tw
    s.chkG slot (s.rdG o.a) fun s => s.chkG slot (s.rdG o.b) fun s =>
      s.record slot (s.rdG o.a).val 32
        (fun i s => s.recordAbsent 0 i (some o.d))
        (fun _ w s =>
          let k := Desc.of w
          s.tsrMove o.tw o.d k.qb k.store (BitVec.ofNat 64 k.tsr) (BitVec.ofNat 64 k.base + (s.rdG o.b).val) k.row k.bar
            k.evt)) s

/-- Bytes of a record that a schedule entry names, or none where they cannot be read (R244). -/
def State.schedBytes (s : State) (va n : Nat) : Option (List Byte) × State :=
  match s.devCheckWith false false s.iss.cx (va : Int) n true false false with
  | .error _ => (none, s)
  | .ok a =>
    match a.pa with
    | none => (none, s)
    | some pa =>
      let die := dieOf s.iss.cx
      if s.unreadable die pa n then (none, s.readMet die pa n (s.slotOf s.iss.cx)) else (some (s.peek pa n), s)

/-- A schedule entry, and whether all of it could be read; none where its first word, which names its barrier, stage and queue, could not
(assumption 19). -/
def State.schedEntry (s : State) (va : Nat) : Option (Desc × Bool) × State :=
  match s.devCheckWith false false s.iss.cx (va : Int) 32 true false false with
  | .error _ => (none, s)
  | .ok a =>
    match a.pa with
    | none => (none, s)
    | some pa =>
      let die := dieOf s.iss.cx
      let t := if s.unreadable die pa 32 then s.readMet die pa 32 (s.slotOf s.iss.cx) else s
      if s.unreadable die pa 8 then (none, t)
      else if s.spoiled pa 32 then (some (Desc.of (wordsOf (s.peek pa 8)), false), t)
      else (some (Desc.of (wordsOf (s.peek pa 32)), true), t)

/-- One entry released as a C0 command: its promised tick (R244, R389). One that could not be read whole settles a sector with XLAT. -/
def State.releaseEntry (s : State) (k : Desc) (read : Bool) : Nat × State :=
  let bar := match k.bar with
    | none => none
    | some (r, sl) => okOr none (s.barIf true r sl)
  let fail (n code : Nat) (s : State) : Nat × State :=
    let P := s.promiseTick k.qb 0 0
    (P, s.enqueue k.qb .settle bar n code P k.evt true)
  match (if read then s.schedBytes (k.tsr / 64 * 64) 64 else (none, s)) with
  | (none, s) => fail 1 5 s
  | (some bs, s) =>
    let (errs, p) := s.tsrPlan k.tsr (Tsr.of (wordsOf bs)) k.store k.base k.row
    match firstCause errs with
    | none => s.enter k.qb p bar k.evt
    | some (c, _, _) => fail 1 (if c = .sealed ∨ c = .computeOnly then 4 else 5) s

/-- The copy schedule's address, from the task record; 0 where there is none. -/
def State.schedBase (s : State) : Nat :=
  match s.taskOf s.iss.cx with
  | none => 0
  | some t => t.sched

/-- Entries released at the pointer while their STAGE is at or below `stage`; the greatest promise among them. An entry
whose first word cannot be read ends the schedule (assumption 19). -/
def State.releaseUpTo (s : State) (stage : Nat) : Nat → Option Nat → Option Nat × State
  | 0, best => (best, s)
  | fuel + 1, best =>
    let st := s.cur.st
    if st.schedDone ∨ s.schedBase = 0 then (best, s)
    else
      match s.schedEntry (s.schedBase + 32 * st.schedNext) with
      | (none, s) => (best, s.updSt fun st => { st with schedDone := true })
      | (some (k, read), s) =>
        if stage < k.stage then (best, s)
        else
          let (P, s) := s.releaseEntry k read
          let s := s.updSt fun st => { st with schedNext := st.schedNext + 1, schedDone := k.last }
          s.releaseUpTo stage fuel (some (max P (best.getD 0)))

/-- A bound on the entries that one release can read: as many as fit in the strand's runs. -/
def State.schedFuel (s : State) : Nat := (s.cur.runs.map fun r => r.size / 32 + 1).sum + 1

def execCpAdv (o : OpNT) (s : State) : Out :=
  guarded o.p (fun s =>
    let stage := (s.cur.st.ctl.stage.toNat + 1) % 65536
    let s := s.hw (.stage (BitVec.ofNat 16 stage))
    match s.releaseUpTo stage s.schedFuel none with
    | (none, s) => s
    | (some P, s) => s.hw (.due (BitVec.ofNat 64 P))) s
def execCnop (o : OpNT) (s : State) : Out := guarded o.p (fun s => s) s

/-! ## `cp` (R240) -/

/-- One side of a `cp`: its checks, its place or DEVICE parts, and its setup ticks. -/
structure Side where
  err : Option (Cause × Nat × Nat) := none
  place : Option Place := none
  parts : List (Nat × Nat × Bool) := []
  absent : Option Nat := none
  setup : Nat := 0

def State.cpSide (s : State) (space : Nat) (g : Word) (c : Nat) (n : Nat) (wr : Bool) : Side :=
  let x := g.toNat
  match space with
  | 0 =>
    let k := s.locSpan (coreIdx s.iss.cx) (x % 0x100000) n
    { err := failed k, place := some (.loc (okOr 0 k)), setup := 8 }
  | 1 =>
    let k := s.locSpan (bits x 22 20) (x % 0x100000) n
    { err := failed k, place := some (.clu (okOr 0 k)), setup := 8 }
  | 2 =>
    let r := s.devSpan wr x n
    { err := failed r, parts := (okOr {} r).parts, absent := (okOr {} r).absent
      setup := setupOf (.dev 0) (okOr {} r).lclass }
  | 3 => { place := some (.peer (bits c 25 17) x), setup := 2000 }
  | _ => { place := some (.host (bits c 26 26) x), setup := 4000 }

/-- A place against consecutive DEVICE parts. -/
def partPieces (place : Place) (store : Bool) : List (Nat × Nat × Bool) → List Piece
  | [] => []
  | (pa, n, fe) :: r =>
    (if store then { src := place, dst := .dev pa, n := n, dfe := fe } else { src := .dev pa, dst := place, n := n, sfe := fe }) ::
      partPieces (place.off n) store r

/-- Pieces between two sides: each is one place, or DEVICE parts. -/
def cpPieces (src dst : Side) (n : Nat) : List Piece :=
  match src.place, dst.place with
  | some a, some b => [{ src := a, dst := b, n := n }]
  | some a, none => partPieces a true dst.parts
  | none, some b => partPieces b false src.parts
  | none, none => cut src.parts dst.parts (src.parts.length + dst.parts.length)
where
  /-- DEVICE parts against DEVICE parts. -/
  cut (a b : List (Nat × Nat × Bool)) : Nat → List Piece
    | 0 => []
    | k + 1 =>
      match a, b with
      | (pa, n, fa) :: r, (pb, m, fb) :: q =>
        let l := min n m
        { src := .dev pa, dst := .dev pb, n := l, sfe := fa, dfe := fb } ::
          cut (if n = l then r else (pa + l, n - l, fa) :: r) (if m = l then q else (pb + l, m - l, fb) :: q) k
      | _, _ => []

/-- The sectors of a destination range by its own address. -/
def rangeSectors (a n : Nat) : Nat := if n = 0 then 0 else (a + n - 1) / 32 - a / 32 + 1

def execCp (o : OpCE) (s : State) : Out :=
  guarded o.p (fun s =>
    let slot := slotC o.tw
    s.chkG slot (s.rdG o.a) fun s => s.chkG slot (s.rdG o.b) fun s => s.chkG slot (s.rdG o.c) fun s =>
      let a := (s.rdG o.a).val
      let b := (s.rdG o.b).val
      let c := (s.rdG o.c).val.toNat
      let n := bits c 63 32
      let q := if o.m.getLsbD 8 then 1 else 0
      let fe := o.m.getLsbD 9
      let src := s.cpSide (o.m.extractLsb' 5 3).toNat a c n false
      let dst := s.cpSide (o.m.extractLsb' 2 3).toNat b c n true
      let bar := s.barIf (bit c 16) (bits c 12 0) (bits c 15 13)
      let aligned := !fe || (a.toNat % 8 == 0 && b.toNat % 8 == 0 && n % 8 == 0)
      let dropped := src.absent.or dst.absent
      s.unless slot [src.err, dst.err, failed bar, protUnless aligned b.toNat] fun s =>
        let P := s.promiseTick q (if dropped.isSome then 0 else src.setup + dst.setup) (if dropped.isSome then 0 else n)
        let s := match dropped with
          | some i => (s.dropRun s.iss.cx i).enqueue q .settle (okOr none bar) (rangeSectors b.toNat n) 5 P none true
          | none => s.enqueue q (.move [] (cpPieces src dst n) fe) (okOr none bar) (rangeSectors b.toNat n) 0 P none true
        s.issued (some o.d) P) s

/-! ## `mdrain.cp` (R233) -/

/-- A tile as it stands in program order: with the updates in flight applied (R233). -/
def Strand.tileNow (st : Strand) : FMap (BitVec 32) :=
  st.flight.foldl (fun acc e => (tileUpdate acc e.op).1) st.acc

/-- The words of tiles that hold an uncorrectable error, in program order. -/
def Strand.errorsNow (st : Strand) : List Nat := st.flight.foldl (fun bad e => tileErrors bad e.op) st.accBad

/-- A tile element converted to DTY (R233). -/
def drainElem (t : Ty) (x : BitVec 32) : Nat :=
  if t.isInt then (clampTo t x.toInt).1 else (convert .f t .rne 0 x.toNat).1

/-- Bytes from an address cut at the lines of 128 bytes, the elements of `es` bytes whole. -/
def cutLines (es a : Nat) : Nat → Nat → List (Nat × Nat)
  | 0, _ => []
  | fuel + 1, n =>
    let k := min n ((128 - a % 128 + es - 1) / es * es)
    if n = 0 then [] else (a, k) :: cutLines es (a + k) fuel (n - k)

/-- The places of a row's bytes in memory: its lines in another module, or the parts of its pages. -/
def rowPlaces (t : Tsr) (addr : Nat) (r : DevRange) (n : Nat) : List (Place × Nat) :=
  if t.sp = 1 then (cutLines t.es addr n n).map fun p => (.peer t.mod p.1, p.2) else r.parts.map fun p => (.dev p.1, p.2.1)

/-- The bytes that each place of a row takes. -/
def rowData : List (Place × Nat) → List Byte → List (Place × List Byte)
  | [], _ => []
  | (p, n) :: ps, bs => (p, bs.take n) :: rowData ps (bs.drop n)

/-- The bytes of a row's places cut at the sectors. -/
def cutRow (ps : List (Place × Nat)) (bs : List Byte) : List (Place × List Byte) :=
  (rowData ps bs).flatMap fun d =>
    rowData ((cutSectors [{ src := .zero, dst := d.1, n := d.2.length }]).map fun p => (p.dst, p.n)) d.2

/-- The sectors of such pieces that hold a marked byte of the row. -/
def markedSectors (cells : List (Place × List Byte)) (marks : List Byte) : List (Nat × Nat) :=
  (rowData (cells.map fun c => (c.1, c.2.length)) marks).filterMap fun d =>
    if d.2.any (· != 0) then some d.1.sector else none

def execMdrainCp (o : OpMC) (s : State) : Out :=
  guarded o.p (fun s => s.chkG 3 (s.rdG o.b) fun s => s.chkG 3 (s.rdG o.c) fun s =>
    s.record 3 (s.rdG o.b).val 64 (fun i s => s.recordAbsent 3 i none) fun va w s =>
      let t := Tsr.of w
      let ok := t.valid && decide (t.b0 ≤ 64) && decide (t.b1 ≤ 64) && (!o.add || t.dty.redTy)
      let rows := if ok then t.rows (s.rdG o.c).val.toNat 1 else []
      let spans := rows.map fun r => if t.sp = 1 then .ok {} else s.devSpan true r.addr r.n
      let bar := s.barIf t.bar t.brow t.bslot
      s.unless 3 (protUnless ok va :: failed bar :: spans.map failed) fun s =>
        let acc := s.cur.st.tileNow
        let data (r : BoxRow) : List Byte :=
          leBytes r.n (ofLanes t.dty.width ((List.range t.span.2).map fun j =>
            drainElem t.dty (FMap.getD acc (accKey o.t.toNat r.idx (t.span.1 + j)) 0)))
        let parts := (rows.zip spans).map fun p => (rowPlaces t p.1.addr (okOr {} p.2) p.1.n, data p.1)
        let errors := s.cur.st.errorsNow
        let words (r : BoxRow) : List Nat := (List.range t.span.2).map fun j => accKey o.t.toNat r.idx (t.span.1 + j) / 2
        let marks (r : BoxRow) : List Byte := (words r).flatMap fun w => List.replicate t.es (if inSet errors w then 1 else 0)
        let lost := ((parts.zip rows).flatMap fun p => markedSectors (cutRow p.1.1 p.1.2) (marks p.2)).dedup
        let s := s.storeEcc s.iss.cx (coreOf s.iss.cx) (((rows.flatMap words).dedup.filter fun w => inSet errors w).length)
        let flat (r : BoxRow) : Piece := { src := .zero, dst := .dev r.addr, n := r.n }
        let absent := (spans.filterMap fun c => (okOr {} c).absent).head?
        let n := (rows.map (·.n)).foldl (· + ·) 0
        let sectors := (sectorsOf (rows.map flat)).length
        let setup := 8 + setupOf (if t.sp = 1 then .peer 0 0 else .dev 0)
          ((spans.head?.map fun c => (okOr {} c).lclass).getD 0)
        let b := okOr none bar
        let (P, s) : Nat × State :=
          match absent with
          | some i =>
            let P := s.promiseTick 3 0 0
            (P, (s.dropRun s.iss.cx i).enqueue 3 .settle b sectors 5 P none true)
          | none =>
            let P := s.promiseTick 3 setup n
            if rows.isEmpty then (P, s.enqueue 3 .settle b 1 3 P none true)
            else (P, s.enqueue 3 (.drain parts t.dty o.add lost) b sectors 0 P none true)
        s.issued none P) s

/-- A line of a drained row stored or added in this module under the job's PEER mapping; the code its sectors settle with. -/
def State.drainPeer (s : State) (cx mod addr : Nat) (data : List Byte) (ty : Ty) (add : Bool) : Nat × State :=
  if mod ≠ s.boot.modid.toNat then (5, s.remFail cx)
  else
    let n := s.peerWrote cx addr data.length
    match s.homeApply (dieOf cx) (s.pasnOf cx) (if add then .addElems ty addr data else .store addr data false) with
    | (.done, _, s) => (0, s.count cx .peer n)
    | (e, _, s) => (e.code, s.peerEnd cx e)

/-- The bytes of the whole elements that hold a marked byte marked. -/
def spreadMarks (es : Nat) (marks : List Byte) : List Byte :=
  (List.range marks.length).map fun i => if ((marks.drop (i / es * es)).take es).any (· != 0) then 1 else 0

/-- A drained row stored or added in DEVICE, sector by sector; each with the code it settles with. A sector of an element that could
not be read, in the tile or in memory, is not written (R389). -/
def State.drainRow (s : State) (cx : Nat) (r : List (Place × Nat) × List Byte) (ty : Ty) (add : Bool) (lost : List (Nat × Nat)) :
    List ((Nat × Nat) × Nat) × State :=
  let cells := cutRow r.1 r.2
  let (cells, lost, s) : List (Place × List Byte) × List (Nat × Nat) × State :=
    if !add then (cells, lost, s)
    else
      let (old, marks, s) := cells.foldl (fun acc c =>
        let (old, marks, s) := acc
        match s.readPlace cx c.1 c.2.length with
        | (.ok bs, s) => (old ++ bs, marks ++ c.2.map fun _ => 0, s)
        | (.error _, s) => (old ++ c.2, marks ++ c.2.map fun _ => 1, s)) (([] : List Byte), ([] : List Byte), s)
      (rowData (cells.map fun c => (c.1, c.2.length)) (redElems ty old r.2),
        lost ++ markedSectors cells (spreadMarks (ty.width / 8) marks), s)
  cells.foldl (fun acc c =>
    if lost.contains c.1.sector then (acc.1 ++ [(c.1.sector, 1)], acc.2)
    else
      let n := acc.2.wroteAt cx c.1 c.2.length
      let (code, s) := acc.2.writePlace cx c.1 c.2
      (acc.1 ++ [(c.1.sector, code)], if code = 0 then s.countPlace cx c.1 n else s)) (([] : List ((Nat × Nat) × Nat)), s)

/-- A place of a PEER line. -/
def Place.isPeer : Place → Bool
  | .peer _ _ => true
  | _ => false

/-- What of a PEER line a drain stores or adds: all of it, or, where an element of it could not be read, the sectors without such
an element that are stored; a line with one is not added to. -/
def drainSegs (add : Bool) (lost : List (Nat × Nat)) (l : Place × List Byte) : List (Nat × List Byte) :=
  let cells := cutRow [(l.1, l.2.length)] l.2
  let good := cells.filter fun c => !lost.contains c.1.sector
  if good.length = cells.length then [(l.1.addr, l.2)]
  else if add then []
  else lineSegs (good.map fun c => (c.1.addr, c.2))

/-- A drain performed (R233): rows of DEVICE, and the lines of PEER rows in this module, with their sectors settled; requests are
sent for the lines in another module. -/
def State.performDrain (s : State) (c : Cmd) (rows : List (List (Place × Nat) × List Byte)) (ty : Ty) (add : Bool)
    (lost : List (Nat × Nat)) : State :=
  let lines := (rows.filter fun r => r.1.any fun p => p.1.isPeer).flatMap fun r => rowData r.1 r.2
  let segs := lines.flatMap fun l =>
    match l.1 with
    | .peer m _ => (drainSegs add lost l).map fun x => (m, x.1, x.2)
    | _ => []
  let sent := segs.flatMap fun g => peerSectors g.1 g.2.1 g.2.2.length
  let unsent := ((sectorsOf (lines.map fun l => { src := .zero, dst := l.1, n := l.2.length })).filter fun k =>
    !sent.contains k || lost.contains k)
  let far (g : Nat × Nat × List Byte) : Bool := s.isRemote (.peer g.1 g.2.1)
  let (cs, s) := (rows.filter fun r => !r.1.any fun p => p.1.isPeer).foldl (fun acc r =>
    let (x, s) := acc.2.drainRow c.cx r ty add lost
    (acc.1 ++ x, s)) (([] : List ((Nat × Nat) × Nat)), s)
  let (cs, s) := (segs.filter fun g => !far g).foldl (fun acc g =>
    let (m, a, bs) := g
    let (code, s) := acc.2.drainPeer c.cx m a bs ty add
    (acc.1 ++ (peerSectors m a bs.length).map fun k => (k, code), s)) (cs, s)
  let s := s.settleCodes c.barrier (cs ++ unsent.map fun k => (k, 1))
  (segs.filter far).foldl (fun s g =>
    let (m, a, bs) := g
    s.sendCmdPeer c m (if add then .addElems ty a bs else .store a bs false) true none true 0
      ((peerSectors m a bs.length).filter fun k => !unsent.contains k)) s

/-! ## `red.add` (R186, R187) -/

def execRedAdd (o : OpCE) (s : State) : Out :=
  guarded o.p (fun s =>
    let slot := slotC o.tw
    s.chkG slot (s.rdG o.a) fun s => s.chkG slot (s.rdG o.b) fun s => s.chkG slot (s.rdG o.c) fun s =>
      let a := (s.rdG o.a).val.toNat
      let line := bits (s.rdG o.b).val.toNat 55 7 * 128
      let flag := bits (s.rdG o.c).val.toNat 55 3 * 8
      let ty := Wf.tyOf (o.m.extractLsb' 8 4)
      let cnt := (o.m.extractLsb' 0 8).toNat + 1
      let row := (s.locCheck s.iss.cx (coreIdx s.iss.cx) (bits a 12 0) 0).map (·.1)
      let bar := s.barIf (bit a 32) (bits a 28 16) (bits a 31 29)
      let mod := bits a 41 33
      let go (line : Place) (flag : Option Place) (s : State) : State :=
        s.enqueue 4 (.reduce ty (okOr 0 row) line flag cnt) (okOr none bar) 4 0 (s.lastPromise 4) none false
      if bit a 42 then
        s.unless slot [failed row, failed bar] (go (.peer mod line) (if flag = 0 then none else some (.peer mod flag)))
      else
        let l := s.devCheckWith true false s.iss.cx (line : Int) 128 false true false
        let f : Checked (Option DevAt) :=
          if flag = 0 then .ok none else (s.devCheckWith true false s.iss.cx (flag : Int) 8 false true false).map some
        s.unless slot [failed l, failed f, failed row, failed bar] fun s =>
          match l, f with
          | .ok l, .ok f =>
            let absent := if l.pa.isNone then some l.idx else f.bind fun d => if d.pa.isNone then some d.idx else none
            match absent with
            | some i =>
              (s.dropRun s.iss.cx i).enqueue 4 .settle (okOr none bar) 4 5 (s.lastPromise 4) none false
            | none => go (.dev (l.pa.getD 0)) (f.map fun d => .dev (d.pa.getD 0)) s
          | _, _ => s) s

/-- A contribution of a command performed at its home, or none where the home has no counter free and it waits. -/
def State.performReduce (s : State) (c : Cmd) (ty : Ty) (row : Nat) (line : Place) (flag : Option Place) (cnt : Nat) :
    Option State :=
  match s.readPlace c.cx (.loc row) 128 with
  | (.error e, s) => some (s.settle c.barrier c.sectors e)
  | (.ok bs, s) =>
    let fa := flag.map Place.addr
    match line with
    | .peer m a =>
      let op : ShardOp := .reduce ty a bs (fa.getD 0) cnt
      if s.isRemote line then some (s.sendCmdPeer c m op true none true c.sectors [])
      else if m = s.boot.modid.toNat then
        match s.homeApply (dieOf c.cx) (s.pasnOf c.cx) op with
        | (.done, _, s) => some (((s.settle c.barrier c.sectors 0).count c.cx .local_ 128).count c.cx .peer 128)
        | (.waits, _, _) => none
        | (e, _, s) => some ((s.peerEnd c.cx e).settle c.barrier c.sectors e.code)
      else some ((s.remFail c.cx).settle c.barrier c.sectors 5)
    | p =>
      if s.unreadable (dieOf c.cx) p.addr 128 then
        some ((s.readMet (dieOf c.cx) p.addr 128 (s.slotOf c.cx)).settle c.barrier c.sectors 1)
      else if s.redRoom p.addr fa then
        let s := s.redApply (s.slotOf c.cx) ty p.addr bs fa cnt
        some (((s.settle c.barrier c.sectors 0).count c.cx .local_ 128).count c.cx .device 128)
      else none

/-! ## `rot.clu` (R185) -/

def execRotClu (o : OpCE) (s : State) : Out :=
  guarded o.p (fun s =>
    let slot := slotC o.tw
    s.chkG slot (s.rdG o.a) fun s => s.chkG slot (s.rdG o.c) fun s =>
      let n := bits (s.rdG o.b).val.toNat 13 0
      let c := (s.rdG o.c).val.toNat
      let bar := s.barKey (bits c 12 0) (bits c 15 13)
      s.unless slot [failed bar] fun s =>
        let k := s.cur.st.rots
        let s := s.enqueue 1 (.rotate k (bits (s.rdG o.a).val.toNat 12 0) n (o.m.getLsbD 0)) (some (okOr 0 bar)) (4 * n) 0
          (s.lastPromise 1) none false
        s.updSt fun st => { st with rots := st.rots + 1 }) s

/-- The rotation that heads a context's copy-B queue: its command, index, first row, rows and direction. -/
def State.headRot (s : State) (cx : Nat) : Option (Cmd × Nat × Nat × Nat × Bool) :=
  match s.headCmd (coreOf cx) 1 with
  | none => none
  | some c =>
    match c.kind with
    | .rotate k first n down => if c.cx = cx then some (c, k, first, n, down) else none
    | _ => none

/-- The key of a row of a member's own scratchpad, where the crew holds it. -/
def State.memberRow (s : State) (cx row : Nat) : Option Nat :=
  if row < (s.ctx cx).rows then some (locKey (coreOf cx) ((s.ctx cx).rowBase + row) 0) else none

/-- What a member's row receives: the rows that other members send to it, in the order in which they are written. A member whose
command has DIR 0 sends to the next member, one with DIR 1 to the one before (R185). Two that send to one member differ in DIR;
which of their rows is written last is free (assumption 72). -/
def rotSources (dirs : List Bool) (first : Bool) (d : Nat) : List Nat :=
  let S := dirs.length
  let src := (List.range S).filter fun m => (if dirs.getD m false then (m + S - 1) % S else (m + 1) % S) == d
  if first then src else src.reverse

/-- Rows moved between members, each read before any is written, and counted on the receiving member's barrier. -/
def State.rotateRows (s : State) (ms : List (Nat × Cmd)) (dirs : List Bool) (first n : Nat) : State :=
  let rows := (List.range n).map fun i => (first + i) % 8192
  let (data, s) := ms.foldl (fun acc m =>
    let (rs, s) := rows.foldl (fun a r =>
      let (x, s) := a.2.readPlace m.1 (.loc ((a.2.memberRow m.1 r).getD 0)) 128
      (a.1 ++ [x], s)) (([] : List (Except Nat (List Byte))), acc.2)
    (acc.1 ++ [rs], s)) (([] : List (List (Except Nat (List Byte)))), s)
  let (f, s) := s.drawFree
  (List.range ms.length).foldl (fun s d =>
    (rotSources dirs ((Config.choice f).testBit d) d).foldl (fun s m =>
      match ms[m]?, ms[d]? with
      | some src, some dst =>
        (rows.zip (data.getD m [])).foldl (fun s p =>
          match p.2 with
          | .error e => s.settle dst.2.barrier 4 e
          | .ok bs =>
            let s := s.locStore ((s.memberRow dst.1 p.1).getD 0) bs
            ((s.settle dst.2.barrier 4 0).count src.1 .local_ 128).count dst.1 .cluster 128) s
      | _, _ => s) s) s

/-- The matched rotations of a task's crew performed, or settled ABORTED (R185). Nothing happens until every live member's
rotation heads its queue. -/
def execRotCluMatch (task : Nat) (s : State) : Out :=
  let cxs := (s.ctxs.filter fun e => e.2.task == some task).map (·.1)
  let cxs := (List.range 8).filterMap fun m => cxs.find? fun cx => (s.ctx cx).st.ctl.member.toNat == m
  let live := cxs.filter fun cx => !(s.ctx cx).st.ended
  let heads := live.filterMap s.headRot
  .next (
    match heads with
    | [] => s
    | (_, k, first, n, _) :: _ =>
      if heads.length ≠ live.length then s
      else
        let same := heads.all fun g => g.2.1 == k && g.2.2.1 == first && g.2.2.2.1 == n
        let rowsOk := live.all fun cx => (List.range n).all fun i => (s.memberRow cx ((first + i) % 8192)).isSome
        let done (s : State) : State := heads.foldl (fun s g =>
          s.updCmd g.1.id fun c => { c with kind := .settle, sectors := 0, started := true }) s
        if !same || live.length != cxs.length || !rowsOk then
          done (heads.foldl (fun s g => s.settle g.1.barrier g.1.sectors 6) s)
        else if live.length = 1 then done (heads.foldl (fun s g => s.settle g.1.barrier g.1.sectors 0) s)
        else done (s.rotateRows (live.zip (heads.map (·.1))) (heads.map fun g => g.2.2.2.2) first n))

end Sys2Proof.Machine
end

