-- ==== Sys2Proof/Machine/Scalar.lean ====
section
/-!
DEFINITION. Scalar: the S-slot integer, constant, control-register, floating and spill instructions of chapter 06.
-/
namespace Sys2Proof.Machine

/-! ## Forms -/

/-- An RRR instruction with two g operands. -/
def alu (o : OpRRR) (l : Nat) (f : GVal → GVal → GVal) (s : State) : Out :=
  guarded o.p (fun s => s.wrG o.d l (f (s.rdG o.a) (s.rdG o.b))) s
/-- An RI instruction. -/
def aluImm (o : OpRI) (l : Nat) (f : GVal → GVal → GVal) (s : State) : Out :=
  guarded o.p (fun s => s.wrG o.d l (f (s.rdG o.a) (immG o.imm))) s
/-- An RRR instruction with one g operand. -/
def alu1 (o : OpRRR) (f : Nat → Nat) (s : State) : Out :=
  guarded o.p (fun s => s.wrG o.d 1 (freshN (f (s.rdG o.a).val.toNat))) s
/-- The divider of the core taken for 20 core cycles (R134). -/
def State.takeDivider (s : State) : State := s.updCore (coreOf s.iss.cx) fun c => { c with divBusy := 20 }
/-- A division or remainder, register form. -/
def divide (o : OpRRR) (f : Word → Word → Nat) (s : State) : Out :=
  guarded o.p (fun s => (s.wrG o.d 20 (freshN (f (s.rdG o.a).val (s.rdG o.b).val))).takeDivider) s
/-- A division or remainder, immediate form. -/
def divideImm (o : OpRI) (f : Word → Word → Nat) (s : State) : Out :=
  guarded o.p (fun s => (s.wrG o.d 20 (freshN (f (s.rdG o.a).val (immG o.imm).val))).takeDivider) s

/-! ## Integer results (Tables 06-2 and 06-3, R132, R136, R138) -/

namespace Alu
/-- `add` with its predicted residue. -/
def add (a b : GVal) : GVal :=
  let x := a.val.toNat + b.val.toNat
  let v := BitVec.ofNat 64 x
  if a.res = 15 || b.res = 15 then fresh v
  else ⟨v, BitVec.ofNat 4 ((a.res.toNat + b.res.toNat + 15 - (if 2 ^ 64 ≤ x then 1 else 0)) % 15)⟩
/-- `sub` with its predicted residue. -/
def sub (a b : GVal) : GVal :=
  let v := a.val - b.val
  if a.res = 15 || b.res = 15 then fresh v
  else ⟨v, BitVec.ofNat 4 ((a.res.toNat + 15 - b.res.toNat + (if a.val.toNat < b.val.toNat then 1 else 0)) % 15)⟩
def mul (a b : GVal) : GVal := fresh (a.val * b.val)
def mulhS (a b : GVal) : GVal := freshN (narrow 64 ((a.val.toInt * b.val.toInt).fdiv (2 ^ 64)))
def mulhZ (a b : GVal) : GVal := freshN (a.val.toNat * b.val.toNat / 2 ^ 64)
def divS (a b : Word) : Nat := if b = 0 then narrow 64 (-1) else narrow 64 (a.toInt.tdiv b.toInt)
def divZ (a b : Word) : Nat := if b = 0 then 2 ^ 64 - 1 else a.toNat / b.toNat
def remS (a b : Word) : Nat := if b = 0 then a.toNat else narrow 64 (a.toInt.tmod b.toInt)
def remZ (a b : Word) : Nat := if b = 0 then a.toNat else a.toNat % b.toNat
def minS (a b : GVal) : GVal := fresh (if a.val.toInt ≤ b.val.toInt then a.val else b.val)
def minZ (a b : GVal) : GVal := fresh (if a.val.toNat ≤ b.val.toNat then a.val else b.val)
def maxS (a b : GVal) : GVal := fresh (if a.val.toInt ≤ b.val.toInt then b.val else a.val)
def maxZ (a b : GVal) : GVal := fresh (if a.val.toNat ≤ b.val.toNat then b.val else a.val)
def and (a b : GVal) : GVal := fresh (a.val &&& b.val)
def or (a b : GVal) : GVal := fresh (a.val ||| b.val)
def xor (a b : GVal) : GVal := fresh (a.val ^^^ b.val)
def andn (a b : GVal) : GVal := fresh (a.val &&& ~~~b.val)
/-- The count of a shift: b mod 64. -/
def count (b : GVal) : Nat := b.val.toNat % 64
def shl (a b : GVal) : GVal := fresh (a.val <<< count b)
def shrZ (a b : GVal) : GVal := fresh (a.val >>> count b)
def shrS (a b : GVal) : GVal := fresh (a.val.sshiftRight (count b))
def rot (a b : GVal) : GVal := fresh (a.val.rotateLeft (count b))
/-- Number of 1 bits among the low `n`. -/
def popc (x : Nat) : Nat → Nat
  | 0 => 0
  | n + 1 => popc x n + (if bit x n then 1 else 0)
def clz (x : Nat) : Nat := if x = 0 then 64 else 63 - Nat.log2 x
/-- Number of 0 bits below the lowest 1 bit, from bit `i`, with `n` bits to look at. -/
def ctzFrom (x i : Nat) : Nat → Nat
  | 0 => 0
  | n + 1 => if bit x i then 0 else 1 + ctzFrom x (i + 1) n
def ctz (x : Nat) : Nat := ctzFrom x 0 64
def eq (a b : Word) : Bool := a == b
def ne (a b : Word) : Bool := a != b
def ltS (a b : Word) : Bool := decide (a.toInt < b.toInt)
def ltZ (a b : Word) : Bool := decide (a.toNat < b.toNat)
def leS (a b : Word) : Bool := decide (a.toInt ≤ b.toInt)
def leZ (a b : Word) : Bool := decide (a.toNat ≤ b.toNat)
/-- A compare result in a g register. -/
def truth (c : Word → Word → Bool) (a b : GVal) : GVal := freshN (if c a.val b.val then 1 else 0)
end Alu

/-! ## Arithmetic, logic and shifts (R135 to R138) -/

def execAdd (o : OpRRR) (s : State) : Out := alu o 1 Alu.add s
def execAddImm (o : OpRI) (s : State) : Out := aluImm o 1 Alu.add s
def execSub (o : OpRRR) (s : State) : Out := alu o 1 Alu.sub s
def execSubImm (o : OpRI) (s : State) : Out := aluImm o 1 Alu.sub s
def execMul (o : OpRRR) (s : State) : Out := alu o 3 Alu.mul s
def execMulImm (o : OpRI) (s : State) : Out := aluImm o 3 Alu.mul s
def execMulhS64 (o : OpRRR) (s : State) : Out := alu o 4 Alu.mulhS s
def execMulhS64Imm (o : OpRI) (s : State) : Out := aluImm o 4 Alu.mulhS s
def execMulhZ64 (o : OpRRR) (s : State) : Out := alu o 4 Alu.mulhZ s
def execMulhZ64Imm (o : OpRI) (s : State) : Out := aluImm o 4 Alu.mulhZ s
def execDivS64 (o : OpRRR) (s : State) : Out := divide o Alu.divS s
def execDivS64Imm (o : OpRI) (s : State) : Out := divideImm o Alu.divS s
def execDivZ64 (o : OpRRR) (s : State) : Out := divide o Alu.divZ s
def execDivZ64Imm (o : OpRI) (s : State) : Out := divideImm o Alu.divZ s
def execRemS64 (o : OpRRR) (s : State) : Out := divide o Alu.remS s
def execRemS64Imm (o : OpRI) (s : State) : Out := divideImm o Alu.remS s
def execRemZ64 (o : OpRRR) (s : State) : Out := divide o Alu.remZ s
def execRemZ64Imm (o : OpRI) (s : State) : Out := divideImm o Alu.remZ s
def execMinS64 (o : OpRRR) (s : State) : Out := alu o 1 Alu.minS s
def execMinS64Imm (o : OpRI) (s : State) : Out := aluImm o 1 Alu.minS s
def execMinZ64 (o : OpRRR) (s : State) : Out := alu o 1 Alu.minZ s
def execMinZ64Imm (o : OpRI) (s : State) : Out := aluImm o 1 Alu.minZ s
def execMaxS64 (o : OpRRR) (s : State) : Out := alu o 1 Alu.maxS s
def execMaxS64Imm (o : OpRI) (s : State) : Out := aluImm o 1 Alu.maxS s
def execMaxZ64 (o : OpRRR) (s : State) : Out := alu o 1 Alu.maxZ s
def execMaxZ64Imm (o : OpRI) (s : State) : Out := aluImm o 1 Alu.maxZ s
def execAnd (o : OpRRR) (s : State) : Out := alu o 1 Alu.and s
def execAndImm (o : OpRI) (s : State) : Out := aluImm o 1 Alu.and s
def execOr (o : OpRRR) (s : State) : Out := alu o 1 Alu.or s
def execOrImm (o : OpRI) (s : State) : Out := aluImm o 1 Alu.or s
def execXor (o : OpRRR) (s : State) : Out := alu o 1 Alu.xor s
def execXorImm (o : OpRI) (s : State) : Out := aluImm o 1 Alu.xor s
def execAndn (o : OpRRR) (s : State) : Out := alu o 1 Alu.andn s
def execAndnImm (o : OpRI) (s : State) : Out := aluImm o 1 Alu.andn s
def execShl (o : OpRRR) (s : State) : Out := alu o 1 Alu.shl s
def execShlImm (o : OpRI) (s : State) : Out := aluImm o 1 Alu.shl s
def execShrZ64 (o : OpRRR) (s : State) : Out := alu o 1 Alu.shrZ s
def execShrZ64Imm (o : OpRI) (s : State) : Out := aluImm o 1 Alu.shrZ s
def execShrS64 (o : OpRRR) (s : State) : Out := alu o 1 Alu.shrS s
def execShrS64Imm (o : OpRI) (s : State) : Out := aluImm o 1 Alu.shrS s
def execRot (o : OpRRR) (s : State) : Out := alu o 1 Alu.rot s
def execRotImm (o : OpRI) (s : State) : Out := aluImm o 1 Alu.rot s
def execPopc (o : OpRRR) (s : State) : Out := alu1 o (fun x => Alu.popc x 64) s
def execClz (o : OpRRR) (s : State) : Out := alu1 o Alu.clz s
def execCtz (o : OpRRR) (s : State) : Out := alu1 o Alu.ctz s

/-! ## Field instructions (R139) -/

/-- The field of `len + 1` bits at `pos`. -/
def bfField (o : OpBF) (a : Nat) : Nat := a / 2 ^ o.pos.toNat % 2 ^ (o.len.toNat + 1)
def execBext (o : OpBF) (s : State) : Out :=
  guarded o.p (fun s => s.wrG o.d 1 (freshN (bfField o (s.rdG o.a).val.toNat))) s
def execSext (o : OpBF) (s : State) : Out :=
  guarded o.p (fun s => s.wrG o.d 1 (freshN (narrow 64 (sextN (o.len.toNat + 1) (bfField o (s.rdG o.a).val.toNat))))) s
def execBins (o : OpBF) (s : State) : Out :=
  guarded o.p (fun s =>
    let a := (s.rdG o.a).val.toNat
    let b := (s.rdG o.b).val.toNat
    s.wrG o.d 1 (freshN (a - bfField o a * 2 ^ o.pos.toNat + b % 2 ^ (o.len.toNat + 1) * 2 ^ o.pos.toNat))) s

/-! ## Compares and select (R140, R141) -/

/-- A compare into a q register. -/
def cmpQ (o : OpQRR) (f : Word → Word → Bool) (s : State) : Out :=
  guarded o.p (fun s => s.wrQ o.q (f (s.rdG o.a).val (s.rdG o.b).val)) s
def cmpQImm (o : OpQRI) (f : Word → Word → Bool) (s : State) : Out :=
  guarded o.p (fun s => s.wrQ o.q (f (s.rdG o.a).val (immG o.imm).val)) s
def execCmpEq (o : OpRRR) (s : State) : Out := alu o 1 (Alu.truth Alu.eq) s
def execCmpEqImm (o : OpRI) (s : State) : Out := aluImm o 1 (Alu.truth Alu.eq) s
def execCmpEqQ (o : OpQRR) (s : State) : Out := cmpQ o Alu.eq s
def execCmpEqQImm (o : OpQRI) (s : State) : Out := cmpQImm o Alu.eq s
def execCmpNe (o : OpRRR) (s : State) : Out := alu o 1 (Alu.truth Alu.ne) s
def execCmpNeImm (o : OpRI) (s : State) : Out := aluImm o 1 (Alu.truth Alu.ne) s
def execCmpNeQ (o : OpQRR) (s : State) : Out := cmpQ o Alu.ne s
def execCmpNeQImm (o : OpQRI) (s : State) : Out := cmpQImm o Alu.ne s
def execCmpLtS64 (o : OpRRR) (s : State) : Out := alu o 1 (Alu.truth Alu.ltS) s
def execCmpLtS64Imm (o : OpRI) (s : State) : Out := aluImm o 1 (Alu.truth Alu.ltS) s
def execCmpLtS64Q (o : OpQRR) (s : State) : Out := cmpQ o Alu.ltS s
def execCmpLtS64QImm (o : OpQRI) (s : State) : Out := cmpQImm o Alu.ltS s
def execCmpLtZ64 (o : OpRRR) (s : State) : Out := alu o 1 (Alu.truth Alu.ltZ) s
def execCmpLtZ64Imm (o : OpRI) (s : State) : Out := aluImm o 1 (Alu.truth Alu.ltZ) s
def execCmpLtZ64Q (o : OpQRR) (s : State) : Out := cmpQ o Alu.ltZ s
def execCmpLtZ64QImm (o : OpQRI) (s : State) : Out := cmpQImm o Alu.ltZ s
def execCmpLeS64 (o : OpRRR) (s : State) : Out := alu o 1 (Alu.truth Alu.leS) s
def execCmpLeS64Imm (o : OpRI) (s : State) : Out := aluImm o 1 (Alu.truth Alu.leS) s
def execCmpLeS64Q (o : OpQRR) (s : State) : Out := cmpQ o Alu.leS s
def execCmpLeS64QImm (o : OpQRI) (s : State) : Out := cmpQImm o Alu.leS s
def execCmpLeZ64 (o : OpRRR) (s : State) : Out := alu o 1 (Alu.truth Alu.leZ) s
def execCmpLeZ64Imm (o : OpRI) (s : State) : Out := aluImm o 1 (Alu.truth Alu.leZ) s
def execCmpLeZ64Q (o : OpQRR) (s : State) : Out := cmpQ o Alu.leZ s
def execCmpLeZ64QImm (o : OpQRI) (s : State) : Out := cmpQImm o Alu.leZ s
/-- The q register that field C of `sel` names. -/
def State.rdQ (s : State) (c : Src) : Bool :=
  match c with
  | .reg n => s.cur.st.q.getLsbD n.toNat
  | .latch _ => false
/-- The operand that `sel` selects, with its residue; a fresh one where either operand's is untracked (R77, R132). -/
def selected (q : Bool) (a b : GVal) : GVal :=
  let x := if q then a else b
  if a.res = 15 ∨ b.res = 15 then fresh x.val else x
def execSel (o : OpRRR) (s : State) : Out :=
  guarded o.p (fun s => s.wrG o.d 1 (selected (s.rdQ o.c) (s.rdG o.a) (s.rdG o.b))) s

/-! ## Constants and control registers (R142 to R144) -/

def execLi (o : OpDI) (s : State) : Out := guarded o.p (fun s => s.wrG o.d 1 (immG o.imm)) s
def execLih (o : OpDI) (s : State) : Out :=
  guarded o.p (fun s =>
    s.wrG o.d 1 (freshN (o.imm.toNat % 2 ^ 20 * 2 ^ 44 + (s.rdG o.a).val.toNat % 2 ^ 44))) s
def execMovFromCr (o : OpCRr) (s : State) : Out := guarded o.p (fun s => s.wrG o.d 1 (fresh (s.readCR o.n))) s
def execMovToCr (o : OpCRw) (s : State) : Out :=
  guarded o.p (fun s =>
    let v := s.rdG o.a
    if crChecked o.n then s.chkG 0 v fun s => s.prog o.n v.val else s.prog o.n v.val) s
/-- EVT with one bit set or cleared, as a write of `%flags` that leaves RES alone. -/
def State.evtWrite (s : State) (n : BitVec 5) (on : Bool) : State :=
  let e := s.cur.st.ctl.evt
  let m := 1#32 <<< n.toNat
  s.prog .flags ((if on then e ||| m else e &&& ~~~m).setWidth 64)
def execEvtSet (o : OpEv) (s : State) : Out := guarded o.p (fun s => s.evtWrite o.n true) s
def execEvtClr (o : OpEv) (s : State) : Out := guarded o.p (fun s => s.evtWrite o.n false) s

/-! ## Scalar floating point (R146 to R148) -/

/-- Bits 31:0 of an operand as FP32: its value, and NV if it signals. -/
def fp32 (g : GVal) : XNum × MFlags := valueOf .f (g.val.toNat % 2 ^ 32)

/-- A rounded FP32 result with the flags of its operands. -/
def fpWrite (o : OpRRR) (x : XNum × MFlags) (fl : MFlags) (s : State) : State :=
  let (w, s) := s.drawSR o.rm
  let (c, fr) := roundTo .f o.rm w x.1
  (s.wrG o.d 4 (freshN c)).flag (x.2 ||| fl ||| fr)

/-- A two-operand FP32 instruction. -/
def fp2 (o : OpRRR) (f : XNum → XNum → XNum × MFlags) (s : State) : Out :=
  guarded o.p (fun s =>
    let (x, fx) := fp32 (s.rdG o.a)
    let (y, fy) := fp32 (s.rdG o.b)
    fpWrite o (f x y) (fx ||| fy) s) s
def execFaddF (o : OpRRR) (s : State) : Out := fp2 o (XNum.add o.rm) s
def execFsubF (o : OpRRR) (s : State) : Out := fp2 o (fun x y => XNum.add o.rm x y.opp) s
def execFmulF (o : OpRRR) (s : State) : Out := fp2 o XNum.mul s
/-- a × b + c, exact (R62: an invalid product sets NV whatever c is; assumption 14). -/
def fmaX (rm : Rm) (x y z : XNum) : XNum × MFlags :=
  let (p, fp) := x.mul y
  let (r, fr) := p.add rm z
  (r, fp ||| fr)
def execFmaF (o : OpRRR) (s : State) : Out :=
  guarded o.p (fun s =>
    let (x, fx) := fp32 (s.rdG o.a)
    let (y, fy) := fp32 (s.rdG o.b)
    let (z, fz) := fp32 (s.rdG o.c)
    fpWrite o (fmaX o.rm x y z) (fx ||| fy ||| fz) s) s

/-- The lesser or greater of two codes of a floating type (R147, R206): the code and the flags. -/
def minMaxF (t : Ty) (greater : Bool) (a b : Nat) : Nat × MFlags :=
  let (x, fx) := valueOf t a
  let (y, fy) := valueOf t b
  if x == .nan || y == .nan then (canonNaN t, fx ||| fy)
  else if x.below y then ((if greater then b else a), 0)
  else ((if greater then a else b), 0)
def fpMinMax (o : OpRRR) (greater : Bool) (s : State) : Out :=
  guarded o.p (fun s =>
    let (c, f) := minMaxF .f greater ((s.rdG o.a).val.toNat % 2 ^ 32) ((s.rdG o.b).val.toNat % 2 ^ 32)
    (s.wrG o.d 1 (freshN c)).flag f) s
def execFminF (o : OpRRR) (s : State) : Out := fpMinMax o false s
def execFmaxF (o : OpRRR) (s : State) : Out := fpMinMax o true s

def execCvt (o : OpSC) (s : State) : Out :=
  guarded o.p (fun s =>
    let (w, s) := s.drawSR o.rm
    let a := (s.rdG o.a).val.toNat % 2 ^ o.sty.width
    let (c, f) := if o.sty = o.dty then (a, 0) else convert o.sty o.dty o.rm w a
    (s.wrG o.d 3 (freshN (if o.dty.isSigned then narrow 64 (sextN o.dty.width c) else c))).flag f) s

/-! ## Spill store (R149) -/

/-- The offset of a spill access; the base is read unsigned (assumption 15). -/
def ssOffset (o : OpSS) (s : State) : Int := ((s.rdG o.a).val.toNat : Int) + immI o.imm
/-- A spill access of `n` bytes: checks in the order of R149, then `f` at the aligned offset. -/
def spillAccess (o : OpSS) (n : Nat) (f : Nat → State → State) (s : State) : State :=
  let off := ssOffset o s
  match spillAt s.cur.st.ctl.spillSize.toNat off n with
  | none => s.raise 0 .spillRange (narrow 64 off) 0
  | some b => f b s
/-- A spill load of `n` words: one that meets an uncorrectable error gives zero and marks it, as a load of a non-resident run does
(R392; assumption 86). -/
def State.spillLoad (s : State) (k n : Nat) (zero load : State → State) : State :=
  let m := s.cur.st.spillBadIn k n
  if m = 0 then load s
  else zero (s.storeEcc s.iss.cx (coreOf s.iss.cx) m)

def execSpLd (o : OpSS) (s : State) : Out :=
  guarded o.p (fun s => s.chkG 0 (s.rdG o.a) (spillAccess o 8 fun b s =>
    s.spillLoad (b / 8) 1 (fun s => (s.wrG o.d 1 (fresh 0)).hw .resFlag) fun s =>
      let w := s.cur.st.spillWord (b / 8)
      s.wrG o.d 1 ⟨w.val, w.residue⟩)) s
def execSpSt (o : OpSS) (s : State) : Out :=
  guarded o.p (fun s => s.chkG 0 (s.rdG o.a) fun s => s.chkG 0 (s.rdG o.c) (spillAccess o 8 fun b s =>
    let v := s.rdG o.c
    s.updSt fun st => { st with spill := FMap.put st.spill (b / 8) { val := v.val, scalar := true, r0 := v.res } })) s
def execSpVld (o : OpSS) (s : State) : Out :=
  guarded o.p (fun s => s.chkG 0 (s.rdG o.a) (spillAccess o 128 fun b s =>
    s.spillLoad (b / 8) 16 (fun s => (s.wrV o.d 1 {}).hw (.k15 128)) fun s =>
      s.wrV o.d 1 (s.cur.st.spillVec b))) s
def execSpVst (o : OpSS) (s : State) : Out :=
  guarded o.p (fun s => s.chkG 0 (s.rdG o.a) fun s => s.chkV 0 (s.rdV o.c) (spillAccess o 128 fun b s =>
    let v := s.rdV o.c
    s.updSt fun st => st.putSpillVec b v)) s

/-- `nop` (R162). -/
def execNop (o : OpN) (s : State) : Out := guarded o.p (fun s => s) s

end Sys2Proof.Machine
end

