-- ==== Sys2Proof/Machine/Vector.lean ====
section
/-!
DEFINITION. Vector: the V-slot instructions of chapter 08 (R196 to R221).
-/
namespace Sys2Proof.Machine

/-! ## Masks, results and lane residues (R197 to R199) -/

/-- The elements of a vector operand. -/
def elems (t : Ty) (v : VVal) : List Nat := lanesOf t.width v.val.toNat

/-- The elements of a destination (R197): active ones take their result, inactive ones keep the register's value, or are
zero where the destination is a latch alone. -/
def mergeLanes (w : Nat) (zero : Bool) (old : Nat) (m : BitVec 256) (rs : List Nat) : List Nat :=
  rs.zipIdx.map fun p => if m.getLsbD p.2 then p.1 else if zero then 0 else laneN w old p.2

/-- Whether any element of a 32-bit lane is active. -/
def laneActive (w : Nat) (m : BitVec 256) (j : Nat) : Bool :=
  if w = 64 then m.getLsbD (j / 2)
  else (List.range (32 / w)).any fun i => m.getLsbD (j * (32 / w) + i)

/-- A 32-bit integer type, whose lanes carry residues (R198). -/
def tracked (t : Ty) : Bool := t == .s32 || t == .z32

/-- The lane residues of a result (R198). `act` gives the residue of a lane that has a written element at a 32-bit
integer type. -/
def vecResidues (t : Ty) (zero : Bool) (old : BitVec 128) (m : BitVec 256) (act : Nat → BitVec 4) : BitVec 128 :=
  BitVec.ofNat 128 (ofLanes 4 ((List.range 32).map fun j =>
    if laneActive t.width m j then (if tracked t then (act j).toNat else 15)
    else if zero then 0 else (laneRes old j).toNat))

/-- The flags that the active elements set (R199). -/
def activeFlags (m : BitVec 256) (rs : List (Nat × MFlags)) : MFlags :=
  orFlags (rs.zipIdx.map fun p => if m.getLsbD p.2 then p.1.2 else 0)

/-- A v destination written under a mask with latency `l` (R197 to R200). -/
def State.vecWriteRes (s : State) (d : Dst) (l : Nat) (t : Ty) (m : BitVec 256) (rs : List (Nat × MFlags))
    (act : Nat → BitVec 4) : State :=
  let old := s.cur.st.getV d.n.toNat
  let v : VVal :=
    { val := BitVec.ofNat 1024 (ofLanes t.width (mergeLanes t.width d.latchOnly old.val.toNat m (rs.map (·.1))))
      res := vecResidues t d.latchOnly old.res m act }
  (s.wrV d l v).flag (activeFlags m rs)

/-- The same with fresh residues: every result but those of `vadd`, `vsub`, `vmov` and `vsel` (R198). -/
def State.vecWrite (s : State) (d : Dst) (l : Nat) (t : Ty) (m : BitVec 256) (rs : List (Nat × MFlags)) : State :=
  s.vecWriteRes d l t m rs fun j => resid ((rs.getD j (0, 0)).1 % 2 ^ 32)

/-- Elements computed in ascending order, one draw each where the mode is SR (R60, R199). -/
def mapDraw {α : Type} (rm : Rm) (f : Nat → α → Nat × MFlags) : List α → Word → List (Nat × MFlags) × Word
  | [], G => ([], G)
  | x :: r, G =>
    let (G1, w) := if rm = .sr then draw G else (G, 0)
    let (ys, G2) := mapDraw rm f r G1
    (f w x :: ys, G2)

/-- `mapDraw` on the current bundle's generator. -/
def State.drawn {α : Type} (s : State) (rm : Rm) (f : Nat → α → Nat × MFlags) (xs : List α) :
    List (Nat × MFlags) × State :=
  let (ys, G) := mapDraw rm f xs s.seed
  (ys, if rm = .sr then s.setSeed G else s)

/-- An element-by-element instruction of two sources that draws nothing. -/
def vec2 (o : OpVRRR) (l : Nat) (f : Nat → Nat → Nat × MFlags) (s : State) : Out :=
  guarded o.p (fun s =>
    s.vecWrite o.d l o.ty (s.rdK o.k) (List.zipWith f (elems o.ty (s.rdV o.a)) (elems o.ty (s.rdV o.b)))) s
/-- An element-by-element instruction of one source that draws nothing. -/
def vec1 (o : OpVRRR) (l : Nat) (f : Nat → Nat × MFlags) (s : State) : Out :=
  guarded o.p (fun s => s.vecWrite o.d l o.ty (s.rdK o.k) ((elems o.ty (s.rdV o.a)).map f)) s

/-! ## Integer arithmetic (R202) -/

/-- An exact integer wrapped into an element. -/
def wrapTo (t : Ty) (x : Int) : Nat × MFlags := (narrow t.width x, 0)
/-- A wrapping integer operation of two elements. -/
def vecInt (o : OpVRRR) (l : Nat) (f : Int → Int → Int) (s : State) : Out :=
  vec2 o l (fun a b => wrapTo o.ty (f (intOf o.ty a) (intOf o.ty b))) s
/-- A saturating integer operation of two elements. -/
def vecSat (o : OpVRRR) (f : Int → Int → Int) (s : State) : Out :=
  vec2 o 1 (fun a b => clampTo o.ty (f (intOf o.ty a) (intOf o.ty b))) s

/-- The predicted residue of a 32-bit lane's sum or difference (R132, R198): the carry or borrow out of bit 31 counts 1,
because 2^32 mod 15 = 1. Untracked operands give a fresh residue. -/
def predict32 (subtract : Bool) (a b : Nat) (ra rb : BitVec 4) : BitVec 4 :=
  if ra = 15 ∨ rb = 15 then resid (if subtract then narrow 32 ((a : Int) - b) else (a + b) % 2 ^ 32)
  else if subtract then BitVec.ofNat 4 ((ra.toNat + 15 - rb.toNat + (if a < b then 1 else 0)) % 15)
  else BitVec.ofNat 4 ((ra.toNat + rb.toNat + 15 - (if 2 ^ 32 ≤ a + b then 1 else 0)) % 15)

/-- `vadd` and `vsub`. -/
def vecAddSub (o : OpVRRR) (subtract : Bool) (s : State) : Out :=
  guarded o.p (fun s =>
    let x := s.rdV o.a
    let y := s.rdV o.b
    let f (a b : Nat) : Nat × MFlags :=
      wrapTo o.ty (if subtract then intOf o.ty a - intOf o.ty b else intOf o.ty a + intOf o.ty b)
    s.vecWriteRes o.d 1 o.ty (s.rdK o.k) (List.zipWith f (elems o.ty x) (elems o.ty y)) fun j =>
      predict32 subtract (laneN 32 x.val.toNat j) (laneN 32 y.val.toNat j) (laneRes x.res j) (laneRes y.res j)) s

def execVadd (o : OpVRRR) (s : State) : Out := vecAddSub o false s
def execVsub (o : OpVRRR) (s : State) : Out := vecAddSub o true s
def execVmul (o : OpVRRR) (s : State) : Out := vecInt o 3 (fun a b => a * b) s
def execVmulh (o : OpVRRR) (s : State) : Out :=
  vecInt o 3 (fun a b =>
    (a * b + (if o.sub.getLsbD 0 then ((2 ^ (o.ty.width - 1) : Nat) : Int) else 0)).fdiv ((2 ^ o.ty.width : Nat) : Int)) s
def execVmin (o : OpVRRR) (s : State) : Out := vecInt o 1 min s
def execVmax (o : OpVRRR) (s : State) : Out := vecInt o 1 max s
def execVadds (o : OpVRRR) (s : State) : Out := vecSat o (fun a b => a + b) s
def execVsubs (o : OpVRRR) (s : State) : Out := vecSat o (fun a b => a - b) s
def execVavg (o : OpVRRR) (s : State) : Out := vecInt o 1 (fun a b => (a + b + 1).fdiv 2) s
def execVabs (o : OpVRRR) (s : State) : Out := vec1 o 1 (fun a => clampTo o.ty ((intOf o.ty a).natAbs : Int)) s
def execVneg (o : OpVRRR) (s : State) : Out := vec1 o 1 (fun a => wrapTo o.ty (-intOf o.ty a)) s
def execVmov (o : OpVRRR) (s : State) : Out :=
  guarded o.p (fun s =>
    s.vecWriteRes o.d 1 o.ty (s.rdK o.k) ((elems o.ty (s.rdV o.a)).map fun a => (a, 0)) (laneRes (s.rdV o.a).res)) s
def execVnop (o : OpNT) (s : State) : Out := guarded o.p (fun s => s) s

/-! ## Logic and shifts (R203, R204) -/

def execVand (o : OpVRRR) (s : State) : Out := vec2 o 1 (fun a b => (a &&& b, 0)) s
def execVor (o : OpVRRR) (s : State) : Out := vec2 o 1 (fun a b => (a ||| b, 0)) s
def execVxor (o : OpVRRR) (s : State) : Out := vec2 o 1 (fun a b => (a ^^^ b, 0)) s
def execVandn (o : OpVRRR) (s : State) : Out := vec2 o 1 (fun a b => (a &&& (2 ^ o.ty.width - 1 - b), 0)) s
def execVnot (o : OpVRRR) (s : State) : Out := vec1 o 1 (fun a => (2 ^ o.ty.width - 1 - a, 0)) s

/-- The shifts of Table 08-4. -/
inductive Shift where
  | left | right | rounded
deriving DecidableEq, Repr

/-- An element shifted by `n` places. At n = w a rounding right shift gives 0, as the sentence below Table 08-4 says, and not what the
table's formula gives for an unsigned element with its top bit set (assumption 93). -/
def shiftElem (k : Shift) (t : Ty) (a n : Nat) : Nat × MFlags :=
  let x := intOf t a
  match k with
  | .left => (a * 2 ^ n % 2 ^ t.width, 0)
  | .right => wrapTo t (x.fdiv ((2 ^ n : Nat) : Int))
  | .rounded =>
    if n = 0 then (a, 0) else if t.width ≤ n then (0, 0)
    else wrapTo t ((x + ((2 ^ (n - 1) : Nat) : Int)).fdiv ((2 ^ n : Nat) : Int))

def vecShift (o : OpVRRR) (k : Shift) (s : State) : Out := vec2 o 1 (fun a b => shiftElem k o.ty a (b % 256)) s
def vecShiftImm (o : OpVI) (k : Shift) (s : State) : Out :=
  guarded o.p (fun s => s.vecWrite o.d 1 o.ty (s.rdK o.k)
    ((elems o.ty (s.rdV o.a)).map fun a => shiftElem k o.ty a o.imm.toNat)) s
def execVshl (o : OpVRRR) (s : State) : Out := vecShift o .left s
def execVshr (o : OpVRRR) (s : State) : Out := vecShift o .right s
def execVshrr (o : OpVRRR) (s : State) : Out := vecShift o .rounded s
def execVshlImm (o : OpVI) (s : State) : Out := vecShiftImm o .left s
def execVshrImm (o : OpVI) (s : State) : Out := vecShiftImm o .right s
def execVshrrImm (o : OpVI) (s : State) : Out := vecShiftImm o .rounded s

/-! ## Floating point (R205 to R208) -/

/-- An exact result of two elements rounded once, with the flags of its operands (R146). -/
def round2 (t : Ty) (rm : Rm) (f : XNum → XNum → XNum × MFlags) (w : Nat) (p : Nat × Nat) : Nat × MFlags :=
  let (x, fx) := valueOf t p.1
  let (y, fy) := valueOf t p.2
  let (r, fr) := f x y
  let (c, fc) := roundTo t rm w r
  (c, fx ||| fy ||| fr ||| fc)

def vecFloat (o : OpVRRR) (f : XNum → XNum → XNum × MFlags) (s : State) : Out :=
  guarded o.p (fun s =>
    let (rs, s') := s.drawn o.rm (round2 o.ty o.rm f) ((elems o.ty (s.rdV o.a)).zip (elems o.ty (s.rdV o.b)))
    s'.vecWrite o.d 4 o.ty (s.rdK o.k) rs) s
def execVfadd (o : OpVRRR) (s : State) : Out := vecFloat o (XNum.add o.rm) s
def execVfsub (o : OpVRRR) (s : State) : Out := vecFloat o (fun x y => XNum.add o.rm x y.opp) s
def execVfmul (o : OpVRRR) (s : State) : Out := vecFloat o XNum.mul s

/-- One element of `vfma` (R206). -/
def fmaElem (t : Ty) (rm : Rm) (neg : Bool) (w : Nat) (p : Nat × Nat × Nat) : Nat × MFlags :=
  let (x, fx) := valueOf t p.1
  let (y, fy) := valueOf t p.2.1
  let (z, fz) := valueOf t p.2.2
  let (r, fr) := fmaX rm (if neg then x.opp else x) y z
  let (c, fc) := roundTo t rm w r
  (c, fx ||| fy ||| fz ||| fr ||| fc)

def execVfma (o : OpVF) (s : State) : Out :=
  guarded o.p (fun s =>
    let xs := (elems o.ty (s.rdV o.a)).zip ((elems o.ty (s.rdV o.b)).zip (elems o.ty (s.rdV o.c)))
    let (rs, s') := s.drawn o.rm (fmaElem o.ty o.rm o.neg) xs
    s'.vecWrite o.d 4 o.ty (s.cur.st.getK o.k.toNat) rs) s

def execVfmin (o : OpVRRR) (s : State) : Out := vec2 o 1 (minMaxF o.ty false) s
def execVfmax (o : OpVRRR) (s : State) : Out := vec2 o 1 (minMaxF o.ty true) s
def execVfabs (o : OpVRRR) (s : State) : Out := vec1 o 1 (fun a => (a % 2 ^ (o.ty.width - 1), 0)) s
def execVfneg (o : OpVRRR) (s : State) : Out := vec1 o 1 (fun a => ((a + 2 ^ (o.ty.width - 1)) % 2 ^ o.ty.width, 0)) s

/-! ### `vexp2` and `vrcp`: the exact value rounded once (R208) -/

/-- `k` terms of ln 2 = Σ 1 / (i 2^i) from i, in units of 2^-p, each rounded down. -/
def ln2Sum (p i : Nat) : Nat → Nat
  | 0 => 0
  | k + 1 => 2 ^ p / (i * 2 ^ i) + ln2Sum p (i + 1) k

/-- `k` further terms of e^x, `t` being the last one, in units of 2^-p, each rounded down. -/
def expSum (p x t i : Nat) : Nat → Nat
  | 0 => 0
  | k + 1 =>
    let t' := t * x / (i * 2 ^ p)
    t' + expSum p x t' (i + 1) k

/-- 2^(f / 2^q) for 0 ≤ f < 2^q, between the two numbers answered, in units of 2^-p. The truncations of the p terms and
of ln 2 add up to less than 8p units. -/
def exp2Frac (p f q : Nat) : Nat × Nat :=
  let x := ln2Sum p 1 p * f / 2 ^ q
  let lo := 2 ^ p + expSum p x (2 ^ p) 1 p
  (lo, lo + 8 * p)

/-- Rounds 2^n × (lo .. hi) / 2^p to the nearest; the precision doubles until both ends round to one code. -/
def exp2Round (t : Ty) (n : Int) (f q : Nat) : Nat → Nat → Nat × MFlags
  | 0, p =>
    let (u, d) := scaleQ (exp2Frac p f q).1 (2 ^ p) (-n)
    roundMag (fmtOf t) .rne 0 false u d
  | k + 1, p =>
    let (lo, hi) := exp2Frac p f q
    let (u, d) := scaleQ lo (2 ^ p) (-n)
    let (u', d') := scaleQ hi (2 ^ p) (-n)
    let a := roundMag (fmtOf t) .rne 0 false u d
    let b := roundMag (fmtOf t) .rne 0 false u' d'
    if a.1 = b.1 ∧ (a.2 = b.2 ∨ f ≠ 0) then (a.1, a.2 ||| b.2) else exp2Round t n f q k (2 * p)

/-- 2^a rounded once (R208). -/
def exp2Elem (t : Ty) (code : Nat) : Nat × MFlags :=
  let (x, fx) := valueOf t code
  match x with
  | .nan => (canonNaN t, fx)
  | .inf neg => if neg then (0, 0) else roundTo t .rne 0 (.inf false)
  | .negZero => roundTo t .rne 0 (.fin 1 0)
  | .fin m e =>
    let q := (-e).toNat
    let whole := m * ((2 ^ e.toNat : Nat) : Int)
    let n := whole.fdiv ((2 ^ q : Nat) : Int)
    let f := (whole - n * ((2 ^ q : Nat) : Int)).toNat
    let n := if n < -1100 then -1100 else if 1100 < n then 1100 else n
    if f = 0 then roundTo t .rne 0 (.fin 1 n) else exp2Round t n f q 4 64

/-- 1 / a rounded once (R208). -/
def rcpElem (t : Ty) (code : Nat) : Nat × MFlags :=
  let (x, fx) := valueOf t code
  match x with
  | .nan => (canonNaN t, fx)
  | .inf neg => roundTo t .rne 0 (.zero neg)
  | x =>
    if x.isZero then ((roundTo t .rne 0 (.inf x.neg)).1, fOF)
    else
      match x with
      | .fin m e =>
        let (neg, num, den) := ratOf m e
        roundMag (fmtOf t) .rne 0 neg den num
      | _ => (0, 0)

def execVexp2 (o : OpVRRR) (s : State) : Out := vec1 o 8 (exp2Elem o.ty) s
def execVrcp (o : OpVRRR) (s : State) : Out := vec1 o 8 (rcpElem o.ty) s

/-! ## Compares and masks (R209, R210) -/

/-- The relations of R209. -/
inductive Rel where
  | eq | ne | lt | le
deriving DecidableEq, Repr

/-- A relation between two elements, and NV. -/
def relElem (r : Rel) (t : Ty) (a b : Nat) : Bool × MFlags :=
  if t.isInt then
    let x := intOf t a
    let y := intOf t b
    (match r with
     | .eq => decide (x = y) | .ne => decide (x ≠ y) | .lt => decide (x < y) | .le => decide (x ≤ y), 0)
  else
    let (x, fx) := valueOf t a
    let (y, fy) := valueOf t b
    match XNum.cmp x y with
    | none => (r == .ne, if r = .lt ∨ r = .le then fNV else fx ||| fy)
    | some c =>
      (match r with | .eq => c == .eq | .ne => c != .eq | .lt => c == .lt | .le => c != .gt, 0)

/-- The mask whose bit i is the i-th of a list. -/
def maskOf (bs : List Bool) : BitVec 256 := BitVec.ofNat 256 (ofLanes 1 (bs.map fun b => if b then 1 else 0))

def vecCmp (o : OpVK) (r : Rel) (s : State) : Out :=
  guarded o.p (fun s =>
    let m := s.rdK o.k
    let rs := List.zipWith (relElem r o.ty) (elems o.ty (s.rdV o.a)) (elems o.ty (s.rdV o.b))
    (s.wrK o.d 1 (maskOf (rs.map (·.1)) &&& m)).flag (activeFlags m (rs.map fun p => (0, p.2)))) s
def execVcmpEq (o : OpVK) (s : State) : Out := vecCmp o .eq s
def execVcmpNe (o : OpVK) (s : State) : Out := vecCmp o .ne s
def execVcmpLt (o : OpVK) (s : State) : Out := vecCmp o .lt s
def execVcmpLe (o : OpVK) (s : State) : Out := vecCmp o .le s

def maskOp (o : OpKK) (f : BitVec 256 → BitVec 256 → BitVec 256) (s : State) : Out :=
  guarded o.p (fun s => s.wrK o.d 1 (f (s.rdK o.a) (s.rdK o.b))) s
def execKand (o : OpKK) (s : State) : Out := maskOp o (fun a b => a &&& b) s
def execKor (o : OpKK) (s : State) : Out := maskOp o (fun a b => a ||| b) s
def execKxor (o : OpKK) (s : State) : Out := maskOp o (fun a b => a ^^^ b) s
def execKandn (o : OpKK) (s : State) : Out := maskOp o (fun a b => a &&& ~~~b) s
def execKnot (o : OpKK) (s : State) : Out := maskOp o (fun a _ => ~~~a) s

/-! ## Select, permute, broadcast, slide, rotate (R211 to R215) -/

def execVsel (o : OpVRRR) (s : State) : Out :=
  guarded o.p (fun s =>
    let m := s.rdK o.k
    let x := s.rdV o.a
    let y := s.rdV o.b
    let rs := ((elems o.ty x).zip (elems o.ty y)).zipIdx.map fun p => (if m.getLsbD p.2 then p.1.1 else p.1.2, (0 : MFlags))
    s.vecWriteRes o.d 1 o.ty (BitVec.allOnes 256) rs fun j =>
      if m.getLsbD j then laneRes x.res j else laneRes y.res j) s

def execVperm (o : OpVRRR) (s : State) : Out :=
  guarded o.p (fun s =>
    let xs := elems o.ty (s.rdV o.a)
    s.vecWrite o.d 2 o.ty (s.rdK o.k) ((elems o.ty (s.rdV o.b)).map fun b => (xs.getD (b % o.ty.count) 0, 0))) s

/-- One value in every active element. -/
def State.broadcast (s : State) (d : Dst) (t : Ty) (k : Src) (x : Nat) : State :=
  s.vecWrite d 1 t (s.rdK k) (List.replicate t.count (x % 2 ^ t.width, 0))
def execVbcast (o : OpVI) (s : State) : Out :=
  guarded o.p (fun s => s.broadcast o.d o.ty o.k (laneN o.ty.width (s.rdV o.a).val.toNat o.imm.toNat)) s
def execVbcastG (o : OpVG) (s : State) : Out :=
  guarded o.p (fun s => s.broadcast o.d o.ty o.k (s.rdG o.a).val.toNat) s
/-- The value `vsplat` writes (R213). -/
def splatValue (t : Ty) (imm : BitVec 8) : Nat :=
  if t.isInt then narrow t.width imm.toInt else (roundTo t .rne 0 (decodeFloat .e4 imm.toNat)).1
def execVsplat (o : OpVI) (s : State) : Out := guarded o.p (fun s => s.broadcast o.d o.ty o.k (splatValue o.ty o.imm)) s

def execVslideUp (o : OpVI) (s : State) : Out :=
  guarded o.p (fun s =>
    let n := o.imm.toNat
    let xs := elems o.ty (s.rdV o.a)
    s.vecWrite o.d 1 o.ty (s.rdK o.k) ((List.range o.ty.count).map fun i => (if n ≤ i then xs.getD (i - n) 0 else 0, 0))) s
def execVslideDn (o : OpVI) (s : State) : Out :=
  guarded o.p (fun s =>
    let xs := elems o.ty (s.rdV o.a)
    s.vecWrite o.d 1 o.ty (s.rdK o.k) ((List.range o.ty.count).map fun i => (xs.getD (i + o.imm.toNat) 0, 0))) s
def execVrotm (o : OpVI) (s : State) : Out :=
  guarded o.p (fun s =>
    let t := ((s.rdV o.b).val.toNat * 2 ^ 1024 + (s.rdV o.a).val.toNat) / 2 ^ (8 * o.imm.toNat)
    s.vecWrite o.d 1 o.ty (s.rdK o.k) ((lanesOf o.ty.width (t % 2 ^ 1024)).map fun x => (x, 0))) s

/-! ## Reductions (R216) -/

/-- A reduction's result written to element 0 of its result type, every other bit zero. The residues are those of the
result type (R77; assumption 18). -/
def State.reduced (s : State) (d : Dst) (l : Nat) (t : Ty) (x : Nat) (f : MFlags) : State :=
  let v : VVal := { val := BitVec.ofNat 1024 (x % 2 ^ t.width), res := if tracked t then laneResid (x % 2 ^ 32) else untracked }
  (s.wrV d l v).flag f

/-- The active lanes of a source. -/
def activeLanes (m : BitVec 256) (xs : List Nat) : List Nat := (xs.zipIdx.filter fun p => m.getLsbD p.2).map (·.1)

def execVredsum (o : OpVRRR) (s : State) : Out :=
  guarded o.p (fun s =>
    let m := s.rdK o.k
    let xs := elems o.ty (s.rdV o.a)
    let wide := o.sub.getLsbD 0
    if o.ty.isInt then
      let r : Ty := if wide then (if o.ty.isSigned then .s64 else .z64) else o.ty
      let sum := ((activeLanes m xs).map (intOf o.ty)).foldl (· + ·) 0
      let (x, f) := if o.sub.getLsbD 1 then clampTo r sum else wrapTo r sum
      s.reduced o.d 6 r x f
    else
      let r : Ty := if wide then .f else o.ty
      let ts := xs.zipIdx.map fun p =>
        if m.getLsbD p.2 then (if r = o.ty then (p.1, (0 : MFlags)) else convert o.ty r .rne 0 p.1) else (0, 0)
      let (x, f, G) := treeSum r o.rm (Nat.log2 o.ty.count) (ts.map (·.1)) s.seed
      (if o.rm = .sr then s.setSeed G else s).reduced o.d 6 r x (f ||| orFlags (ts.map (·.2)))) s

/-- The greatest or least of floating lanes (R72). -/
def foldF (t : Ty) (greater : Bool) (xs : List Nat) : Nat × MFlags :=
  let f := orFlags (xs.map fun x => (valueOf t x).2)
  if xs.any fun x => decodeFloat t x == .nan then (canonNaN t, f)
  else
    (xs.foldl (fun acc x =>
      let up := (decodeFloat t acc).below (decodeFloat t x)
      let down := (decodeFloat t x).below (decodeFloat t acc)
      if (if greater then up else down) then x else acc) (roundTo t .rne 0 (.inf greater)).1, f)

def vecExtreme (o : OpVRRR) (greater : Bool) (s : State) : Out :=
  guarded o.p (fun s =>
    let xs := activeLanes (s.rdK o.k) (elems o.ty (s.rdV o.a))
    let (x, f) : Nat × MFlags :=
      if o.ty.isInt then
        (narrow o.ty.width ((xs.map (intOf o.ty)).foldl (if greater then max else min)
          (if greater then tyLo o.ty else tyHi o.ty)), 0)
      else foldF o.ty greater xs
    s.reduced o.d 3 o.ty x f) s
def execVredmax (o : OpVRRR) (s : State) : Out := vecExtreme o true s
def execVredmin (o : OpVRRR) (s : State) : Out := vecExtreme o false s

/-! ## Conversions (R217, R218) -/

/-- One converted element; equal types copy the bits. -/
def cvtElem (o : OpVC) (w x : Nat) : Nat × MFlags := if o.sty = o.dty then (x, 0) else convert o.sty o.dty o.rm w x

def execVcvt (o : OpVC) (s : State) : Out :=
  guarded o.p (fun s =>
    let (rs, s') := s.drawn o.rm (cvtElem o) (elems o.sty (s.rdV o.a))
    s'.vecWrite o.d 3 o.dty (s.rdK o.k) rs) s
def execVcvtW (o : OpVC) (s : State) : Out :=
  guarded o.p (fun s =>
    let n := o.dty.count
    let xs := ((elems o.sty (s.rdV o.a)).drop (if o.half then n else 0)).take n
    let (rs, s') := s.drawn o.rm (cvtElem o) xs
    s'.vecWrite o.d 3 o.dty (s.rdK o.k) rs) s
def execVcvtN (o : OpVC) (s : State) : Out :=
  guarded o.p (fun s =>
    let n := o.sty.count
    let (rs, s') := s.drawn o.rm (cvtElem o) (elems o.sty (s.rdV o.a))
    let none : List (Nat × MFlags) := List.replicate n (0, 0)
    let written : BitVec 256 := BitVec.ofNat 256 ((2 ^ n - 1) * 2 ^ (if o.half then n else 0))
    s'.vecWrite o.d 3 o.dty (s.rdK o.k &&& written) (if o.half then none ++ rs else rs ++ none)) s

/-! ## K4O pack, unpack and requantise (R219 to R221) -/

/-- A block's metadata word and payload in bytes 0 to 35 of a register. -/
def blockOf (v : VVal) : Nat × Nat := (v.val.toNat % 2 ^ 32, v.val.toNat / 2 ^ 32 % 2 ^ 256)

/-- An element of a block being packed: its quotient's class and magnitude, its integer rounding with NX, and its E4M3
rounding. -/
structure PackElem where
  nan : Bool := false
  inf : Bool := false
  neg : Bool := false
  num : Nat := 0
  den : Nat := 1
  c : Int := 0
  nx : Bool := false
  e4 : Nat × MFlags := (0, 0)

/-- An element's value divided by a scale S × 2^es and rounded both ways with one draw (R219). -/
def packElem (rm : Rm) (S : Nat) (es : Int) (w : Nat) (x : XNum) : PackElem :=
  match x with
  | .nan => { nan := true, e4 := (0x7F, 0) }
  | .inf neg => { inf := true, neg := neg, e4 := roundTo .e4 rm w (.inf neg) }
  | .negZero => {}
  | .fin m e =>
    if m = 0 then {}
    else
      let (neg, num, den) := ratOf m (e - es)
      let den := den * S
      let n := num / den
      let k := if roundsUp rm neg n (num % den) den w then n + 1 else n
      { neg := neg, num := num, den := den, c := if neg then -(k : Int) else k, nx := num % den != 0
        e4 := roundMag (fmtOf .e4) rm w neg num den }

def PackElem.big (q : PackElem) : Bool := q.nan || q.inf || decide (7 < q.c.natAbs)
/-- The order of |q|: NaN greatest, then infinity. -/
def PackElem.above (a b : PackElem) : Bool :=
  if a.nan || b.nan then a.nan && !b.nan
  else if a.inf || b.inf then a.inf && !b.inf
  else decide (b.num * a.den < a.num * b.den)
/-- The flags of an element's integer rounding; a NaN gives 0 with NV (R62). -/
def PackElem.intFlags (q : PackElem) : MFlags := if q.nan then fNV else if q.nx then fNX else 0
/-- An element stored as an ordinary code. -/
def PackElem.plain (q : PackElem) : Nat × MFlags :=
  if q.nan then (0, fNV)
  else if q.inf then (narrow 4 (if q.neg then -7 else 7), fSAT)
  else
    let (y, cl) := clamp (-7) 7 q.c
    (narrow 4 y, q.intFlags ||| (if cl then fSAT else 0))

/-- One pair packed: its two nibbles, the slot it takes if it is an outlier, and its flags. -/
def packPair (a b : PackElem) (kk : Nat) : Nat × Nat × Option Nat × MFlags :=
  if (a.big || b.big) && decide (kk ≤ 2) then
    let odd := b.above a
    let mk := if odd then b else a
    let pt := if odd then a else b
    let (code, fc) := mk.e4
    let adjust := odd && code % 16 == 8
    let code := if adjust then code - 1 else code
    let f := fc ||| (if adjust then fNX else 0) ||| pt.intFlags ||| (if pt.inf || pt.c != 0 then fSAT else 0)
    (if odd then code % 16 else 8, if odd then 8 else code % 16, some (code / 16), f)
  else
    let (x, fx) := a.plain
    let (y, fy) := b.plain
    (x, y, none, fx ||| fy)

/-- Pairs packed in order (R219): the nibbles, the slots and the flags. -/
def packPairs : List PackElem → Nat → List Nat × List Nat × MFlags
  | a :: b :: r, kk =>
    let (x, y, sl, f) := packPair a b kk
    let (ns, ss, g) := packPairs r (kk + sl.toList.length)
    (x :: y :: ns, sl.toList ++ ss, f ||| g)
  | _, _ => ([], [], 0)

/-- Elements rounded with one draw each, in order. -/
def packDraw (rm : Rm) (S : Nat) (es : Int) : List XNum → Word → List PackElem × Word
  | [], G => ([], G)
  | x :: r, G =>
    let (G1, w) := if rm = .sr then draw G else (G, 0)
    let (ys, G2) := packDraw rm S es r G1
    (packElem rm S es w x :: ys, G2)

/-- 64 values packed under an S20 scale: the block, its flags and the generator state after it (R219). -/
def packBlock (rm : Rm) (sc : Nat) (xs : List XNum) (G : Word) : Nat × MFlags × Word :=
  let e := bits sc 19 12
  if e = 0 ∨ e = 255 then (sc, 0, G)
  else
    let (qs, G') := packDraw rm (4096 + bits sc 11 0) ((e : Int) - 127 - 12) xs G
    let (ns, ss, f) := packPairs qs 0
    (sc + 2 ^ 20 * ofLanes 4 ss + 2 ^ 32 * ofLanes 4 ns, f, G')

/-- The scale operand of a pack: bits 19:0 of lane 0 of B. -/
def State.packScale (s : State) (b : Src) : Nat := (s.rdV b).val.toNat % 2 ^ 20

/-- A packed block written with latency 5, every lane residue untracked. -/
def State.packed (s : State) (o : OpVRRR) (xs : List XNum) (f0 : MFlags) : State :=
  let (x, f, G) := packBlock o.rm (s.packScale o.b) xs s.seed
  ((if o.rm = .sr then s.setSeed G else s).wrV o.d 5 { val := BitVec.ofNat 1024 x, res := untracked }).flag (f0 ||| f)

def execVkpack (o : OpVRRR) (s : State) : Out :=
  guarded o.p (fun s =>
    let vs := (elems o.ty (s.rdV o.a)).map (valueOf o.ty)
    let e := bits (s.packScale o.b) 19 12
    s.packed o (vs.map (·.1)) (if e = 0 ∨ e = 255 then 0 else orFlags (vs.map (·.2)))) s

/-- Whether each element of a block is a fourth or later outlier (R54). -/
def k4oLate (pay : Nat) : Nat → Nat → Nat → List Bool
  | 0, _, _ => []
  | n + 1, j, ord =>
    let ev := nib pay (2 * j) == 8
    let od := nib pay (2 * j + 1) == 8
    let late := decide (2 < ord)
    (late && ev) :: (late && od && !ev) :: k4oLate pay n (j + 1) (if ev || od then ord + 1 else ord)

/-- The values of a block with the FMT flag that each element's decoding sets (R54, R199). -/
def blockElems (md pay : Nat) : List (XNum × Bool) :=
  let (xs, f) := k4oValues md pay
  if f then xs.zip (k4oLate pay 32 0 0) else xs.map fun x => (x, false)

/-- One element unpacked (R220). -/
def unpackElem (t : Ty) (rm : Rm) (w : Nat) (p : XNum × Bool) : Nat × MFlags :=
  let (c, f) := if t.isInt then roundToInt t rm w p.1 else roundTo t rm w p.1
  (c, f ||| (if p.2 then fFMT else 0))

def execVkunpk (o : OpVRRR) (s : State) : Out :=
  guarded o.p (fun s =>
    let a := blockOf (s.rdV o.a)
    let b := blockOf (s.rdV o.b)
    let xs := blockElems a.1 a.2 ++ (if o.ty.width = 8 then blockElems b.1 b.2 else [])
    let (rs, s') := s.drawn o.rm (unpackElem o.ty o.rm) xs
    s'.vecWrite o.d 3 o.ty (s.rdK o.k) rs) s

/-- `vrq` (R221). The mantissa of a NaN block's new scale is not stated: a free value (assumption 16). A fourth marker of the old
block sets FMT, and an old block that is NaN draws nothing under SR: the model's reading (assumption 44). -/
def execVrq (o : OpVRRR) (s : State) : Out :=
  guarded o.p (fun s =>
    let (md, pay) := blockOf (s.rdV o.a)
    if bits md 19 12 = 255 then
      let m := (Config.nanMantissa (BitVec.ofNat 32 md) (BitVec.ofNat 20 (s.packScale o.b))).toNat
      s.wrV o.d 5 { val := BitVec.ofNat 1024 (255 * 4096 + m), res := untracked }
    else
      let (xs, f) := k4oValues md pay
      s.packed o xs (if f then fFMT else 0)) s

end Sys2Proof.Machine
end

