-- ==== Sys2Proof/Machine/VecMem.lean ====
section
/-!
DEFINITION. VecMem: the vector loads and stores in LOCAL, CLUSTER, DEVICE, PEER and HOST (R164 to R170, R172).
-/
namespace Sys2Proof.Machine

/-- A loaded vector: fresh lane residues (R170). -/
def loadedV (bs : List Byte) : VVal := { val := vecOfBytes bs, res := laneResid (leValue bs) }

/-- The row offset of a vector access (R164). -/
def vOff (imm : BitVec 12) : Int := imm.toInt

/-! ## LOCAL and CLUSTER -/

def State.vLocPlace (s : State) (o : OpCM) : Checked (Nat × Nat) :=
  s.locCheck s.iss.cx (coreIdx s.iss.cx) (rowPlus (s.bRow (srcNum o.a)) (vOff o.imm)) 0
def State.vCluPlace (s : State) (o : OpCM) (g : Word) : Checked (Nat × Nat) :=
  s.locCheck s.iss.cx (bits g.toNat 15 13) (rowPlus (bits g.toNat 12 0) (vOff o.imm)) 0

/-- A vector result of a scratchpad load (Table 07-17). -/
def State.locResultV (s : State) (clu : Bool) (d : Dst) (v : VVal) : State :=
  if clu then
    let (t, s) := s.landing Config.accessDelay
    s.pendV d v t
  else s.wrV d 2 v

/-- A vector load of a whole row; a row in error gives zero and k15 (Table 19-3). -/
def vLoadLoc (o : OpCM) (clu : Bool) (p : Checked (Nat × Nat)) (s : State) : State :=
  s.checked (slotC o.tw) p fun (k, _) =>
    match s.locRead s.iss.cx k 128 (if clu then .cluster else .local_) with
    | (none, s) => (s.locResultV clu o.d {}).hw (.k15 128)
    | (some bs, s) => s.noteAgain (s.locResultV clu o.d (loadedV bs)) [(.loc k, 128)] 0
/-- A vector store of a whole row. -/
def vStoreLoc (o : OpCM) (clu : Bool) (p : Checked (Nat × Nat)) (s : State) : State :=
  s.chkV (slotC o.tw) (s.rdV o.c) fun s =>
    s.checked (slotC o.tw) p fun (k, _) =>
      s.locWrite s.iss.cx k (bytesOfVec (s.rdV o.c).val) (if clu then .cluster else .local_)

def execVldLoc (o : OpCM) (s : State) : Out := guarded o.p (fun s => vLoadLoc o false (s.vLocPlace o) s) s
def execVstLoc (o : OpCM) (s : State) : Out := guarded o.p (fun s => vStoreLoc o false (s.vLocPlace o) s) s
def execVldClu (o : OpCM) (s : State) : Out :=
  guarded o.p (fun s => s.chkG (slotC o.tw) (s.rdG o.a) fun s => vLoadLoc o true (s.vCluPlace o (s.rdG o.a).val) s) s
def execVstClu (o : OpCM) (s : State) : Out :=
  guarded o.p (fun s => s.chkG (slotC o.tw) (s.rdG o.a) fun s => vStoreLoc o true (s.vCluPlace o (s.rdG o.a).val) s) s

/-! ## DEVICE -/

/-- The pieces of a decoding load's footprint, as (virtual address, length), and how they decode. -/
inductive DecAt where
  /-- elements of one type from one contiguous footprint -/
  | elems (src : Ty) (va n : Nat)
  /-- K4O blocks, each as the addresses of its metadata and payload -/
  | blocks (bs : List (Nat × Nat))
deriving DecidableEq, Repr

def DecAt.pieces : DecAt → List (Nat × Nat)
  | .elems _ va n => [(va, n)]
  | .blocks bs => bs.flatMap fun b => [(b.1, 4), (b.2, 32)]

/-- The size of a footprint in bytes. -/
def DecAt.size (d : DecAt) : Nat := (d.pieces.map (·.2)).foldl (· + ·) 0

/-- The type of the elements that a decoding load reads; none for K4O blocks. -/
def DecAt.src : DecAt → Option Ty
  | .elems t _ _ => some t
  | .blocks _ => none

/-- Where a decoding load through a resident run reads (R49, R50, R56, R68, R69). Lanes that a K4O page does not decode to are an
ILL_OPERAND (R68) whatever else fails of the access: R166 does not place that cause, and the model puts it before the PROT of a
block address or of BGEO (assumption 51). -/
def decAt (r : Run) (va : Nat) (lane : Ty) : Except Cause DecAt :=
  match efmtOf r.efmt with
  | .reserved => .error .prot
  | .raw => .ok (.elems lane (va / 128 * 128) 128)
  | .ty t =>
    let n := lane.count * t.width / 8
    .ok (.elems t (va / n * n) n)
  | .k4o =>
    if lane.width ≠ 8 ∧ lane.width ≠ 16 then .error .illOperand
    else
      let size := r.pageAt va
      let page := va / size * size
      let count := if lane.width = 8 then 2 else 1
      match k4oBlock r.bgeo size (va - page) with
      | none => .error .prot
      | some (j, _, _) =>
        if j + count ≤ k4oCount size then
          .ok (.blocks ((List.range count).map fun i =>
            if r.bgeo = 0 then (page + 36 * (j + i), page + 36 * (j + i) + 4)
            else (page + size - 4 * k4oCount size + 4 * (j + i), page + 32 * (j + i))))
        else .error .prot

/-- The lanes that a decoding load yields from its bytes, elements of a type or K4O blocks, with the flags they set (R66, R68). -/
def decodeBytes (src : Option Ty) (lane : Ty) (bs : List Byte) : List (Nat × MFlags) :=
  match src with
  | some src =>
    let x := leValue bs
    (List.range lane.count).map fun i => decodeElem src lane (laneN src.width x i)
  | none =>
    (List.range (bs.length / 36)).flatMap fun i =>
      let b := bs.drop (36 * i)
      let (xs, late) := k4oValues (leValue (b.take 4)) (leValue ((b.drop 4).take 32))
      xs.zipIdx.map fun p =>
        let (c, f) := k4oElem lane p.1
        (c, if late && p.2 == 0 then f ||| fFMT else f)

/-- The lane residues of a decoded vector (R170). -/
def decodedV (lane : Ty) (rs : List (Nat × MFlags)) : VVal :=
  let x := ofLanes lane.width (rs.map (·.1))
  { val := BitVec.ofNat 1024 x, res := if tracked lane then laneResid x else untracked }

/-- The checks of R166 for a decoding load: the location, and where it reads unless its page is absent. A fault reports the address
presented, ILL_OPERAND that of the bundle (Table 04-9). A page of the footprint that is sealed is as the addressed one (R397). The footprint of a load of an absent page is not known; the model watches the aligned 128 bytes around its address
(assumption 5). -/
def State.decCheck (s : State) (cx : Nat) (shown : Int) (lane : Ty) : Checked (DevAt × Option DecAt) :=
  let fa := narrow 64 shown
  if shown < 0 then .error (.extentMiss, fa, 0)
  else
    match findRun (s.ctx cx).runs shown.toNat with
    | none => .error (.extentMiss, fa, 0)
    | some (i, r) =>
      let va := shown.toNat
      let pa := r.pa + (va - r.va)
      if r.resident ∧ (r.isSealed ∨ s.sealTag pa ≠ 0) then .error (.sealed, fa, 0)
      else if r.resident ∧ r.co then .error (.computeOnly, fa, 0)
      else if ¬r.r then .error (.prot, fa, 0)
      else if !r.resident then
        if (s.ctx cx).st.ctl.watches true false (va / 128 * 128) 128 then .error (.watch, fa, 0)
        else .ok ({ idx := i, run := r, va := va, pa := none }, none)
      else
        match decAt r va lane with
        | .error c => .error (c, if c = .illOperand then s.iss.pc.toNat else fa, 0)
        | .ok d =>
          if (pagesOf 0 (d.pieces.map fun p => (r.pa + p.1 - r.va, p.2))).any fun g => s.sealTag (g * 4096) != 0 then .error (.sealed, fa, 0)
          else if d.pieces.any fun p => (s.ctx cx).st.ctl.watches true false p.1 p.2 then .error (.watch, fa, 0)
          else
            let hit (p : Nat × Nat) : Option MixRecord :=
              if s.iss.committed.isNone && s.mixtrap cx then s.mixHit (s.strandId cx) (r.pa + p.1 - r.va) p.2 else none
            match d.pieces.findSome? hit with
            | some m => .error (.mixsize, fa, sizeCode m.size * 16 + sizeCode d.size)
            | none => .ok ({ idx := i, run := r, va := va, pa := some pa }, some d)

/-- The bytes of several pieces, or none where one meets an uncorrectable error. -/
def State.readPieces (s : State) (cx : Nat) (r : Run) : List (Nat × Nat) → Option (List Byte) × State
  | [] => (some [], s)
  | p :: ps =>
    match s.devRead cx (r.pa + p.1 - r.va) p.2 with
    | (none, s) => (none, s)
    | (some bs, s) =>
      match s.readPieces cx r ps with
      | (none, s) => (none, s)
      | (some bs', s) => (some (bs ++ bs'), s)

def execVldDev (o : OpCM) (s : State) : Out :=
  guarded o.p (fun s => s.chkG (slotC o.tw) (s.rdG o.a) fun s =>
    let cx := s.iss.cx
    let shown : Int := ((s.rdG o.a).val.toNat : Int) + vOff o.imm
    if o.dec then
      s.checked (slotC o.tw) (s.decCheck cx shown o.ty) fun (a, d) =>
        match d with
        | none => s.zeroV o.d o.ty.count
        | some d =>
          match s.readPieces cx a.run d.pieces with
          | (none, s) => s.zeroV o.d o.ty.count
          | (some bs, s) =>
            let rs := decodeBytes d.src o.ty bs
            let places := d.pieces.map fun p => (Place.dev (a.run.pa + p.1 - a.run.va), p.2)
            (s.noteAgain (s.devV o.d a (decodedV o.ty rs)) places 0 none (some (d.src, o.ty))).flag (orFlags (rs.map (·.2)))
    else
      s.checked (slotC o.tw) (s.devCheck cx shown 128 true false false) fun a =>
        match a.pa with
        | none => s.zeroV o.d 128
        | some pa =>
          match s.devRead cx pa 128 with
          | (none, s) => s.zeroV o.d 128
          | (some bs, s) => s.noteAgain (s.devV o.d a (loadedV bs)) [(.dev pa, 128)] 0) s
def execVstDev (o : OpCM) (s : State) : Out :=
  guarded o.p (fun s => s.chkG (slotC o.tw) (s.rdG o.a) fun s => s.chkV (slotC o.tw) (s.rdV o.c) fun s =>
    let shown : Int := ((s.rdG o.a).val.toNat : Int) + vOff o.imm
    s.checked (slotC o.tw) (s.devCheck s.iss.cx shown 128 false true false) fun a =>
      match a.pa with
      | none => s.dropRun s.iss.cx a.idx
      | some pa => s.devWrite s.iss.cx pa (bytesOfVec (s.rdV o.c).val)) s

/-! ## PEER and HOST -/

/-- A failed remote vector load: zero, and the failure counted (R180). -/
def State.failV (s : State) (d : Dst) : State :=
  let (t, s) := s.landing Config.accessDelay
  (s.pendV d { res := laneResid 0 } t).remFail s.iss.cx

/-- A PEER load whose answer lands in a vector register (R180). One that meets an uncorrectable error gives zero and k15 (Table
19-3). -/
def State.peerV (s : State) (d : Dst) (mod addr : Nat) : State :=
  let cx := s.iss.cx
  let s0 := s
  if s.noModule mod then s.failV d
  else if mod = s.boot.modid.toNat then
    match s.homeApply (dieOf cx) (s.pasnOf cx) (.load addr 128) with
    | (.done, v, s) =>
      let (t, s) := s.landing Config.accessDelay
      s0.noteAgain ((s.pendV d { val := v, res := laneResid v.toNat } t).count cx .peer 128) [(.peer mod addr, 128)] 0
    | (.ecc, _, s) =>
      let (t, s) := s.landing Config.accessDelay
      ((s.pendV d { res := laneResid 0 } t).count cx .eccu 1).hw (.k15 128)
    | (_, _, s) => s.failV d
  else
    let (id, s) := s.newId
    let (_, s) := s.sendPeer cx mod (.load addr 128) false (some id) none
    s.updSt fun st => { st with pend := st.pend ++
      [{ id := id, reg := if d.latchOnly then none else some (.v d.n.toNat), latch := some (d.n.toNat % 16),
         kind := .peer id, vec := true }] }

def execVldPeer (o : OpCM) (s : State) : Out :=
  guarded o.p (fun s => s.pairAt (slotC o.tw) o.a (vOff o.imm) 128 fun addr b s =>
    match addr with
    | none => s.failV o.d
    | some addr => s.peerV o.d (bits b.toNat 8 0) addr) s
def execVstPeer (o : OpCM) (s : State) : Out :=
  guarded o.p (fun s => s.pairAt (slotC o.tw) o.a (vOff o.imm) 128 fun addr b s =>
    s.chkV (slotC o.tw) (s.rdV o.c) fun s =>
      s.peerStore (bits b.toNat 8 0) addr (bytesOfVec (s.rdV o.c).val)) s
def execVldHost (o : OpCM) (s : State) : Out :=
  guarded o.p (fun s => s.pairAt (slotC o.tw) o.a (vOff o.imm) 128 fun addr b s =>
    let port := b.toNat % 2
    let (ok, s) := s.hostOk port
    match addr, ok with
    | some addr, true =>
      let (t, s) := s.landing Config.accessDelay
      (s.noteAgain (s.pendV o.d (loadedV (Memory.bytes (s.hostMem port) addr 128)) t) [(.host port addr, 128)] 0).count
        s.iss.cx .host 128
    | _, _ => s.failV o.d) s
def execVstHost (o : OpCM) (s : State) : Out :=
  guarded o.p (fun s => s.pairAt (slotC o.tw) o.a (vOff o.imm) 128 fun addr b s =>
    s.chkV (slotC o.tw) (s.rdV o.c) fun s =>
      s.hostStore (b.toNat % 2) addr (bytesOfVec (s.rdV o.c).val)) s

end Sys2Proof.Machine
end

