-- ==== Sys2Proof/Machine/Kv.lean ====
section
/-!
DEFINITION. Kv: descriptors, geometry, the walk and the block translation buffer, `vld.kv`, `vst.kv`, `kv.bind` and
gathers (R171, R246, R247, R336 to R349).
-/
namespace Sys2Proof.Machine

/-! ## Records (R336 to R339) -/

/-- A valid descriptor with its geometry (R338, R339). -/
structure KvGeo where
  desc : Nat
  wr : Bool
  bt : Nat
  nblk : Nat
  sk : Bool
  e4 : Bool
  hd : Nat
  heads : Nat
  layers : Nat
deriving DecidableEq, Repr

/-- The descriptor's own fields pass (R338). -/
def descOk (w : List Nat) : Bool :=
  let g (i : Nat) : Nat := w.getD i 0
  bit (g 0) 63 && bits (g 0) 61 32 == 0 && bits (g 1) 63 56 == 0 && bits (g 1) 5 0 == 0 && bits (g 2) 63 56 == 0 &&
  bits (g 2) 2 0 == 0 && bits (g 3) 63 28 == 0 && (w.drop 4).all (· == 0)

/-- Address of the geometry record. -/
def geomAddr (w : List Nat) : Nat := bits (w.getD 1 0) 55 6 * 64

def KvGeo.of (desc : Nat) (w g : List Nat) : KvGeo :=
  let a := g.getD 0 0
  { desc := desc, wr := bit (w.getD 0 0) 62, bt := bits (w.getD 2 0) 55 3 * 8, nblk := bits (w.getD 3 0) 27 0
    sk := bit a 29, e4 := bit a 28, hd := bits a 24 16, heads := bits a 15 8 + 1, layers := bits a 7 0 + 1 }

/-- Bytes of an element of a key or value. -/
def KvGeo.es (k : KvGeo) : Nat := if k.e4 then 1 else 2
/-- Bytes of a key or value vector's place. -/
def KvGeo.vb (k : KvGeo) : Nat := (k.hd * k.es + 31) / 32 * 32
/-- Bytes of a sketch's place. -/
def KvGeo.sb (k : KvGeo) : Nat := if k.sk then (k.hd + 63) / 64 * 32 else 0
/-- Bytes of a (layer, head) group. -/
def KvGeo.group (k : KvGeo) : Nat := 16 * (2 * k.vb + k.sb)
/-- Bytes of a page's footprint. -/
def KvGeo.footprint (k : KvGeo) : Nat := 64 + k.layers * k.heads * k.group

/-- The geometry's fields pass (R338). -/
def geomOk (g : List Nat) : Bool :=
  let a := g.getD 0 0
  let b := g.getD 1 0
  let k := KvGeo.of 0 [] g
  bits a 63 30 == 0 && bits a 27 25 == 0 && bits b 63 56 == 0 && bits b 1 0 == 0 && (g.drop 2).all (· == 0) &&
  decide (1 ≤ k.hd) && decide (k.hd ≤ 256) && (k.sk == (bits b 55 2 != 0)) && decide (k.footprint ≤ 2 ^ 30)

/-- Offset of an item in its page (Table 16-3). -/
def KvGeo.offset (k : KvGeo) (layer head slot : Nat) (value sketch : Bool) : Nat :=
  let g := 64 + (layer * k.heads + head) * k.group
  if sketch then g + 32 * k.vb + slot * k.sb
  else if value then g + 16 * k.vb + slot * k.vb
  else g + slot * k.vb

/-- Descriptor and geometry read as strand loads (R338, R408): `absent` where one lies on a page not resident at dispatch,
`bad` where the pair is not valid, with the descriptor's address. -/
def State.kvRecords (s : State) (slot : Nat) (desc : Word) (absent : Nat → State → State) (bad : Nat → State → State)
    (f : KvGeo → List Nat → List Nat → State → State) : State :=
  s.record slot desc 64 absent fun va w s =>
    if !descOk w then bad va s
    else s.record slot (BitVec.ofNat 64 (geomAddr w)) 64 absent fun _ g s =>
      if geomOk g then f (KvGeo.of va w g) w g s else bad va s

/-! ## The walk (R340 to R343) -/

/-- The page of a block: its virtual and physical address, or the cause of R341. -/
def State.kvWalk (s : State) (cx : Nat) (k : KvGeo) (b : Nat) (wr : Bool) : Except Cause (Nat × Nat) × State :=
  let die := dieOf cx
  let asn := s.asnOf cx
  if k.nblk ≤ b then (.error .kvFault, s)
  else
    let ea := k.bt + 8 * b
    let (el, s) := s.translate die asn ea
    match el with
    | none => (.error .kvFault, s)
    | some el =>
      let epa := el.paOf ea
      match (s.die die).btb.find? fun e => e.asn == asn && e.entryPa == epa with
      | some e =>
        let s := s.updDie die fun d => { d with btb := (d.btb.filter fun x => x != e) ++ [e] }
        (leafCheck s e.leaf wr, s)
      | none =>
        if !el.r || el.isSealed || s.sealTag epa != 0 || el.co then (.error .kvFault, s)
        else if s.unreadable die epa 8 then (.error .kvFault, s.readMet die epa 8 (s.slotOf cx))
        else
          let w := leValue (s.peek epa 8)
          if w = 0 ∨ bits w 63 56 ≠ 0 ∨ bits w 11 0 ≠ 0 then (.error .kvFault, s)
          else
            let (l, s) := s.translate die asn w
            match l with
            | none => (.error .kvFault, s)
            | some l =>
              if l.va + l.size < w + k.footprint then (.error .kvFault, s)
              else
                let leaf := { l with va := w, pa := l.paOf w }
                match leafCheck s leaf wr with
                | .error c => (.error c, s)
                | .ok p =>
                  let e : BtbEntry := { asn := asn, entryPa := epa, leaf := leaf }
                  (.ok p, s.updDie die fun d =>
                    { d with btb := (if 512 ≤ d.btb.length then d.btb.drop 1 else d.btb) ++ [e] })
where
  /-- Step 5: the checks of the page's leaf. -/
  leafCheck (s : State) (l : Leaf) (wr : Bool) : Except Cause (Nat × Nat) :=
    if l.isSealed || s.sealTag l.pa != 0 then .error .sealed
    else if l.co then .error .computeOnly
    else if !l.r || (wr && !l.w) then .error .prot
    else .ok (l.va, l.pa)

/-! ## `vld.kv` and `vst.kv` (R171) -/

/-- A KV part: where it lies, and how many of its bytes belong to the vector. -/
structure KvPart where
  va : Nat
  page : Nat
  pa : Nat
  n : Nat

/-- A byte of a range lies in a 4 KiB page that is sealed (R397). -/
def State.sealedAt (s : State) (pa n : Nat) : Bool := (pagesOf pa [(0, n)]).any fun g => n != 0 && s.sealTag (g * 4096) != 0

/-- The location of a KV access; a fault's address is that of the descriptor, but for KV_SHARED (R171). -/
def State.kvPlace (s : State) (slot : Nat) (k : KvGeo) (coord : Nat) (wr : Bool) (f : KvPart → State → State) : State :=
  let layer := bits coord 47 40
  let head := bits coord 39 32
  let pos := bits coord 31 0
  let part := bits coord 49 48
  if k.layers ≤ layer ∨ k.heads ≤ head ∨ (wr ∧ ¬k.wr) then s.raise slot .prot k.desc 0
  else
    match s.kvWalk s.iss.cx k (pos / 16) wr with
    | (.error c, s) => s.raise slot c k.desc 0
    | (.ok (va, pa), s) =>
      let pins := leValue ((s.peek pa 8).take 2)
      let at_ := pa + k.offset layer head (pos % 16) (bit coord 50) false + 128 * part
      let n := min 128 (k.hd * k.es - 128 * part)
      if s.sealedAt at_ n then s.raise slot .sealed k.desc 0
      else if wr ∧ 1 < pins then s.raise slot .kvShared va pins
      else
        match (if s.iss.committed.isNone && s.mixtrap s.iss.cx then s.mixHit (s.strandId s.iss.cx) at_ n 128 else none) with
        | some m => s.raise slot .mixsize k.desc (sizeCode m.size * 16 + 7)
        | none => f { va := va, page := pa, pa := at_, n := n } (s.mixProbe s.iss.cx at_ n 128)

def execVldKv (o : OpCM) (s : State) : Out :=
  let slot := slotC o.tw
  guarded o.p (fun s => s.chkG slot (s.rdG o.a) fun s => s.chkG slot (s.rdG (srcNext o.a)) fun s =>
    s.kvRecords slot (s.rdG o.a).val
      (fun _ s => (s.zeroV o.d 128).hw .resFlag)
      (fun va s => s.raise slot .prot va 0)
      fun k _ _ s => s.kvPlace slot k (s.rdG (srcNext o.a)).val.toNat false fun p s =>
        let die := dieOf s.iss.cx
        if s.unreadable die p.pa p.n then (s.readMet die p.pa p.n (s.slotOf s.iss.cx)).zeroV o.d 128
        else
          let bs := s.peek p.pa p.n
          let (t, s) := (s.count s.iss.cx .kv p.n).landing Config.accessDelay
          s.noteAgain (s.pendV o.d (loadedV bs) t) [(.dev p.pa, p.n)] 0) s
def execVstKv (o : OpCM) (s : State) : Out :=
  let slot := slotC o.tw
  guarded o.p (fun s => s.chkG slot (s.rdG o.a) fun s => s.chkG slot (s.rdG (srcNext o.a)) fun s =>
    s.chkV slot (s.rdV o.c) fun s =>
      s.kvRecords slot (s.rdG o.a).val
        (fun i s => (s.dropRun s.iss.cx i).hw .resFlag)
        (fun va s => s.raise slot .prot va 0)
        fun k _ _ s => s.kvPlace slot k (s.rdG (srcNext o.a)).val.toNat true fun p s =>
          let bs := (bytesOfVec (s.rdV o.c).val).take p.n
          if s.severed (dieOf s.iss.cx) p.pa then s.eccAt [p.pa] p.pa (s.slotOf s.iss.cx)
          else ((s.poke (s.slotOf s.iss.cx) p.pa bs).mixRecord s.iss.cx p.pa p.n false 128).count s.iss.cx .kv (s.wrote p.pa p.n)) s

/-! ## `kv.bind` (R246) -/

def execKvBind (o : OpCE) (s : State) : Out :=
  let slot := slotC o.tw
  let status (v : Nat) (s : State) : State :=
    let (t, s) := s.landing Config.accessDelay
    s.pendG o.d (BitVec.ofNat 64 v) t
  guarded o.p (fun s => s.chkG slot (s.rdG o.a) fun s =>
    s.kvRecords slot (s.rdG o.a).val
      (fun _ s => (status 2 s).hw .resFlag)
      (fun _ => status 1)
      fun k w g s =>
        let b : KvBind := { desc := k.desc, w := w.map (BitVec.ofNat 64), geom := g.map (BitVec.ofNat 64) }
        status 0 (s.updSt fun st => { st with kv := some b })) s

/-! ## Gathers (R247, R344, R345) -/

/-- The geometry of a binding. -/
def KvBind.geo (b : KvBind) : KvGeo := KvGeo.of b.desc (b.w.map (·.toNat)) (b.geom.map (·.toNat))

/-- The tokens of a gather: for each the physical address of its vector or sketch, none where it is masked; or the cause
of the walk that fails first. -/
def State.gatherTokens (s : State) (cx : Nat) (k : KvGeo) (coord len : Nat) (sk : Bool) :
    Nat → Nat → Except Cause (List (Option Nat)) × State
  | 0, _ => (.ok [], s)
  | n + 1, p =>
    if len ≤ p then
      match s.gatherTokens cx k coord len sk n (p + 1) with
      | (.error c, s) => (.error c, s)
      | (.ok r, s) => (.ok (none :: r), s)
    else
      match s.kvWalk cx k (p / 16) false with
      | (.error c, s) => (.error c, s)
      | (.ok (_, pa), s) =>
        let at_ := pa + k.offset (bits coord 47 40) (bits coord 39 32) (p % 16) (bit coord 50) sk
        if s.sealedAt at_ (if sk then (k.hd + 7) / 8 else k.hd * k.es) then (.error .sealed, s)
        else
          match s.gatherTokens cx k coord len sk n (p + 1) with
          | (.error c, s) => (.error c, s)
          | (.ok r, s) => (.ok (some at_ :: r), s)

/-- A gather of `n` tokens (R247), by an instruction or by a template, which writes no `%due` (R250). -/
def State.gatherOp (s : State) (slot : Nat) (d : Option Dst) (coord row n : Nat) (ty : Ty) (sk : Bool)
    (bar : Checked (Option Nat)) : State :=
  match s.cur.st.kv with
  | none => s.raise slot .prot 0 0
  | some b =>
    let k := b.geo
    let pos := bits coord 31 0
    let rpt := (k.hd * ty.width + 1023) / 1024
    let rowAt (i : Nat) : Checked Nat := (s.locCheck s.iss.cx (coreIdx s.iss.cx) ((row + i) % 8192) 0).map (·.1)
    let ok := (pos + n - 1) / 16 - pos / 16 ≤ 1 && bits coord 47 40 < k.layers && bits coord 39 32 < k.heads &&
      !(sk && (!k.sk || bit coord 50))
    let len := s.cur.st.ctl.seqlen.toNat
    let (toks, s1) : Except Cause (List (Option Nat)) × State :=
      if ok then s.gatherTokens s.iss.cx k coord len sk n pos else (.ok [], s)
    let walk : Option (Cause × Nat × Nat) := match toks with
      | .error c => some (c, k.desc, 0)
      | .ok _ => none
    s1.unless slot (walk :: protUnless ok k.desc :: failed bar :: (List.range (n * rpt)).map fun i => failed (rowAt i))
      fun s =>
        let ts := match toks with
          | .error _ => []
          | .ok ts => ts
        let live := (ts.filter Option.isSome).length
        let rows := ts.zipIdx.map fun t => (okOr 0 (rowAt (t.2 * rpt)), t.1)
        let sectors := if live = 0 then 1 else live * ((k.hd * ty.width + 255) / 256)
        let nbytes := live * ((k.hd * ty.width + 7) / 8)
        let P := s.promiseTick 2 128 nbytes
        let efmt := if sk then 1 else if k.e4 then 11 else 10
        let s := s.enqueue 2 (.gather rows k.hd efmt sk ty) (okOr none bar) sectors 0 P none true
        match d with
        | none => s
        | some d => s.issued (some d) P

def execGathKv (o : OpCE) (s : State) : Out :=
  let slot := slotC o.tw
  guarded o.p (fun s => s.chkG slot (s.rdG o.a) fun s => s.chkG slot (s.rdG o.b) fun s => s.chkG slot (s.rdG o.c) fun s =>
    let b := (s.rdG o.b).val.toNat
    let c := (s.rdG o.c).val.toNat
    s.gatherOp slot (some o.d) (s.rdG o.a).val.toNat (bits b 12 0) (bits b 19 16 + 1) (Wf.tyOf (o.m.extractLsb' 8 4))
      (o.m.getLsbD 7) (s.barIf (bit c 16) (bits c 12 0) (bits c 15 13))) s

/-- The type that a gather's source elements have. -/
def gatherSrc (efmt : Nat) : Ty :=
  match efmtOf efmt with
  | .ty t => t
  | _ => .bf

/-- The key of the i-th row after a row of the same scratchpad. -/
def rowAfter (key i : Nat) : Nat := key / 0x100000 * 0x100000 + (key % 0x100000 + 128 * i) % 0x100000

/-- A gathered token written: zeros after its vector, then each sector of the vector decoded and stored; a masked one's rows are zero. Answers the codes of its
sectors. -/
def State.gatherToken (s : State) (cx key : Nat) (src : Option Nat) (hd efmt : Nat) (ty : Ty) : List Nat × State :=
  let sty := gatherSrc efmt
  let rpt := (hd * ty.width + 1023) / 1024
  match src with
  | none => ([], (List.range rpt).foldl (fun s i => s.locPut cx (rowAfter key i) (List.replicate 128 0)) s)
  | some pa =>
    let used := (hd * ty.width + 7) / 8 - 128 * (rpt - 1)
    let s := s.locPut cx (rowAfter key (rpt - 1) + used) (List.replicate (128 - used) 0)
    let per := 256 / ty.width
    (List.range ((hd * ty.width + 255) / 256)).foldl (fun acc j =>
      let (cs, s) := acc
      let first := j * per
      let n := min per (hd - first)
      let a := pa + first * sty.width / 8
      let m := (n * sty.width + 7) / 8
      if s.unreadable (dieOf cx) a m then (cs ++ [1], s.readMet (dieOf cx) a m (s.slotOf cx))
      else
        let x := leValue (s.peek a m)
        let es := (List.range n).map fun i => (decodeElem sty ty (laneN sty.width x i)).1
        let bs := leBytes ((n * ty.width + 7) / 8) (ofLanes ty.width es)
        let at_ := rowAfter key (j / 4) + j % 4 * 32
        let w := s.locWrote at_ bs.length
        (cs ++ [0], ((s.locPut cx at_ bs).count cx .kv m).count cx .local_ w)) ([], s)

/-- A gather performed: masked tokens' rows first (R345), then the others; its sectors settle. -/
def State.performGather (s : State) (c : Cmd) (rows : List (Nat × Option Nat)) (hd efmt : Nat) (ty : Ty) : State :=
  let s := (rows.filter fun r => r.2.isNone).foldl (fun s r => (s.gatherToken c.cx r.1 none hd efmt ty).2) s
  let live := rows.filter fun r => r.2.isSome
  if live.isEmpty then s.settle c.barrier c.sectors 0
  else
    let (cs, s) := live.foldl (fun acc r =>
      let (x, s) := acc.2.gatherToken c.cx r.1 r.2 hd efmt ty
      (acc.1 ++ x, s)) (([] : List Nat), s)
    let s := s.settle c.barrier (cs.count 1) 1
    s.settle c.barrier (cs.count 0) 0

end Sys2Proof.Machine
end

