-- ==== Sys2Proof/Machine/Pfx.lean ====
section
/-!
DEFINITION. Pfx: the prefix table of a die and the six `pfx` instructions (R255 to R261, R333, R334, R348, R351).
-/
namespace Sys2Proof.Machine

/-! ## Operands (R261) -/

/-- The bytes of a strand operand in pieces of `n` bytes: the checks of steps 1 to 6 of R166 for every piece that does not lie on a run
not resident at dispatch, which raises nothing; then the bytes, or none where one lies on such a run or cannot be read. -/
def State.pfxOperand (s : State) (slot : Nat) (va n count : Nat) (f : Option (List Byte) → State → State) : State :=
  let s0 : State := { s with mix := [] }
  let absent (a : Nat) : Bool := match findRun s.cur.runs (a / n * n) with
    | some (_, r) => !r.resident
    | none => false
  let cs := (List.range count).map fun i => (va + n * i, s0.devCheck s.iss.cx ((va + n * i : Nat) : Int) n true false false)
  s.unless slot (cs.map fun c => if absent c.1 then none else failed c.2) fun s =>
    let pas := cs.map fun c =>
      match c.2 with
      | .ok a => a.pa
      | .error _ => none
    if pas.any Option.isNone then f none s
    else
      let ps := pas.filterMap id
      match ps.find? fun pa => s.unreadable (dieOf s.iss.cx) pa n with
      | some pa => f none (s.readMet (dieOf s.iss.cx) pa n (s.slotOf s.iss.cx))
      | none => f (some (ps.flatMap fun pa => s.peek pa n)) (s.count s.iss.cx .device (n * count))

/-- An interlocked result of the table. -/
def State.pfxResult (s : State) (d : Dst) (v : Nat) : State :=
  let (t, s) := s.landing Config.accessDelay
  s.pendG d (BitVec.ofNat 64 v) t

/-- The result of an operand that is not resident (R261). -/
def State.pfxAbsent (s : State) (d : Dst) : State := (s.pfxResult d (2 ^ 64 - 3)).hw .resFlag

/-- The physical address that a table operand translates to under R261. -/
def State.pfxAddr (s : State) (die asn va : Nat) (page : Bool) : Option Nat × State :=
  if page ∧ va % 4096 ≠ 0 then (none, s)
  else
    let (l, s) := s.translate die asn va
    match l with
    | none => (none, s)
    | some l =>
      let pa := l.paOf va
      if l.r && (l.w || !page) && !l.isSealed && s.sealTag pa == 0 && !l.co then (some pa, s) else (none, s)

/-- The pin count of a page (R339). -/
def State.pinCount (s : State) (pa : Nat) : Nat := leValue (s.peek pa 2)
/-- A pin count written, with bits 63:16 zero (R261). -/
def State.setPins (s : State) (pa n : Nat) : State := s.poke (s.slotOf s.iss.cx) pa (leBytes 8 (n % 65536))

/-! ## The table (R255) -/

def Die.entry (d : Die) (i : Nat) : PfxEntry := FMap.getD d.pfx i {}
def State.putEntry (s : State) (die i : Nat) (e : PfxEntry) : State :=
  s.updDie die fun d => { d with pfx := FMap.put d.pfx i e }
/-- An entry that an address space sees. -/
def Die.sees (d : Die) (asn i : Nat) : Bool := (d.entry i).valid && (d.entry i).asn == asn
/-- The visible entry of a hash. -/
def Die.hashAt (d : Die) (asn : Nat) (h : Word) : Option Nat :=
  (List.range 64).find? fun i => d.sees asn i && (d.entry i).hash == h
/-- An entry's stamp renewed from the table's counter (R351). -/
def State.stamp (s : State) (die i : Nat) : State :=
  s.updDie die fun d =>
    let u := d.useCtr + 1
    { d with useCtr := u, pfx := FMap.put d.pfx i { d.entry i with use := u } }

/-- The entries that the leading hashes match. -/
def Die.matches (d : Die) (asn : Nat) : List Nat → List Nat
  | [] => []
  | h :: r =>
    match d.hashAt asn (BitVec.ofNat 64 h) with
    | none => []
    | some i => i :: d.matches asn r

/-! ## The instructions -/

def execPfxHash (o : OpCP) (s : State) : Out :=
  let slot := slotC o.tw
  guarded o.p (fun s => s.chkG slot (s.rdG o.b) fun s =>
    s.pfxOperand slot (s.rdG o.b).val.toNat 64 1 fun bs s =>
      match bs with
      | none => s.pfxAbsent o.d
      | some bs => s.pfxResult o.d (shake256First (leBytes 8 (s.rdG o.a).val.toNat ++ bs)).toNat) s

def execPfxLook (o : OpCP) (s : State) : Out :=
  let slot := slotC o.tw
  guarded o.p (fun s => s.chkG slot (s.rdG o.a) fun s =>
    s.pfxOperand slot (s.rdG o.a).val.toNat 8 (min (s.rdG o.b).val.toNat 64) fun bs s =>
      match bs with
      | none => s.pfxAbsent o.d
      | some bs =>
        let die := dieOf s.iss.cx
        let ms := (s.die die).matches (s.asnOf s.iss.cx) (wordsOf bs)
        let s := ms.foldl (fun s i => s.stamp die i) s
        s.pfxResult o.d (ms.length + (ms.getLast?.getD 0) * 256)) s

def execPfxCmp (o : OpCP) (s : State) : Out :=
  let slot := slotC o.tw
  guarded o.p (fun s => s.chkG slot (s.rdG o.b) fun s =>
    s.pfxOperand slot (s.rdG o.b).val.toNat 64 1 fun bs s =>
      match bs with
      | none => s.pfxAbsent o.d
      | some bs =>
        let die := dieOf s.iss.cx
        let asn := s.asnOf s.iss.cx
        let i := (s.rdG o.a).val.toNat % 64
        if (s.die die).sees asn i then
          let (pa, s) := s.pfxAddr die asn (((s.die die).entry i).tok / 64 * 64) false
          match pa with
          | none => s.pfxResult o.d (2 ^ 64 - 4)
          | some pa => s.pfxResult o.d (if s.peek pa 64 = bs then 1 else 0)
        else s.pfxResult o.d (2 ^ 64 - 1)) s

/-- A victim among the visible entries: the oldest of those whose page's pin count reads 1, or whose page fails R261, with
the page's place (R259, R351). -/
def State.pfxVictim (s : State) (die asn : Nat) : Option (Nat × Option Nat) × State :=
  let (vs, s) := (List.range 64).foldl (fun acc i =>
    let (vs, s) := acc
    if (s.die die).sees asn i then
      let (pa, s) := s.pfxAddr die asn ((s.die die).entry i).page true
      match pa with
      | none => (vs ++ [(i, none)], s)
      | some pa => (if s.pinCount pa = 1 then vs ++ [(i, some pa)] else vs, s)
    else (vs, s)) (([] : List (Nat × Option Nat)), s)
  let use (v : Nat × Option Nat) : Nat := ((s.die die).entry v.1).use.toNat
  (vs.foldl (fun best v =>
    match best with
    | none => some v
    | some b => if use v < use b then some v else some b) none, s)

/-- A hash put into an entry that is free or was evicted. -/
def State.pfxFill (s : State) (die i asn : Nat) (h : Word) (page pagePa tok : Nat) : State :=
  let s := s.putEntry die i { valid := true, asn := asn, hash := h, page := page, tok := tok }
  (s.stamp die i).setPins pagePa (s.pinCount pagePa + 1)

/-- `pfx.ins` once its operands have passed (R259): the value of gD, and the state. -/
def State.pfxInsert (s : State) (die asn : Nat) (h : Word) (page pagePa tok : Nat) : Nat × State :=
  match (s.die die).hashAt asn h with
  | some i => (2 ^ 63 + i, s)
  | none =>
    if s.pinCount pagePa = 65535 then (2 ^ 64 - 2, s)
    else
      match (List.range 64).find? fun i => !((s.die die).entry i).valid with
      | some i => (i, s.pfxFill die i asn h page pagePa tok)
      | none =>
        let (v, s) := s.pfxVictim die asn
        match v with
        | none => (2 ^ 64 - 1, s)
        | some (i, pa) =>
          let s := match pa with
            | none => s
            | some pa => s.setPins pa (s.pinCount pa - 1)
          (i, s.pfxFill die i asn h page pagePa tok)

def execPfxIns (o : OpCP) (s : State) : Out :=
  let slot := slotC o.tw
  guarded o.p (fun s => s.chkG slot (s.rdG o.b) fun s => s.chkG slot (s.rdG o.c) fun s =>
    let die := dieOf s.iss.cx
    let asn := s.asnOf s.iss.cx
    let page := (s.rdG o.b).val.toNat
    let tok := (s.rdG o.c).val.toNat
    let (pa, s) := s.pfxAddr die asn page true
    let (ta, s) := s.pfxAddr die asn (tok / 64 * 64) false
    match pa, ta with
    | some pa, some _ =>
      let (v, s) := s.pfxInsert die asn (s.rdG o.a).val page pa tok
      s.pfxResult o.d v
    | _, _ => s.pfxResult o.d (2 ^ 64 - 4)) s

/-- A pin count raised or lowered by an instruction (R260). -/
def State.pfxPins (s : State) (d : Dst) (i : Nat) (up : Bool) : State :=
  let die := dieOf s.iss.cx
  let asn := s.asnOf s.iss.cx
  if (s.die die).sees asn i then
    let (pa, s) := s.pfxAddr die asn ((s.die die).entry i).page true
    match pa with
    | none => s.pfxResult d (2 ^ 64 - 4)
    | some pa =>
      let n := s.pinCount pa
      if (up ∧ n = 65535) ∨ (¬up ∧ n ≤ 1) then s.pfxResult d (2 ^ 64 - 2)
      else
        let m := if up then n + 1 else n - 1
        (s.setPins pa m).pfxResult d m
  else s.pfxResult d (2 ^ 64 - 1)

def execPfxPin (o : OpCP) (s : State) : Out :=
  guarded o.p (fun s => s.pfxPins o.d ((s.rdG o.a).val.toNat % 64) true) s
def execPfxUnpin (o : OpCP) (s : State) : Out :=
  guarded o.p (fun s => s.pfxPins o.d ((s.rdG o.a).val.toNat % 64) false) s

end Sys2Proof.Machine
end

