-- ==== Sys2Proof/Machine/Words.lean ====
section
/-!
DEFINITION. Words: running a decoded word of slots S, V, M and C, and the registers and latches that an executing word reads
or writes (R201).
-/
namespace Sys2Proof.Machine

/-- What a slot reads or writes, for the waits of R201. -/
inductive Use where
  | reg (r : RegName)
  | latch (n : Nat)
deriving DecidableEq, Repr

def useG : Src → List Use
  | .reg n => [.reg (.g n.toNat)]
  | .latch n => [.latch n.toNat]
def useV : Src → List Use
  | .reg n => [.reg (.v n.toNat)]
  | .latch n => [.latch n.toNat]
def useK : Src → List Use
  | .reg n => [.reg (.k n.toNat)]
  | .latch n => [.latch n.toNat]
/-- A destination, unless it is a latch alone. -/
def useD (f : Nat → RegName) (d : Dst) : List Use := if d.latchOnly then [] else [.reg (f d.n.toNat)]
/-- An address operand by space: a b register, a g register, or a pair (Table 05-4). -/
def useAddr (sp : Nat) (a : Src) : List Use := if sp = 0 then [] else if sp < 3 then useG a else useG a ++ useG (srcNext a)

/-- What a `cas` reads and writes: its expected value stands in g(D[4:0]), whatever form D has (R179, R201). -/
def useCas (sp : Nat) (o : OpSA) : List Use := Use.reg (.g o.d.n.toNat) :: (useG o.c ++ useAddr sp o.a)

/-! ## Slot S -/

/-- The effect of a word of slot S. -/
def SWord.run (w : SWord) (s : State) : Out :=
  match w with
  | .nop o => execNop o s
  | .add o => execAdd o s
  | .sub o => execSub o s
  | .mul o => execMul o s
  | .mulhS64 o => execMulhS64 o s
  | .mulhZ64 o => execMulhZ64 o s
  | .divS64 o => execDivS64 o s
  | .divZ64 o => execDivZ64 o s
  | .remS64 o => execRemS64 o s
  | .remZ64 o => execRemZ64 o s
  | .minS64 o => execMinS64 o s
  | .minZ64 o => execMinZ64 o s
  | .maxS64 o => execMaxS64 o s
  | .maxZ64 o => execMaxZ64 o s
  | .addImm o => execAddImm o s
  | .subImm o => execSubImm o s
  | .mulImm o => execMulImm o s
  | .mulhS64Imm o => execMulhS64Imm o s
  | .mulhZ64Imm o => execMulhZ64Imm o s
  | .divS64Imm o => execDivS64Imm o s
  | .divZ64Imm o => execDivZ64Imm o s
  | .remS64Imm o => execRemS64Imm o s
  | .remZ64Imm o => execRemZ64Imm o s
  | .minS64Imm o => execMinS64Imm o s
  | .minZ64Imm o => execMinZ64Imm o s
  | .maxS64Imm o => execMaxS64Imm o s
  | .maxZ64Imm o => execMaxZ64Imm o s
  | .and o => execAnd o s
  | .or o => execOr o s
  | .xor o => execXor o s
  | .andn o => execAndn o s
  | .shl o => execShl o s
  | .shrZ64 o => execShrZ64 o s
  | .shrS64 o => execShrS64 o s
  | .rot o => execRot o s
  | .andImm o => execAndImm o s
  | .orImm o => execOrImm o s
  | .xorImm o => execXorImm o s
  | .andnImm o => execAndnImm o s
  | .shlImm o => execShlImm o s
  | .shrZ64Imm o => execShrZ64Imm o s
  | .shrS64Imm o => execShrS64Imm o s
  | .rotImm o => execRotImm o s
  | .popc o => execPopc o s
  | .clz o => execClz o s
  | .ctz o => execCtz o s
  | .bext o => execBext o s
  | .bins o => execBins o s
  | .sext o => execSext o s
  | .cmpEq o => execCmpEq o s
  | .cmpNe o => execCmpNe o s
  | .cmpLtS64 o => execCmpLtS64 o s
  | .cmpLtZ64 o => execCmpLtZ64 o s
  | .cmpLeS64 o => execCmpLeS64 o s
  | .cmpLeZ64 o => execCmpLeZ64 o s
  | .cmpEqQ o => execCmpEqQ o s
  | .cmpNeQ o => execCmpNeQ o s
  | .cmpLtS64Q o => execCmpLtS64Q o s
  | .cmpLtZ64Q o => execCmpLtZ64Q o s
  | .cmpLeS64Q o => execCmpLeS64Q o s
  | .cmpLeZ64Q o => execCmpLeZ64Q o s
  | .cmpEqImm o => execCmpEqImm o s
  | .cmpNeImm o => execCmpNeImm o s
  | .cmpLtS64Imm o => execCmpLtS64Imm o s
  | .cmpLtZ64Imm o => execCmpLtZ64Imm o s
  | .cmpLeS64Imm o => execCmpLeS64Imm o s
  | .cmpLeZ64Imm o => execCmpLeZ64Imm o s
  | .cmpEqQImm o => execCmpEqQImm o s
  | .cmpNeQImm o => execCmpNeQImm o s
  | .cmpLtS64QImm o => execCmpLtS64QImm o s
  | .cmpLtZ64QImm o => execCmpLtZ64QImm o s
  | .cmpLeS64QImm o => execCmpLeS64QImm o s
  | .cmpLeZ64QImm o => execCmpLeZ64QImm o s
  | .sel o => execSel o s
  | .li o => execLi o s
  | .lih o => execLih o s
  | .movFromCr o => execMovFromCr o s
  | .movToCr o => execMovToCr o s
  | .evtSet o => execEvtSet o s
  | .evtClr o => execEvtClr o s
  | .faddF o => execFaddF o s
  | .fsubF o => execFsubF o s
  | .fmulF o => execFmulF o s
  | .fmaF o => execFmaF o s
  | .fminF o => execFminF o s
  | .fmaxF o => execFmaxF o s
  | .cvt o => execCvt o s
  | .pagein o => execPagein o s
  | .ldLoc o => execLdLoc o s
  | .stLoc o => execStLoc o s
  | .ldClu o => execLdClu o s
  | .stClu o => execStClu o s
  | .ldDev o => execLdDev o s
  | .stDev o => execStDev o s
  | .ldPeer o => execLdPeer o s
  | .stPeer o => execStPeer o s
  | .ldHost o => execLdHost o s
  | .stHost o => execStHost o s
  | .spLd o => execSpLd o s
  | .spSt o => execSpSt o s
  | .spVld o => execSpVld o s
  | .spVst o => execSpVst o s
  | .atomAddLoc o => execAtomAddLoc o s
  | .atomAndLoc o => execAtomAndLoc o s
  | .atomOrLoc o => execAtomOrLoc o s
  | .atomXorLoc o => execAtomXorLoc o s
  | .atomMinsLoc o => execAtomMinsLoc o s
  | .atomMinzLoc o => execAtomMinzLoc o s
  | .atomMaxsLoc o => execAtomMaxsLoc o s
  | .atomMaxzLoc o => execAtomMaxzLoc o s
  | .atomSwapLoc o => execAtomSwapLoc o s
  | .atomCasLoc o => execAtomCasLoc o s
  | .atomAddClu o => execAtomAddClu o s
  | .atomAndClu o => execAtomAndClu o s
  | .atomOrClu o => execAtomOrClu o s
  | .atomXorClu o => execAtomXorClu o s
  | .atomMinsClu o => execAtomMinsClu o s
  | .atomMinzClu o => execAtomMinzClu o s
  | .atomMaxsClu o => execAtomMaxsClu o s
  | .atomMaxzClu o => execAtomMaxzClu o s
  | .atomSwapClu o => execAtomSwapClu o s
  | .atomCasClu o => execAtomCasClu o s
  | .atomAddDev o => execAtomAddDev o s
  | .atomAndDev o => execAtomAndDev o s
  | .atomOrDev o => execAtomOrDev o s
  | .atomXorDev o => execAtomXorDev o s
  | .atomMinsDev o => execAtomMinsDev o s
  | .atomMinzDev o => execAtomMinzDev o s
  | .atomMaxsDev o => execAtomMaxsDev o s
  | .atomMaxzDev o => execAtomMaxzDev o s
  | .atomSwapDev o => execAtomSwapDev o s
  | .atomCasDev o => execAtomCasDev o s
  | .atomAddPeer o => execAtomAddPeer o s
  | .atomAndPeer o => execAtomAndPeer o s
  | .atomOrPeer o => execAtomOrPeer o s
  | .atomXorPeer o => execAtomXorPeer o s
  | .atomMinsPeer o => execAtomMinsPeer o s
  | .atomMinzPeer o => execAtomMinzPeer o s
  | .atomMaxsPeer o => execAtomMaxsPeer o s
  | .atomMaxzPeer o => execAtomMaxzPeer o s
  | .atomSwapPeer o => execAtomSwapPeer o s
  | .atomCasPeer o => execAtomCasPeer o s
  | .barInit o => execBarInit o s
  | .barArrive o => execBarArrive o s
  | .barWait o => execBarWait o s
  | .barTest o => execBarTest o s

/-- The predicate of a word of slot S. -/
def SWord.pred : SWord → Pred
  | .nop o => o.p
  | .add o | .sub o | .mul o | .mulhS64 o | .mulhZ64 o | .divS64 o | .divZ64 o | .remS64 o | .remZ64 o | .minS64 o
    | .minZ64 o | .maxS64 o | .maxZ64 o | .and o | .or o | .xor o | .andn o | .shl o | .shrZ64 o | .shrS64 o | .rot o
    | .popc o | .clz o | .ctz o | .cmpEq o | .cmpNe o | .cmpLtS64 o | .cmpLtZ64 o | .cmpLeS64 o | .cmpLeZ64 o | .sel o
    | .faddF o | .fsubF o | .fmulF o | .fmaF o | .fminF o | .fmaxF o => o.p
  | .addImm o | .subImm o | .mulImm o | .mulhS64Imm o | .mulhZ64Imm o | .divS64Imm o | .divZ64Imm o | .remS64Imm o
    | .remZ64Imm o | .minS64Imm o | .minZ64Imm o | .maxS64Imm o | .maxZ64Imm o | .andImm o | .orImm o | .xorImm o
    | .andnImm o | .shlImm o | .shrZ64Imm o | .shrS64Imm o | .rotImm o | .cmpEqImm o | .cmpNeImm o | .cmpLtS64Imm o
    | .cmpLtZ64Imm o | .cmpLeS64Imm o | .cmpLeZ64Imm o | .pagein o => o.p
  | .bext o | .bins o | .sext o => o.p
  | .cmpEqQ o | .cmpNeQ o | .cmpLtS64Q o | .cmpLtZ64Q o | .cmpLeS64Q o | .cmpLeZ64Q o => o.p
  | .cmpEqQImm o | .cmpNeQImm o | .cmpLtS64QImm o | .cmpLtZ64QImm o | .cmpLeS64QImm o | .cmpLeZ64QImm o => o.p
  | .li o | .lih o => o.p
  | .movFromCr o => o.p
  | .movToCr o => o.p
  | .evtSet o | .evtClr o => o.p
  | .cvt o => o.p
  | .ldLoc o | .stLoc o | .ldClu o | .stClu o | .ldDev o | .stDev o | .ldPeer o | .stPeer o | .ldHost o | .stHost o => o.p
  | .spLd o | .spSt o | .spVld o | .spVst o => o.p
  | .atomAddLoc o | .atomAndLoc o | .atomOrLoc o | .atomXorLoc o | .atomMinsLoc o | .atomMinzLoc o | .atomMaxsLoc o
    | .atomMaxzLoc o | .atomSwapLoc o | .atomCasLoc o | .atomAddClu o | .atomAndClu o | .atomOrClu o | .atomXorClu o
    | .atomMinsClu o | .atomMinzClu o | .atomMaxsClu o | .atomMaxzClu o | .atomSwapClu o | .atomCasClu o
    | .atomAddDev o | .atomAndDev o | .atomOrDev o | .atomXorDev o | .atomMinsDev o | .atomMinzDev o | .atomMaxsDev o
    | .atomMaxzDev o | .atomSwapDev o | .atomCasDev o | .atomAddPeer o | .atomAndPeer o | .atomOrPeer o
    | .atomXorPeer o | .atomMinsPeer o | .atomMinzPeer o | .atomMaxsPeer o | .atomMaxzPeer o | .atomSwapPeer o
    | .atomCasPeer o => o.p
  | .barInit o | .barArrive o | .barWait o | .barTest o => o.p

/-- The registers and latches that a word of slot S names. -/
def SWord.uses : SWord → List Use
  | .nop _ => []
  | .add o | .sub o | .mul o | .mulhS64 o | .mulhZ64 o | .divS64 o | .divZ64 o | .remS64 o | .remZ64 o | .minS64 o
    | .minZ64 o | .maxS64 o | .maxZ64 o => useD .g o.d ++ useG o.a ++ useG o.b ++ useG o.c
  | .addImm o | .subImm o | .mulImm o | .mulhS64Imm o | .mulhZ64Imm o | .divS64Imm o | .divZ64Imm o | .remS64Imm o
    | .remZ64Imm o | .minS64Imm o | .minZ64Imm o | .maxS64Imm o | .maxZ64Imm o => useD .g o.d ++ useG o.a
  | .and o | .or o | .xor o | .andn o | .shl o | .shrZ64 o | .shrS64 o | .rot o
    => useD .g o.d ++ useG o.a ++ useG o.b ++ useG o.c
  | .andImm o | .orImm o | .xorImm o | .andnImm o | .shlImm o | .shrZ64Imm o | .shrS64Imm o | .rotImm o
    => useD .g o.d ++ useG o.a
  | .popc o | .clz o | .ctz o => useD .g o.d ++ useG o.a ++ useG o.b ++ useG o.c
  | .bext o | .bins o | .sext o => useD .g o.d ++ useG o.a ++ useG o.b
  | .cmpEq o | .cmpNe o | .cmpLtS64 o | .cmpLtZ64 o | .cmpLeS64 o | .cmpLeZ64 o
    => useD .g o.d ++ useG o.a ++ useG o.b ++ useG o.c
  | .cmpEqQ o | .cmpNeQ o | .cmpLtS64Q o | .cmpLtZ64Q o | .cmpLeS64Q o | .cmpLeZ64Q o => useG o.a ++ useG o.b
  | .cmpEqImm o | .cmpNeImm o | .cmpLtS64Imm o | .cmpLtZ64Imm o | .cmpLeS64Imm o | .cmpLeZ64Imm o
    => useD .g o.d ++ useG o.a
  | .cmpEqQImm o | .cmpNeQImm o | .cmpLtS64QImm o | .cmpLtZ64QImm o | .cmpLeS64QImm o | .cmpLeZ64QImm o => useG o.a
  | .sel o => useD .g o.d ++ useG o.a ++ useG o.b
  | .li o | .lih o => useD .g o.d ++ useG o.a
  | .movFromCr o => useD .g o.d
  | .movToCr o => useG o.a
  | .evtSet _ | .evtClr _ => []
  | .faddF o | .fsubF o | .fmulF o | .fmaF o | .fminF o | .fmaxF o => useD .g o.d ++ useG o.a ++ useG o.b ++ useG o.c
  | .cvt o => useD .g o.d ++ useG o.a
  | .pagein o => useD .g o.d ++ useG o.a
  | .ldLoc o => useD .g o.d ++ useAddr 0 o.a
  | .stLoc o => useG o.c ++ useAddr 0 o.a
  | .ldClu o => useD .g o.d ++ useAddr 1 o.a
  | .stClu o => useG o.c ++ useAddr 1 o.a
  | .ldDev o => useD .g o.d ++ useAddr 2 o.a
  | .stDev o => useG o.c ++ useAddr 2 o.a
  | .ldPeer o => useD .g o.d ++ useAddr 3 o.a
  | .stPeer o => useG o.c ++ useAddr 3 o.a
  | .ldHost o => useD .g o.d ++ useAddr 3 o.a
  | .stHost o => useG o.c ++ useAddr 3 o.a
  | .spLd o => useD .g o.d ++ useG o.a
  | .spSt o => useG o.c ++ useG o.a
  | .spVld o => useD .v o.d ++ useG o.a
  | .spVst o => useV o.c ++ useG o.a
  | .atomAddLoc o | .atomAndLoc o | .atomOrLoc o | .atomXorLoc o | .atomMinsLoc o | .atomMinzLoc o | .atomMaxsLoc o
    | .atomMaxzLoc o | .atomSwapLoc o => useD .g o.d ++ useG o.c ++ useAddr 0 o.a
  | .atomCasLoc o => useCas 0 o
  | .atomAddClu o | .atomAndClu o | .atomOrClu o | .atomXorClu o | .atomMinsClu o | .atomMinzClu o | .atomMaxsClu o
    | .atomMaxzClu o | .atomSwapClu o => useD .g o.d ++ useG o.c ++ useAddr 1 o.a
  | .atomCasClu o => useCas 1 o
  | .atomAddDev o | .atomAndDev o | .atomOrDev o | .atomXorDev o | .atomMinsDev o | .atomMinzDev o | .atomMaxsDev o
    | .atomMaxzDev o | .atomSwapDev o => useD .g o.d ++ useG o.c ++ useAddr 2 o.a
  | .atomCasDev o => useCas 2 o
  | .atomAddPeer o | .atomAndPeer o | .atomOrPeer o | .atomXorPeer o | .atomMinsPeer o | .atomMinzPeer o
    | .atomMaxsPeer o | .atomMaxzPeer o | .atomSwapPeer o => useD .g o.d ++ useG o.c ++ useAddr 3 o.a
  | .atomCasPeer o => useCas 3 o
  | .barInit o | .barArrive o | .barWait o | .barTest o => useD .g o.d ++ useG o.b ++ useG o.c

/-! ## Slot V -/

/-- The effect of a word of slot V. -/
def VWord.run (w : VWord) (s : State) : Out :=
  match w with
  | .vnop o => execVnop o s
  | .vadd o => execVadd o s
  | .vsub o => execVsub o s
  | .vmul o => execVmul o s
  | .vmulh o => execVmulh o s
  | .vmin o => execVmin o s
  | .vmax o => execVmax o s
  | .vadds o => execVadds o s
  | .vsubs o => execVsubs o s
  | .vavg o => execVavg o s
  | .vabs o => execVabs o s
  | .vneg o => execVneg o s
  | .vmov o => execVmov o s
  | .vand o => execVand o s
  | .vor o => execVor o s
  | .vxor o => execVxor o s
  | .vandn o => execVandn o s
  | .vnot o => execVnot o s
  | .vshl o => execVshl o s
  | .vshr o => execVshr o s
  | .vshrr o => execVshrr o s
  | .vshlImm o => execVshlImm o s
  | .vshrImm o => execVshrImm o s
  | .vshrrImm o => execVshrrImm o s
  | .vfadd o => execVfadd o s
  | .vfsub o => execVfsub o s
  | .vfmul o => execVfmul o s
  | .vfma o => execVfma o s
  | .vfmin o => execVfmin o s
  | .vfmax o => execVfmax o s
  | .vfabs o => execVfabs o s
  | .vfneg o => execVfneg o s
  | .vexp2 o => execVexp2 o s
  | .vrcp o => execVrcp o s
  | .vcmpEq o => execVcmpEq o s
  | .vcmpNe o => execVcmpNe o s
  | .vcmpLt o => execVcmpLt o s
  | .vcmpLe o => execVcmpLe o s
  | .kand o => execKand o s
  | .kor o => execKor o s
  | .kxor o => execKxor o s
  | .kandn o => execKandn o s
  | .knot o => execKnot o s
  | .vsel o => execVsel o s
  | .vperm o => execVperm o s
  | .vbcast o => execVbcast o s
  | .vbcastG o => execVbcastG o s
  | .vslideUp o => execVslideUp o s
  | .vslideDn o => execVslideDn o s
  | .vrotm o => execVrotm o s
  | .vsplat o => execVsplat o s
  | .vredsum o => execVredsum o s
  | .vredmax o => execVredmax o s
  | .vredmin o => execVredmin o s
  | .vcvt o => execVcvt o s
  | .vcvtW o => execVcvtW o s
  | .vcvtN o => execVcvtN o s
  | .vkpack o => execVkpack o s
  | .vkunpk o => execVkunpk o s
  | .vrq o => execVrq o s

/-- The predicate of a word of slot V. -/
def VWord.pred : VWord → Pred
  | .vnop o => o.p
  | .vadd o | .vsub o | .vmul o | .vmulh o | .vmin o | .vmax o | .vadds o | .vsubs o | .vavg o | .vabs o | .vneg o
    | .vmov o | .vand o | .vor o | .vxor o | .vandn o | .vnot o | .vshl o | .vshr o | .vshrr o | .vfadd o | .vfsub o
    | .vfmul o | .vfmin o | .vfmax o | .vfabs o | .vfneg o | .vexp2 o | .vrcp o | .vsel o | .vperm o | .vredsum o
    | .vredmax o | .vredmin o | .vkpack o | .vkunpk o | .vrq o => o.p
  | .vshlImm o | .vshrImm o | .vshrrImm o | .vbcast o | .vslideUp o | .vslideDn o | .vrotm o | .vsplat o => o.p
  | .vfma o => o.p
  | .vcmpEq o | .vcmpNe o | .vcmpLt o | .vcmpLe o => o.p
  | .kand o | .kor o | .kxor o | .kandn o | .knot o => o.p
  | .vbcastG o => o.p
  | .vcvt o | .vcvtW o | .vcvtN o => o.p

/-- The registers and latches that a word of slot V names. -/
def VWord.uses : VWord → List Use
  | .vnop _ => []
  | .vadd o | .vsub o | .vmul o | .vmulh o | .vmin o | .vmax o | .vadds o | .vsubs o | .vavg o
    => useD .v o.d ++ useV o.a ++ useV o.b ++ useK o.k
  | .vabs o | .vneg o | .vmov o => useD .v o.d ++ useV o.a ++ useK o.k
  | .vand o | .vor o | .vxor o | .vandn o => useD .v o.d ++ useV o.a ++ useV o.b ++ useK o.k
  | .vnot o => useD .v o.d ++ useV o.a ++ useK o.k
  | .vshl o | .vshr o | .vshrr o => useD .v o.d ++ useV o.a ++ useV o.b ++ useK o.k
  | .vshlImm o | .vshrImm o | .vshrrImm o => useD .v o.d ++ useV o.a ++ useK o.k
  | .vfadd o | .vfsub o | .vfmul o => useD .v o.d ++ useV o.a ++ useV o.b ++ useK o.k
  | .vfma o => useD .v o.d ++ useV o.a ++ useV o.b ++ useV o.c ++ [.reg (.k o.k.toNat)]
  | .vfmin o | .vfmax o => useD .v o.d ++ useV o.a ++ useV o.b ++ useK o.k
  | .vfabs o | .vfneg o | .vexp2 o | .vrcp o => useD .v o.d ++ useV o.a ++ useK o.k
  | .vcmpEq o | .vcmpNe o | .vcmpLt o | .vcmpLe o => useD .k o.d ++ useV o.a ++ useV o.b ++ useK o.k
  | .kand o | .kor o | .kxor o | .kandn o => useD .k o.d ++ useK o.a ++ useK o.b
  | .knot o => useD .k o.d ++ useK o.a
  | .vsel o | .vperm o => useD .v o.d ++ useV o.a ++ useV o.b ++ useK o.k
  | .vbcast o => useD .v o.d ++ useV o.a ++ useK o.k
  | .vbcastG o => useD .v o.d ++ useG o.a ++ useK o.k
  | .vslideUp o | .vslideDn o => useD .v o.d ++ useV o.a ++ useK o.k
  | .vrotm o => useD .v o.d ++ useV o.a ++ useV o.b ++ useK o.k
  | .vsplat o => useD .v o.d ++ useK o.k
  | .vredsum o | .vredmax o | .vredmin o => useD .v o.d ++ useV o.a ++ useK o.k
  | .vcvt o | .vcvtW o | .vcvtN o => useD .v o.d ++ useV o.a ++ useK o.k
  | .vkpack o => useD .v o.d ++ useV o.a ++ useV o.b ++ useK o.k
  | .vkunpk o => useD .v o.d ++ useV o.a ++ (if o.ty.width = 8 then useV o.b else []) ++ useK o.k
  | .vrq o => useD .v o.d ++ useV o.a ++ useV o.b ++ useK o.k

/-! ## Slot M -/

/-- The effect of a word of slot M. -/
def MWord.run (w : MWord) (s : State) : Out :=
  match w with
  | .mnop o => execMnop o s
  | .mpushV o => execMpushV o s
  | .mpushSp o => execMpushSp o s
  | .mpushW o => execMpushW o s
  | .mswap o => execMswap o s
  | .maccV o => execMaccV o s
  | .maccSp o => execMaccSp o s
  | .mshift o => execMshift o s
  | .mzero o => execMzero o s
  | .mdrain o => execMdrain o s
  | .mdrainCp o => execMdrainCp o s
  | .mkat o => execMkat o s

/-- The predicate of a word of slot M. -/
def MWord.pred : MWord → Pred
  | .mnop o | .mswap o => o.p
  | .mpushV o | .mpushSp o | .mpushW o => o.p
  | .maccV o | .maccSp o => o.p
  | .mshift o | .mzero o => o.p
  | .mdrain o => o.p
  | .mdrainCp o => o.p
  | .mkat o => o.p

/-- The registers and latches that a word of slot M names. -/
def MWord.uses : MWord → List Use
  | .mnop _ => []
  | .mpushV o => useV o.a
  | .mpushSp o => useG o.a ++ useG (srcNext o.a)
  | .mpushW o => useG o.a
  | .mswap _ => []
  | .maccV o => useV o.a
  | .maccSp o => useG o.a ++ useG (srcNext o.a)
  | .mshift _ | .mzero _ => []
  | .mdrain o => useD .v o.d
  | .mdrainCp o => useG o.b ++ useG o.c
  | .mkat o => useG o.a

/-! ## Slot C -/

/-- The effect of a word of slot C. -/
def CWord.run (w : CWord) (s : State) : Out :=
  match w with
  | .cnop o => execCnop o s
  | .vldLoc o => execVldLoc o s
  | .vstLoc o => execVstLoc o s
  | .vldClu o => execVldClu o s
  | .vstClu o => execVstClu o s
  | .vldDev o => execVldDev o s
  | .vstDev o => execVstDev o s
  | .vldPeer o => execVldPeer o s
  | .vstPeer o => execVstPeer o s
  | .vldHost o => execVldHost o s
  | .vstHost o => execVstHost o s
  | .vldKv o => execVldKv o s
  | .vstKv o => execVstKv o s
  | .cpGo o => execCpGo o s
  | .cpAdv o => execCpAdv o s
  | .cp o => execCp o s
  | .cpTsr o => execCpTsr o s
  | .gathKv o => execGathKv o s
  | .rotClu o => execRotClu o s
  | .redAdd o => execRedAdd o s
  | .kvBind o => execKvBind o s
  | .pfxHash o => execPfxHash o s
  | .pfxLook o => execPfxLook o s
  | .pfxCmp o => execPfxCmp o s
  | .pfxIns o => execPfxIns o s
  | .pfxPin o => execPfxPin o s
  | .pfxUnpin o => execPfxUnpin o s

/-- The predicate of a word of slot C. -/
def CWord.pred : CWord → Pred
  | .cnop o | .cpAdv o => o.p
  | .vldLoc o | .vstLoc o | .vldClu o | .vstClu o | .vldDev o | .vstDev o | .vldPeer o | .vstPeer o | .vldHost o
    | .vstHost o | .vldKv o | .vstKv o => o.p
  | .cpGo o | .cp o | .cpTsr o | .gathKv o | .rotClu o | .redAdd o | .kvBind o => o.p
  | .pfxHash o | .pfxLook o | .pfxCmp o | .pfxIns o | .pfxPin o | .pfxUnpin o => o.p

/-- The registers and latches that a word of slot C names. -/
def CWord.uses : CWord → List Use
  | .cnop _ => []
  | .vldLoc o => useD .v o.d ++ useAddr 0 o.a
  | .vstLoc o => useV o.c ++ useAddr 0 o.a
  | .vldClu o => useD .v o.d ++ useAddr 1 o.a
  | .vstClu o => useV o.c ++ useAddr 1 o.a
  | .vldDev o => useD .v o.d ++ useAddr 2 o.a
  | .vstDev o => useV o.c ++ useAddr 2 o.a
  | .vldPeer o => useD .v o.d ++ useAddr 3 o.a
  | .vstPeer o => useV o.c ++ useAddr 3 o.a
  | .vldHost o => useD .v o.d ++ useAddr 3 o.a
  | .vstHost o => useV o.c ++ useAddr 3 o.a
  | .vldKv o => useD .v o.d ++ useAddr 3 o.a
  | .vstKv o => useV o.c ++ useAddr 3 o.a
  | .cpGo o => useD .g o.d ++ useG o.a ++ useG o.b ++ useG o.c
  | .cpAdv _ => []
  | .cp o | .cpTsr o | .gathKv o | .rotClu o | .redAdd o | .kvBind o => useD .g o.d ++ useG o.a ++ useG o.b ++ useG o.c
  | .pfxHash o | .pfxLook o | .pfxCmp o | .pfxIns o | .pfxPin o | .pfxUnpin o
    => useD .g o.d ++ useG o.a ++ useG o.b ++ useG o.c

end Sys2Proof.Machine
end

