-- ==== Sys2Proof/Machine/Lns.lean ====
section
/-!
DEFINITION. Lns: the loop-nest sequencer of a core (R248 to R254, R344, R346, R347).
-/
namespace Sys2Proof.Machine

/-! ## The end of a bundle or template: hardware updates (R87) -/

/-- A hardware update applied to a strand. -/
def Strand.applyHw (st : Strand) (u : HwUpd) : Strand :=
  match u with
  | .k15 n => st.putK 15 (st.getK 15 ||| BitVec.ofNat 256 (2 ^ n - 1))
  | .rotate => st.rotate
  | u => { st with ctl := st.ctl.update u }

/-- The hardware updates and the draws of a bundle applied to its strand, after its program writes. -/
def State.applyHw (s : State) : State :=
  s.updSt fun st =>
    let st := s.iss.hw.foldl Strand.applyHw st
    { st with ctl := { st.ctl with rseed := s.seed } }

/-! ## Records (Tables 09-10, 09-11) -/

/-- A template record from its bytes. -/
def Tmpl.of (bs : List Byte) : Tmpl :=
  let n (i k : Nat) : Nat := leValue ((bs.drop i).take k)
  { mw := n 0 6, v0w := n 6 6, v1w := n 12 6, en := n 18 1, gty := n 19 1, grow := n 20 4, gcoord := n 24 8 }

/-- The tile that an M word names, if any. -/
def MWord.tile : MWord → Option Nat
  | .maccV o | .maccSp o => some o.t.toNat
  | .mshift o | .mzero o => some o.t.toNat
  | .mdrain o => some o.t.toNat
  | .mdrainCp o => some o.t.toNat
  | .mnop _ | .mpushV _ | .mpushSp _ | .mpushW _ | .mswap _ | .mkat _ => none

/-- The pair that an M word reads as its scratchpad operand. -/
def MWord.pair : MWord → Option Nat
  | .mpushSp o => some (srcNum o.a)
  | .maccSp o => some (srcNum o.a)
  | .maccV _ | .mshift _ | .mzero _ | .mdrain _ | .mdrainCp _ | .mnop _ | .mpushV _ | .mpushW _ | .mswap _ | .mkat _ => none

/-- The word of a slot of a template, decoded. -/
def Tmpl.m (t : Tmpl) : Option MWord := (decodeM (Raw.ofWord (BitVec.ofNat 48 t.mw) none)).toOption
def Tmpl.v0 (t : Tmpl) : Option VWord := (decodeV .first (Raw.ofWord (BitVec.ofNat 48 t.v0w) none)).toOption
def Tmpl.v1 (t : Tmpl) : Option VWord := (decodeV .second (Raw.ofWord (BitVec.ofNat 48 t.v1w) none)).toOption

/-- The pair that a template names (R249). -/
def Tmpl.pair (t : Tmpl) : Option Nat := if bit t.en 0 then t.m.bind MWord.pair else none

/-- A word writes a latch alone, or reads one. -/
def latchWord (w : Nat) : Bool :=
  let f (lo : Nat) : Bool := let x := bits w (lo + 5) lo; decide (32 ≤ x) && decide (x < 48)
  bit w 35 || f 24 || f 18 || f 12

/-- A template record passes the checks of status 3 (Table 09-12); `tiles` are the tiles the strand has declared, `pairs`
those named by the templates already loaded. -/
def Tmpl.ok (t : Tmpl) (tiles : Nat) (pairs : List Nat) : Bool :=
  let mOk := match t.m with
    | none => false
    | some w => decide (bits t.mw 43 36 ≤ 0x0C) && !latchWord t.mw && (MWord.tile w).all fun k => decide (k < tiles)
  let gOk :=
    let m := BitVec.ofNat 12 (bits t.gty 3 0 * 256 + (if bit t.gty 4 then 128 else 0))
    Wf.gathMods m && !(bit t.gty 4 && bit t.gcoord 50)
  bits t.en 7 4 == 0 && bits t.gty 7 5 == 0 && bits t.grow 31 30 == 0 &&
  (!bit t.en 0 || mOk) && (!bit t.en 1 || (t.v0.isSome && !latchWord t.v0w)) &&
  (!bit t.en 2 || (t.v1.isSome && !latchWord t.v1w)) && (!bit t.en 3 || gOk) &&
  (match t.pair with
   | none => true
   | some p => pairs.all (· == p))

/-- A level record passes the checks of status 3. -/
def lvlOk (w0 w1 : Nat) : Bool := bits w0 62 53 == 0 && bits w1 63 45 == 0
/-- The trip count of a level (R250). -/
def lvlTrips (len : Nat) (l : Nat × Nat) : Nat :=
  if bit l.1 63 then (len + 15) / 16 else if bits l.1 31 0 = 0 then 1 else bits l.1 31 0

/-! ## The sequencer -/

def State.lns (s : State) (core : Nat) : Lns := (s.core core).lns
def State.updLns (s : State) (core : Nat) (f : Lns → Lns) : State := s.updCore core fun c => { c with lns := f c.lns }

def Lns.level (n : Lns) (i : Nat) : Nat × Nat := FMap.getD n.lvl i (0, 0)
def Lns.template (n : Lns) (i : Nat) : Tmpl := FMap.getD n.tmpl i {}
/-- The enabled template slots in order. -/
def Lns.order (n : Lns) : List Nat := (List.range 4).filter fun i => (n.template i).en != 0
def Lns.tripsOf (n : Lns) (len : Nat) : List Nat := (List.range 6).map fun i => lvlTrips len (n.level i)
/-- The sequencer idle again, without an owner (R248). -/
def Lns.release (n : Lns) : Lns := { n with mode := .idle, owner := none }
/-- The pair that the loaded templates name. -/
def Lns.pairReg (n : Lns) : Option Nat := n.order.findSome? fun i => (n.template i).pair

/-- A resumed crew that is to be bound holds the sequencer of a core (R289, R290). -/
def State.lnsTaken (s : State) (gone : List Nat) (core : Nat) : Bool :=
  s.tasks.any fun e => e.2.phase == .binding && !gone.contains e.1 &&
    ((e.2.place.map fun p => (e.2.saved.getD []).any fun m =>
      m.lns.isSome && (e.2.die * 32 + p.cluster) * 8 + m.core == core).getD false)

/-- The context may load: it owns the idle sequencer, or no context does and no crew that is to be bound holds it (status 1, R290). -/
def State.lnsLoadable (s : State) (cx : Nat) : Bool :=
  let n := s.lns (coreOf cx)
  n.mode == .idle && (n.owner == some cx || n.owner.isNone && !s.lnsTaken [] (coreOf cx))

/-- An interlocked status. -/
def State.status (s : State) (d : Dst) (v : Nat) : State :=
  let (t, s) := s.landing Config.accessDelay
  s.pendG d (BitVec.ofNat 64 v) t
/-- The status of a record that is not resident (R408). -/
def State.statusAbsent (s : State) (d : Dst) : State := (s.status d 5).hw .resFlag

def execLnsTmpl (o : OpLR) (s : State) : Out :=
  guarded o.p (fun s => s.chkG 6 (s.rdG o.a) fun s =>
    s.record 6 (s.rdG o.a).val 32 (fun _ s => s.statusAbsent o.d) fun _ ws s =>
      let core := coreOf s.iss.cx
      let n := s.lns core
      let i := (s.rdG o.b).val.toNat % 4
      if !s.lnsLoadable s.iss.cx then s.status o.d 1
      else
        let t := Tmpl.of (ws.flatMap (leBytes 8))
        let pairs := ((List.range 4).filter (· != i)).filterMap fun j => (n.template j).pair
        if t.ok s.cur.tiles pairs then
          (s.updLns core fun n => { n with tmpl := FMap.put n.tmpl i t, owner := some s.iss.cx }).status o.d 0
        else s.status o.d 3) s

def execLnsLvl (o : OpLR) (s : State) : Out :=
  guarded o.p (fun s => s.chkG 6 (s.rdG o.a) fun s =>
    let core := coreOf s.iss.cx
    let i := (s.rdG o.b).val.toNat % 16
    if i = 8 then
      if s.lnsLoadable s.iss.cx then
        (s.updLns core fun n => { n with rra := (s.rdG o.a).val.toNat, owner := some s.iss.cx }).status o.d 0
      else s.status o.d 1
    else if 6 ≤ i then s.status o.d (if s.lnsLoadable s.iss.cx then 2 else 1)
    else
      s.record 6 (s.rdG o.a).val 16 (fun _ s => s.statusAbsent o.d) fun _ ws s =>
        let w0 := ws.getD 0 0
        let w1 := ws.getD 1 0
        if !s.lnsLoadable s.iss.cx then s.status o.d 1
        else if lvlOk w0 w1 then
          (s.updLns core fun n => { n with lvl := FMap.put n.lvl i (w0, w1), owner := some s.iss.cx }).status o.d 0
        else s.status o.d 3) s

/-- A run that starts, or ends at once where a trip count is 0 (R250). -/
def Lns.start (n : Lns) (pair : Nat × Nat) (trips : List Nat) : Lns :=
  if trips.contains 0 then { n with cnt := List.replicate 6 0 }.release
  else { n with mode := .running, cnt := List.replicate 6 0, trips := trips, slot := n.order.headD 0, pair := pair }

def execLnsRun (o : OpN) (s : State) : Out :=
  guarded o.p (fun s =>
    let core := coreOf s.iss.cx
    let n := s.lns core
    if n.owner ≠ some s.iss.cx ∨ n.mode ≠ .idle ∨ n.order = [] then s
    else
      let trips := n.tripsOf s.cur.st.ctl.seqlen.toNat
      match n.pairReg with
      | none => s.updLns core fun n => n.start (0, 0) trips
      | some r =>
        let a : Src := .reg (BitVec.ofNat 5 r)
        s.chkG 6 (s.rdG a) fun s => s.chkG 6 (s.rdG (srcNext a)) fun s =>
          s.updLns core fun n => n.start ((s.rdG a).val.toNat, (s.rdG (srcNext a)).val.toNat) trips) s

/-- A tuple lies within the trip counts. -/
def inTrips (cnt trips : List Nat) : Bool := (List.zipWith (fun c t => decide (c < t)) cnt trips).all id
/-- A tuple stands after the last one of the trip counts, in the order of R250. -/
def afterLast : List Nat → List Nat → Bool
  | c :: cs, t :: ts => if c + 1 = t then afterLast cs ts else decide (t ≤ c)
  | _, _ => false

/-- `lns.resume` from a record (R253): the status, and the sequencer. -/
def Lns.resumeFrom (n : Lns) (cx len : Nat) (ws : List Nat) : Nat × Lns :=
  let bs := ws.flatMap (leBytes 8)
  let cnt := (List.range 6).map fun i => leValue ((bs.drop (4 * i)).take 4)
  let slot := (bs.getD 24 0).toNat
  let trips := n.tripsOf len
  if !n.order.contains slot then (4, n)
  else if trips.contains 0 ∨ afterLast cnt trips then (0, n.release)
  else if !inTrips cnt trips then (4, n)
  else (0, { n with mode := .running, owner := some cx, cnt := cnt, trips := trips, slot := slot
                    pair := (ws.getD 4 0, ws.getD 5 0) })

/-- `lns.resume`. A sequencer that no context owns holds nothing that the issuing context has loaded: status 4 (assumption 74). -/
def execLnsResume (o : OpLR) (s : State) : Out :=
  guarded o.p (fun s =>
    let core := coreOf s.iss.cx
    let n := s.lns core
    let cx := s.iss.cx
    if (s.rdG o.a).val = 0 then
      if n.mode = .stopped ∧ n.owner = some cx then (s.updLns core fun n => { n with mode := .running }).status o.d 0
      else s.status o.d (if n.mode ≠ .stopped then 4 else 1)
    else
      s.chkG 6 (s.rdG o.a) fun s =>
        s.record 6 (s.rdG o.a).val 64 (fun _ s => s.statusAbsent o.d) fun _ ws s =>
          if n.mode = .running ∨ (n.owner.isSome ∧ n.owner ≠ some cx) then s.status o.d 1
          else if n.owner = none then s.status o.d 4
          else
            let (st, n) := n.resumeFrom cx s.cur.st.ctl.seqlen.toNat ws
            (s.updLns core fun _ => n).status o.d st) s

def execLnsAbort (o : OpN) (s : State) : Out :=
  guarded o.p (fun s =>
    let core := coreOf s.iss.cx
    if (s.lns core).owner = some s.iss.cx then s.updLns core Lns.release else s) s

/-! ## Issuing a template (R250 to R252) -/

/-- Σ CNTl × step of a signed field of the level records. -/
def Lns.sum (n : Lns) (f : Nat × Nat → Int) : Int :=
  ((List.range 6).map fun i => (n.cnt.getD i 0 : Int) * f (n.level i)).foldl (· + ·) 0

/-- The M word with its ROW adjusted (R250). -/
def MWord.addRow (w : MWord) (d : Int) : MWord :=
  let f (lim row : Nat) : Nat := (((row : Int) + d) % (lim : Int)).toNat
  match w with
  | .mpushV o => .mpushV { o with row := BitVec.ofNat 7 (f o.ty.depth o.row.toNat) }
  | .mpushSp o => .mpushSp { o with row := BitVec.ofNat 7 (f o.ty.depth o.row.toNat) }
  | .mpushW o => .mpushW { o with row := BitVec.ofNat 7 (f 128 o.row.toNat) }
  | .maccV o => .maccV { o with row := BitVec.ofNat 6 (f 64 o.row.toNat) }
  | .maccSp o => .maccSp { o with row := BitVec.ofNat 6 (f 64 o.row.toNat) }
  | .mdrain o => .mdrain { o with row := BitVec.ofNat 6 (f 64 o.row.toNat) }
  | .mnop o => .mnop o
  | .mswap o => .mswap o
  | .mshift o => .mshift o
  | .mzero o => .mzero o
  | .mdrainCp o => .mdrainCp o
  | .mkat o => .mkat o

/-- A push or swap, which waits for an `mpush.w` in flight (R227, R229). -/
def MWord.waitsPush : MWord → Bool
  | .mpushV _ | .mpushSp _ | .mswap _ => true
  | .mpushW _ | .maccV _ | .maccSp _ | .mshift _ | .mzero _ | .mdrain _ | .mdrainCp _ | .mnop _ | .mkat _ => false

/-- An interlocked result of a context is awaited by something in a list (R201). -/
def Strand.awaits (st : Strand) (us : List Use) : Bool :=
  st.pend.any fun p => us.any fun u =>
    match u with
    | .reg r => r != .g 0 && r != .k 0 && p.reg == some r
    | .latch n => p.latch == some n

/-- The state after one slot's outcome; a slot never faults the model. -/
def stateOf (s : State) (o : Out) : State :=
  match o with
  | .next t => t
  | .fault _ => s
  | .refused _ => s

/-- The words of the template that issues next, under the owner's predicates. -/
structure TmplWords where
  v0 : Option VWord
  v1 : Option VWord
  m : Option MWord
  gather : Bool

def Lns.words (n : Lns) (q : BitVec 8) : TmplWords :=
  let t := n.template n.slot
  let drow (l : Nat × Nat) : Int := sextN 8 (bits l.1 39 32)
  { v0 := if bit t.en 1 then t.v0.filter fun w => Pred.holds (VWord.pred w) q else none
    v1 := if bit t.en 2 then t.v1.filter fun w => Pred.holds (VWord.pred w) q else none
    m := if bit t.en 0 then (t.m.filter fun w => Pred.holds (MWord.pred w) q).map fun w => MWord.addRow w (n.sum drow) else none
    gather := bit t.en 3 }

/-- A promised load that has not landed though its promised cycle has come, or would come next (R270). A template's entry has been
counted down for the cycle already. -/
def Flight.late (now : Nat) (e : Flight) : Bool :=
  (if e.coreCount then e.left == 0 else decide (e.left ≤ 1)) && (e.lands.map fun t => decide (now < t)).getD false

/-- The template waits, as a bundle of its owner would (R251), and while an earlier template's promise is missed (R270). -/
def State.lnsWaits (s : State) (cx : Nat) (w : TmplWords) : Bool :=
  let st := (s.ctx cx).st
  let us := (w.v0.map VWord.uses).getD [] ++ (w.v1.map VWord.uses).getD [] ++ (w.m.map MWord.uses).getD []
  st.awaits us || ((w.m.map MWord.waitsPush).getD false && st.flight.any Flight.isWeight) ||
  st.flight.any fun e => e.coreCount && e.late s.clock.toNat

/-- The gather of a template. -/
def State.lnsGather (s : State) (n : Lns) : State :=
  let t := n.template n.slot
  let pos : Int := (bits t.gcoord 31 0 : Int) + n.sum fun l => sextN 32 (bits l.2 31 0)
  let row := (((bits t.grow 12 0 : Int) + n.sum fun l => sextN 13 (bits l.2 44 32)) % 8192).toNat
  if pos < 0 ∨ 2 ^ 32 ≤ pos then s.raise 4 .prot ((s.cur.st.kv.map (·.desc)).getD 0) 0
  else
    s.gatherOp 4 none (t.gcoord / 2 ^ 32 * 2 ^ 32 + pos.toNat) row (bits t.gcoord 49 48 + 1)
      (Wf.tyOf (BitVec.ofNat 4 (bits t.gty 3 0))) (bit t.gty 4)
      (s.barIf (bit t.grow 29) (bits t.grow 28 16) (bits t.grow 15 13))

/-- The slots of a template run in order, stopping at a fault. -/
def State.lnsSlots (s : State) (n : Lns) (w : TmplWords) : State :=
  let go (o : Option (State → Out)) (s : State) : State :=
    match o with
    | none => s
    | some f => if s.iss.faulted.isSome then s else stateOf s (f s)
  let s := go (w.v0.map fun w s => VWord.run w s) s
  let s := go (w.v1.map fun w s => VWord.run w s) s
  let s := go (w.m.map fun w s => MWord.run w s) s
  if w.gather && s.iss.faulted.isNone then s.lnsGather n else s

/-- The next tuple and template slot; none after the last (R250). -/
def Lns.advance (n : Lns) : Lns :=
  match n.order.find? fun i => n.slot < i with
  | some i => { n with slot := i }
  | none =>
    let (cnt, wrapped) := (List.zip n.cnt n.trips).foldr (fun p acc =>
      if acc.2 then (if p.1 + 1 < p.2 then ((p.1 + 1) :: acc.1, false) else (0 :: acc.1, true)) else (p.1 :: acc.1, false))
      (([] : List Nat), true)
    if wrapped then n.release else { n with cnt := cnt, slot := n.order.headD 0 }

/-- The restart record written at RRA as a DEVICE store of the owner, or dropped (R252). -/
def State.lnsRecord (s : State) (cx : Nat) (n : Lns) (f : FaultInfo) : State :=
  let a := n.rra / 64 * 64
  if n.rra = 0 then s
  else
    match s.devCheck cx (a : Int) 64 false true false with
    | .error _ => s
    | .ok d =>
      match d.pa with
      | none => s.dropRun cx d.idx
      | some pa =>
        s.devWrite cx pa ((n.cnt.flatMap (leBytes 4)) ++ leBytes 8 n.slot ++ leBytes 8 n.pair.1 ++ leBytes 8 n.pair.2 ++
          leBytes 8 f.fcause.toNat ++ leBytes 8 0)

/-- The length of the bundle at an address as its header gives it, 0 where it cannot be fetched. -/
def State.lenAt (s : State) (cx pc : Nat) : Nat :=
  match findRun (s.ctx cx).runs pc with
  | none => 0
  | some (_, r) =>
    if r.resident && r.x && !r.isSealed && !r.co then
      (Header.ofWord (BitVec.ofNat 32 (leValue (s.peek (r.pa + (pc - r.va)) 4)))).length
    else 0

/-- A fault of a template: nothing of it commits, the sequencer stops, and the owner learns of it (R252, R346). -/
def State.lnsFault (s : State) (core cx : Nat) (n : Lns) (f : FaultInfo) : State :=
  let f := { f with
    len := s.lenAt cx f.pc.toNat
    data := if f.cause = .kvFault then n.rra else f.data }
  let s := s.updLns core fun n => { n with mode := .stopped }
  let s := s.lnsRecord cx n f
  s.updCtx cx fun c => { c with st := { c.st with lnsFault := some f } }

/-- A push in flight that is no `mpush.w`. -/
def Flight.isPush (e : Flight) : Bool :=
  match e.op with
  | .push _ _ _ _ => e.lands.isNone
  | _ => false

/-- One template issued on behalf of the owner, or none where it waits (R250, R251). `inBundle` is set where it issues after slot
S of its owner's bundle: its draws then go on from that bundle's (R60), and its hardware updates come after the bundle's program
writes (R87). Otherwise the issue registers are left as they were. -/
def State.lnsTry (s : State) (core cx : Nat) (inBundle : Bool) : Option State :=
  let n := s.lns core
  let st := (s.ctx cx).st
  let w := n.words st.q
  if s.lnsWaits cx w then none
  else
    let keep := s.iss
    let s := if (w.m.map MWord.waitsPush).getD false then s.deliverWhere cx Flight.isPush else s
    let tile := ((bits n.pair.2 28 16 : Int) + n.sum fun l => sextN 13 (bits l.1 52 40)) % 8192
    let copy := (n.pair.1, setField n.pair.2 16 13 tile.toNat)
    let s0 := { s with iss := { cx := cx, pc := st.pc, template := true, seed := if inBundle then keep.seed else none } }
    let s1 := (s0.updLns core fun n => { n with pair := copy }).lnsSlots n w
    match s1.iss.faulted with
    | some f => some { (s.lnsFault core cx n f) with iss := keep }
    | none =>
      if 32 < (s1.ctx cx).st.flight.length ∧ st.flight.length < (s1.ctx cx).st.flight.length then none
      else
        let s2 := if inBundle then s1 else s1.applyHw
        let s3 := if w.v0.isSome || w.v1.isSome then s2.count cx .vbund 1 else s2
        some { (s3.updLns core fun _ => n.advance) with
          iss := if inBundle then { keep with hw := keep.hw ++ s1.iss.hw, seed := s1.iss.seed } else keep }

/-- The owner of a running sequencer that may issue: one that is neither frozen nor asked to freeze (R252, R303). -/
def State.lnsReady (s : State) (core : Nat) : Option Nat :=
  let n := s.lns core
  if n.mode = .running then
    n.owner.bind fun cx =>
      let c := s.ctx cx
      if c.st.mode = .frozen ∨ c.st.mode = .ended ∨ c.dormant ∨ c.dawnHeld ∨ c.freeze then none else some cx
  else none

/-- LNS_TEMPLATE_ISSUE: the sequencer of a core issues its next template, unless it waits. -/
def execLnsTemplateIssue (core : Nat) (s : State) : Out :=
  .next (
    match s.lnsReady core with
    | none => s
    | some cx => (s.lnsTry core cx false).getD s)

end Sys2Proof.Machine
end

