-- ==== Sys2Proof/Machine/Restore.lean ====
section
/-!
DEFINITION. Restore: a strand's state written back: lists of `mpush.w` replayed (R225, R362), accesses issued again (R358), and what a
withdrawn hold leaves (R177, R184).
-/
namespace Sys2Proof.Machine

/-! ## Lists (R225, R362) -/

/-- A buffer filled again from MRAM by its list of weight addresses and rows, as `mpush.w` reads them (R225, R400); none where a key is
gone. A row in error is zero (R392). -/
def State.refill (s : State) (cx : Nat) (b : Buffer) : List (Nat × Nat) → Option Buffer × State
  | [] => (some b, s)
  | (va, row) :: rest =>
    match findRun (s.ctx cx).runs va with
    | none => (none, s)
    | some (_, r) =>
      let size := r.pageAt va
      let pagePa := r.pa + va / size * size - r.va
      match weightRows b.tag r.bgeo size (va % size) with
      | none => (none, s)
      | some (_, ps) =>
        if !s.sealsOk (s.asnOf cx) r.isSealed (pagesOf pagePa ps.flatten) then (none, s)
        else
          let (xs, _, s) := s.readRows cx b.tag pagePa row ps
          s.refill cx { b with rows := xs.foldl (fun m x => FMap.put m x.1 x.2) b.rows } rest

/-- A strand whose sealed rows could not be brought back faults SEALED at its first bundle, with the first weight address of the list
(R225). -/
def Strand.sealLost (st : Strand) (va : Nat) : Strand :=
  { st with lnsFault := some (st.lnsFault.getD { cause := .sealed, slot := 3, addr := va }) }

/-- A sealed `mpush.w` of a saved in-flight table reads its rows again (R398): what is saved holds no plain row. -/
def State.pushBack (s : State) (cx : Nat) (e : Flight) : Option Flight × State :=
  match e.op with
  | .push [] (some tag) true (some src) =>
    match s.refill cx { tag := tag } [src] with
    | (some b, s) => (some { e with op := .push b.rows (some tag) true (some src) }, s)
    | (none, s) => (none, s)
  | _ => (some e, s)

/-- The sealed pushes in flight of a resumed strand, with their rows. One that fails stays without rows, and the strand faults. -/
def State.pushesBack (s : State) (cx : Nat) : State :=
  let (es, lost, s) := (s.ctx cx).st.flight.foldl (fun acc e =>
    let (es, lost, s) := acc
    match s.pushBack cx e, e.op with
    | (some e, s), _ => (es ++ [e], lost, s)
    | (none, s), .push _ _ _ (some src) => (es ++ [e], lost.or (some src.1), s)
    | (none, s), _ => (es ++ [e], lost, s)) (([] : List Flight), (none : Option Nat), s)
  s.updCtx cx fun c =>
    let st := { c.st with flight := es }
    { c with st := match lost with
      | some va => st.sealLost va
      | none => st }

/-- The sealed buffers and pushes of a resumed strand brought back before its first bundle; a failure faults that bundle SEALED. -/
def State.refillStrand (s : State) (cx : Nat) : State :=
  let go (s : State) (b : Buffer) (put : Strand → Buffer → Strand) : State :=
    if !(b.sealed || (b.rows.isEmpty && !b.mixed)) || b.fills.isEmpty then s
    else
      match s.refill cx { b with rows := [] } b.fills with
      | (some b, s) => s.updCtx cx fun c => { c with st := put c.st b }
      | (none, s) =>
        if !b.sealed then s
        else s.updCtx cx fun c => { c with st := (put c.st { b with rows := [] }).sealLost (b.fills.headD (0, 0)).1 }
  let s := go s (s.ctx cx).st.active fun st b => { st with active := b }
  (go s (s.ctx cx).st.shadow fun st b => { st with shadow := b }).pushesBack cx

/-- A buffer as the save store holds it: a SEALED one is its list (R225). -/
def Buffer.saved (b : Buffer) : Buffer := if b.sealed then { b with rows := [], bad := [] } else b
/-- An `mpush.w` of a sealed page in flight, as what is saved holds it: without its plain rows (R398). -/
def Flight.sealedAway (e : Flight) : Flight :=
  match e.op with
  | .push _ tag true src => { e with op := .push [] tag true src }
  | _ => e

/-! ## Accesses issued again (R358, R362) -/

/-- An atomic issued again acts on what memory then holds. -/
def State.atomAgain (s : State) (cx : Nat) (op : AtomOp) (operand expected : Nat) (p : Place) (n : Nat) : Word × State :=
  match p with
  | .peer _ addr =>
    let (_, v, s) := s.homeApply (dieOf cx) (s.pasnOf cx) (.atomic op addr (BitVec.ofNat 64 operand) (BitVec.ofNat 64 expected))
    (v.setWidth 64, s)
  | p =>
    match s.readPlace cx p n with
    | (.error _, s) => (0, s)
    | (.ok bs, s) =>
      let old := leValue bs
      (atomResult op (8 * n) old, match atomNew op (8 * n) old operand expected with
        | none => s
        | some v => (s.writePlace cx p (leBytes n v)).2)

/-- The value that a load issued again returns; bytes that cannot be read are zero. -/
def State.loadAgain (s : State) (cx : Nat) (a : Again) : VVal × GVal × State :=
  let (bs, s) := a.places.foldl (fun acc p =>
    match acc.2.readPlace cx p.1 p.2 with
    | (.ok bs, s) => (acc.1 ++ bs, s)
    | (.error _, s) => (acc.1 ++ List.replicate p.2 0, s)) (([] : List Byte), s)
  (match a.dec with
    | none => loadedV bs
    | some (src, lane) => decodedV lane (decodeBytes src lane bs),
   fresh (extend (decide (16 ≤ a.how)) (a.how % 16) (leValue bs)), s)

/-- The value that an access issued again returns. -/
def State.readAgain (s : State) (cx : Nat) (a : Again) : VVal × GVal × State :=
  match a.atom, a.places with
  | some (op, c, e), (p, n) :: _ =>
    let (v, s) := s.atomAgain cx op c e p n
    ({}, fresh v, s)
  | _, _ => s.loadAgain cx a

/-- The destination of a promised load whose data had not arrived, as an interlocked result (R362). -/
def Flight.asPend (e : Flight) (id : Nat) (a : Again) : Pend :=
  { id := id
    reg := match e.op with
      | .v n _ => some (.v n)
      | .g n _ => some (.g n)
      | _ => none
    kind := .value 0 0 0
    latch := e.latch.map Prod.fst
    vec := a.how == 0
    again := some a }

/-- A `mpush.w` whose rows had not arrived reads them again (R358). Those of a sealed page have been read when the strand was
restored. -/
def State.pushAgain (s : State) (cx : Nat) (e : Flight) : Flight × State :=
  let (f, s) := s.drawFree
  let at_ : Option Nat := some (s.clock.toNat + 1 + Config.promiseDelay f)
  match e.op with
  | .push _ (some tag) sld (some src) =>
    let (b, s) := s.refill cx { tag := tag } [src]
    ({ e with again := none, lands := at_, op := .push ((b.map Buffer.rows).getD []) (some tag) sld (some src) }, s)
  | _ => ({ e with again := none, lands := at_ }, s)

/-- The in-flight table with the accesses of weights issued again, and the promised loads that have become interlocked ones. -/
def State.flightsAgain (s : State) (cx : Nat) : List Flight × List Pend × State :=
  (s.ctx cx).st.flight.foldl (fun acc e =>
    let (kept, moved, s) := acc
    match e.again, e.op with
    | none, _ => (kept ++ [e], moved, s)
    | some _, .push _ _ _ _ => let (e, s) := s.pushAgain cx e; (kept ++ [e], moved, s)
    | some a, _ => let (id, s) := s.newId; (kept, moved ++ [e.asPend id a], s)) ([], [], s)

/-- An interlocked result whose access is issued again lands with what memory then holds, that of a read of the prefix table with what
its action then comes to; the answer of an instruction that is no
access keeps its value (assumption 60). -/
def State.pendAgain (s : State) (cx : Nat) (p : Pend) : Pend × State :=
  let (f, s) := s.drawFree
  let t := s.clock.toNat + 1 + Config.accessDelay f
  match p.kind, p.again with
  | .value _ _ _, some { redo := some r, .. } => ({ p with kind := .later r.bytes r.word r.g r.x r.q }, s)
  | .value _ _ _, some a =>
    let (v, g, s) := s.readAgain cx a
    ({ p with kind := if a.how = 0 then .value v.val v.res.toNat t else .value (g.val.setWidth 1024) g.res.toNat t }, s)
  | .value v r _, none => ({ p with kind := .value v r t }, s)
  | _, _ => (p, s)

/-- The accesses of a restored strand that had not landed are issued again in its context cycle 1, its PEER requests among them;
the bundles that read their destinations wait (R358, R362). -/
def State.reissue (s : State) (cx : Nat) : State :=
  match (s.ctx cx).reissue with
  | none => s
  | some reqs =>
    let now := s.clock.toNat
    let s := { s with outReqs := s.outReqs ++ reqs.map fun (r : OutReq) => { r with sent := now, tries := 0 } }
    let (kept, moved, s) := s.flightsAgain cx
    let (ps, s) := ((s.ctx cx).st.pend ++ moved).foldl (fun acc p =>
      let (p, s) := acc.2.pendAgain cx p
      (acc.1 ++ [p], s)) (([] : List Pend), s)
    s.updCtx cx fun c => { c with reissue := none, st := { c.st with pend := ps, flight := kept } }

/-! ## Holds (R177, R184) -/

/-- A held bundle's full/empty form has been performed. -/
def Hold.formDone (h : Hold) : Bool :=
  match h.req with
  | some (.fe _ _ _ _ _) => h.got.isSome
  | _ => false

/-- A hold that commits before a freeze: one whose access has been performed, whose barrier wait has ended with nothing else to wait
for, or whose `crew.sync` has been released (R177, R191). -/
def Hold.commits (h : Hold) : Bool := h.formDone || h.synced || (h.got.isSome && h.lreq.isNone)

/-- The limit tick of a `bar.wait` that is withdrawn, which it keeps (R184). -/
def Ctx.keptLimit (c : Ctx) : Option (BitVec 56 × Nat) :=
  (c.hold.bind fun h =>
    match h.req with
    | some (.bar _ _ (some t)) => some (c.st.pc, t)
    | _ => none).or c.st.barLimit

end Sys2Proof.Machine
end

