-- ==== Sys2Proof/Machine/Sched.lean ====
section
/-!
DEFINITION. Sched: job and task records, acceptance and dependences, run tables, placement, binding, freezing and saving,
fault delivery, halts, parking and aging (R264, R279 to R312).
-/
namespace Sys2Proof.Machine

/-! ## Interrupts to the host (R14, R36, R308) -/

/-- Vectors of a function's MSI-X table (Table 01-1): function 0 is the PF. -/
def vectors (fn : Nat) : Nat := if fn = 0 then 64 else 8
def State.fn (s : State) (port fn : Nat) : Fn := FMap.getD s.fns (port * 65 + fn) {}
def State.updFn (s : State) (port fn : Nat) (f : Fn → Fn) : State :=
  { s with fns := FMap.put s.fns (port * 65 + fn) (f (s.fn port fn)) }
/-- A vector's mask bit. It is set at reset, as PCIe has it (assumption 20). -/
def Fn.masked (f : Fn) (v : Nat) : Bool := (FMap.getD f.msix (4 * v + 3) 1).getLsbD 0
/-- A vector raised, modulo the size of the table; a masked one sets its pending bit. -/
def State.raiseIrq (s : State) (port fn vec : Nat) : State :=
  let v := vec % vectors fn
  if (s.fn port fn).masked v then s.updFn port fn fun f => { f with pending := f.pending ||| (1#64 <<< v) }
  else
    let w (i : Nat) : Nat := (FMap.getD (s.fn port fn).msix (4 * v + i) 0).toNat
    { s with irqs := s.irqs ++
        [{ port := port, fn := fn, vec := v, addr := w 1 * 2 ^ 32 + w 0, data := w 2, tick := s.clock.toNat }] }
/-- A function is bound to a job (R14). -/
def State.boundTo (s : State) (port fn job : Nat) : Bool :=
  if fn = 0 then (List.range 4).any fun h => (FMap.getD (s.fn port 0).heads h {}).job.toNat == job
  else
    let v := (FMap.getD s.funcJob (port * 64 + (fn - 1)) 0xFFF).toNat
    bit v 31 && v % 4096 == job

/-! ## Job records (R280, R281) -/

/-- The physical address of a job's record, where ASN 0 maps it. -/
def State.jobPa (s : State) (die job : Nat) : Option Nat × State :=
  if 4095 ≤ job then (none, s) else s.sysPa die (s.boot.jobtab + 64 * job)

/-- A valid job record: its eight words. -/
def State.jobRec (s : State) (die job : Nat) : Option (List Word) × State :=
  let (pa, s) := s.jobPa die job
  match pa with
  | none => (none, s)
  | some pa =>
    if s.spoiled pa 64 then (none, s.eccMet pa 64 none)
    else
      let w := wordsOf (s.peek pa 64)
      if bit (w.getD 0 0) 63 && decide (bits (w.getD 5 0) 63 59 ≤ 16) then (some (w.map (BitVec.ofNat 64)), s) else (none, s)

/-- Word `i` of a job record. -/
def jword (j : List Word) (i : Nat) : Nat := (j.getD i 0).toNat
/-- ASN of a job record. -/
def jobAsn (j : List Word) : Nat := bits (jword j 0) 15 0

/-- A task's copy of its job's record read again where the record is valid (R280). -/
def State.rereadJob (s : State) (key : Nat) : State :=
  match FMap.find s.tasks key with
  | none => s
  | some t =>
    let (j, s) := s.jobRec t.die t.job
    match j with
    | none => s
    | some j => s.updTask key fun t => { t with jrec := j }

/-! ## Task records (R283, R284) -/

/-- The sixteen words of a record, or none where an uncorrectable error meets them. -/
def State.recWords (s : State) (pa : Nat) (slot : Option Nat) : Option (List Nat) × State :=
  if s.spoiled pa 128 then (none, s.eccMet pa 128 slot) else (some (wordsOf (s.peek pa 128)), s)

def TaskState.code : TaskState → Nat
  | .idle => 0 | .held => 1 | .ready => 2 | .resident => 3 | .parked => 4 | .suspended => 5 | .ended => 6

/-- W0 of a record. -/
def recW0 (dep die : Nat) (st : TaskState) : Nat := dep % 65536 * 2 ^ 48 + die % 4 * 2 ^ 35 + st.code * 2 ^ 32
/-- DEP as it stands in memory. -/
def State.depOf (s : State) (pa : Nat) : Nat := bits (Memory.word s.mem pa) 63 48

/-- Bytes of the save store that are free. -/
def State.saveRoom (s : State) (die : Nat) : Nat := s.boot.savesz.toNat * 0x100000 - (s.die die).saveUsed

/-- An extent's base, size and PERM (Table 13-2). -/
def extentOf (w : Nat) : Nat × Nat × Nat := (bits w 55 12 * 4096, bits w 11 0 * 2 ^ (12 + bits w 60 56), bits w 63 61)

/-- Conditions 3 to 8 of R284; `readable` is condition 7 for one address. -/
def recOk (w : List Nat) (readable : Nat → Bool) (store : Nat) : Bool :=
  let g (i : Nat) : Nat := w.getD i 0
  let a := g 1
  bits (g 0) 47 37 == 0 && bits (g 0) 31 0 == 0 && bits a 49 48 == 0 && bits a 41 39 == 0 && bits a 15 7 == 0 &&
  bits (g 2) 63 56 == 0 && !bit (g 2) 0 && bits (g 3) 63 56 == 0 && bits (g 3) 4 0 == 0 && bits (g 12) 2 0 == 0 &&
  decide (bits a 44 42 ≤ 4) && decide (bits a 38 25 ≤ 8192) && decide (bits a 24 16 ≤ 256) &&
  ((List.range 8).all fun i => let e := extentOf (g (4 + i)); decide (e.1 + e.2.1 ≤ 2 ^ 56)) &&
  (g 3 == 0 || readable (g 3)) && (bits (g 12) 55 3 == 0 || readable (bits (g 12) 55 3 * 8)) &&
  decide (saveNeed (bits a 47 45 + 1) (bits a 38 25) (bits a 24 16) (bits a 44 42) ≤ store)

/-- STATE is IDLE or ENDED (condition 1). -/
def recIdle (w : List Nat) : Bool := let x := bits (w.getD 0 0) 34 32; x == 0 || x == 6

/-- A task as its record declares it, in the address space that its job's record names (R279). -/
def Task.ofRec (w : List Nat) (va die : Nat) (j : List Word) : Task :=
  let g (i : Nat) : Nat := w.getD i 0
  let a := g 1
  let prio := min (bits a 6 0) (bits (jword j 0) 54 48)
  { va := va, asn := jobAsn j, job := bits a 63 52, die := die, prio := prio, level := prio, size := bits a 47 45 + 1
    acc := bits a 44 42, rows := bits a 38 25, spill := bits a 24 16, keep := bit a 50, code := bits (g 2) 55 1 * 2
    sched := bits (g 3) 55 5 * 32, extents := (List.range 8).map fun i => BitVec.ofNat 64 (g (4 + i))
    succ := bits (g 12) 55 3 * 8, nsucc := bits (g 12) 63 56, state := .held, jrec := j }

/-- A task's state set, in the scheduler and in its record. -/
def State.setState (s : State) (key : Nat) (st : TaskState) : State :=
  match FMap.find s.tasks key with
  | none => s
  | some t => (s.updTask key fun t => { t with state := st }).schedWord key (recW0 (s.depOf key) t.die st)

/-! ## Ready levels (R286 to R288, R312) -/

/-- The die takes a new decision (R293). -/
def State.wakeDie (s : State) (die : Nat) : State := s.updDie die fun d => { d with decide := true }

/-- LINK of a record, W15 (R283). -/
def State.setLink (s : State) (key v : Nat) : State := s.schedWord (key + 120) v

/-- LINK of every task of a level: the address of the next task's record, 0 in the last (R288; assumption 77). -/
def State.linkLevel (s : State) : List Nat → State
  | [] => s
  | k :: r => (s.setLink k (r.headD 0)).linkLevel r

/-- A level of a die replaced, with its links. -/
def State.setLevel (s : State) (die level : Nat) (q : List Nat) : State :=
  (s.updDie die fun d => { d with levels := FMap.put d.levels level q }).linkLevel q

/-- A task taken out of the level that holds it. -/
def State.leaveLevel (s : State) (die key : Nat) : State :=
  match (s.die die).levels.find? fun l => l.2.contains key with
  | none => s
  | some l => (s.setLevel die l.1 (l.2.filter (· != key))).setLink key 0
/-- A task entered in a level, at its tail or its head. -/
def State.enterLevel (s : State) (die key level : Nat) (front : Bool) : State :=
  let q := FMap.getD (s.die die).levels level []
  (s.setLevel die level (if front then key :: q else q ++ [key])).wakeDie die

/-- A task READY from now on, at its priority's level. -/
def State.makeReady (s : State) (key : Nat) (front : Bool) : State :=
  match FMap.find s.tasks key with
  | none => s
  | some t =>
    let s := (s.setState key .ready).updTask key fun t =>
      { t with readyAt := s.clock.toNat, level := t.prio, phase := .rest, place := none }
    s.enterLevel t.die key t.prio front

/-- A record accepted by a die (R286): LDIE, STATE and the LINK of a record in no level. -/
def State.accept (s : State) (die key va : Nat) (w : List Nat) (j : List Word) (st : Option StreamId) : State :=
  let dep := bits (w.getD 0 0) 63 48
  let t := { Task.ofRec w va die j with stream := st }
  let s : State := { s with tasks := FMap.put s.tasks key t }
  let s := (s.schedWord key (recW0 dep die .held)).setLink key 0
  if dep = 0 then s.makeReady key false else s

/-- A task of a record that the scheduler holds, entered where it is not known yet. -/
def State.knowTask (s : State) (key va : Nat) (w : List Nat) (j : List Word) : State :=
  match FMap.find s.tasks key with
  | some _ => s
  | none => { s with tasks := FMap.put s.tasks key (Task.ofRec w va (bits (w.getD 0 0) 36 35) j) }

/-- A decrement of a record's DEP (R287): its value before, and the state. -/
def State.depDown (s : State) (key va : Nat) (w : List Nat) (j : List Word) : Nat × State :=
  let w0 := w.getD 0 0
  let dep := bits w0 63 48
  if dep = 0 then (0, s)
  else
    let s := s.schedWord key (w0 - 2 ^ 48)
    let st := bits w0 34 32
    if dep = 1 ∧ (st = 1 ∨ st = 5) then (dep, (s.knowTask key va w j).makeReady key false) else (dep, s)

/-- The effective level of a READY task (R312). -/
def State.effLevel (s : State) (t : Task) : Nat :=
  let j0 := t.jw 0
  let agei := max 1 (bits (t.jw 1) 31 16)
  if bit j0 61 then min 127 (t.prio + (s.clock.toNat - t.readyAt) / (agei * 65536)) else t.prio

/-- AGING_STEP: a READY task whose effective level has risen moves to the tail of the new one. A task that a decision has taken
out of its level ages no more (R289, R312). -/
def execAgingStep (task : Nat) (s : State) : Out :=
  .next (
    match FMap.find s.tasks task with
    | none => s
    | some t =>
      let l := s.effLevel t
      if t.state = .ready ∧ t.phase = .rest ∧ t.level < l then
        ((s.leaveLevel t.die task).updTask task fun t => { t with level := l }).enterLevel t.die task l false
      else s)

/-! ## Run tables (R299, R300) -/

/-- The size of the region in which a walk found no leaf. -/
def State.gapFrom (s : State) (die asn va : Nat) : Nat → Nat → Nat
  | 0, _ => 4096
  | level + 1, table =>
    match walkHit (s.die die).walks asn va (level + 1) with
    | some t => s.gapFrom die asn va level t
    | none =>
      let e := s.walkWord (table + 8 * bits va (20 + 9 * (level + 1)) (12 + 9 * (level + 1)))
      if bit e 0 && bit e 1 && bits e 63 48 == 0 && bits e 11 2 == 0 then s.gapFrom die asn va level (bits e 47 12 * 4096)
      else 4096 * 512 ^ (level + 1)
def State.gap (s : State) (die asn va : Nat) : Nat :=
  let e := s.asnEntry asn
  if e.1 ≠ 1 then 2 ^ 56
  else if asn ≠ 0 ∧ bit va 55 then
    let z := s.asnEntry 0
    if z.1 = 1 then s.gapFrom die asn va 4 z.2.2 else 2 ^ 55
  else s.gapFrom die asn va 4 e.2.2

/-- Where the pages that no leaf maps end: at the end of the region that the walk found empty, or at the next translation that is
still cached (R298). -/
def State.gapEnd (s : State) (die asn va : Nat) : Nat :=
  let g := s.gap die asn va
  ((s.die die).tlb.filter fun e => e.1 == asn && decide (va < e.2.va)).foldl (fun m e => min m e.2.va) (va / g * g + g)

/-- The run of a page range that a leaf maps, with an extent's PERM. -/
def runOf (l : Leaf) (va size perm : Nat) : Run :=
  { va := va, size := size, page := l.size, pa := l.paOf va, resident := true, r := bit perm 2 && l.r, w := bit perm 1 && l.w
    x := bit perm 0 && l.x, fe := l.fe, efmt := l.efmt, bgeo := l.bgeo, lclass := l.lclass, isSealed := l.isSealed, co := l.co }
/-- The run of a range that no leaf maps. -/
def runNone (va size perm : Nat) : Run :=
  { va := va, size := size, r := bit perm 2, w := bit perm 1, x := bit perm 0 }

/-- The next pages continue a run: their addresses follow, and attributes, permissions and residency are equal (R299). -/
def Run.joins (a b : Run) : Bool :=
  a.va + a.size == b.va && a.resident == b.resident && (!a.resident || a.pa + a.size == b.pa) &&
  { a with va := 0, size := 0, page := 0, pages := [], pa := 0, drops := 0 } ==
    { b with va := 0, size := 0, page := 0, pages := [], pa := 0, drops := 0 }

/-- A run with the pages of the one that continues it. -/
def Run.extend (a b : Run) : Run :=
  { a with size := a.size + b.size, pages := if a.pageAt b.va = b.page then a.pages else a.pages ++ [(b.va, b.page)] }

/-- A run added after those found so far (latest first). -/
def pushRun (rs : List Run) (r : Run) : List Run :=
  match rs with
  | a :: q => if a.joins r then a.extend r :: q else r :: a :: q
  | [] => [r]

/-- The runs of one extent from an address on, added to those of the extents before it, latest first; it stops past 64. -/
def State.extentRuns (s : State) (die asn stop perm : Nat) : Nat → Nat → List Run → List Run × State
  | 0, _, rs => (rs, s)
  | fuel + 1, va, rs =>
    if stop ≤ va ∨ 64 < rs.length then (rs, s)
    else
      let (l, s) := s.translate die asn va
      match l with
      | some l =>
        let n := min stop (l.va + l.size) - va
        s.extentRuns die asn stop perm fuel (va + n) (pushRun rs (runOf l va n perm))
      | none =>
        let n := min stop (s.gapEnd die asn va) - va
        s.extentRuns die asn stop perm fuel (va + n) (pushRun rs (runNone va n perm))

/-- The run table that a task's extents give (R299). -/
def State.buildRuns (s : State) (t : Task) : List Run × State :=
  let (rs, s) := t.extents.foldl (fun acc w =>
    let (base, size, perm) := extentOf w.toNat
    acc.2.extentRuns t.die t.asn (base + size) perm (size / 4096 + 1) base acc.1) ([], s)
  (rs.reverse, s)

/-! ## Placement (R290 to R292) -/

/-- What tasks hold on a core, those of `gone` apart: task, context, first row, rows and tiles. -/
def State.holdings (s : State) (gone : List Nat) (core : Nat) : List (Nat × Nat × Nat × Nat × Nat) :=
  s.tasks.flatMap fun e =>
    if gone.contains e.1 then []
    else
      match e.2.place with
      | none => []
      | some p => p.members.filterMap fun m =>
          if (e.2.die * 32 + p.cluster) * 8 + m.1 = core then some (e.1, m.2.1, m.2.2, e.2.rows, e.2.acc) else none

/-- The lowest free run of rows among those held. -/
def freeRows (held : List (Nat × Nat)) (n : Nat) (keep : Bool) : Option Nat :=
  if n = 0 then some 0
  else
    let starts := if keep then [0] else (0 :: held.map fun h => h.1 + h.2)
    let ok (r : Nat) : Bool := decide (r + n ≤ 8192) && held.all fun h => decide (h.2 = 0) || decide (r + n ≤ h.1) || decide (h.1 + h.2 ≤ r)
    (starts.filter ok).foldl (fun m r => match m with
      | none => some r
      | some k => some (min k r)) none

/-- The context and first row that a core offers a member, with `gone` taken away (R290). -/
def State.coreFits (s : State) (gone : List Nat) (core : Nat) (t : Task) (needsLns : Bool) : Option (Nat × Nat) :=
  let hs := s.holdings gone core
  let c := s.core core
  let lnsFree := !s.lnsTaken gone core && (c.lns.mode == .idle && c.lns.owner.isNone ||
    (match c.lns.owner with
     | none => false
     | some cx => ((s.ctx cx).task.map fun k => gone.contains k).getD true))
  if !c.working || 8 < (hs.map fun h => h.2.2.2.2).foldl (· + ·) 0 + t.acc || (needsLns && !lnsFree) then none
  else
    match (List.range 4).find? fun i => !(hs.any fun h => h.2.1 == i), freeRows (hs.map fun h => (h.2.2.1, h.2.2.2.1)) t.rows t.keep with
    | some cx, some r => some (cx, r)
    | _, _ => none

/-- The placement of a task in a cluster of its die. -/
def State.fitsIn (s : State) (gone : List Nat) (t : Task) (cl : Nat) : Option Placement :=
  let core (i : Nat) : Nat := (t.die * 32 + cl) * 8 + i
  match t.saved with
  | some ms =>
    let ps := ms.filterMap fun m => (s.coreFits gone (core m.core) t m.lns.isSome).map fun p => (m.core, p.1, p.2)
    if ps.length = ms.length then some { cluster := cl, members := ps } else none
  | none =>
    let ps := ((List.range 8).filterMap fun i => (s.coreFits gone (core i) t false).map fun p => (i, p.1, p.2)).take t.size
    if ps.length = t.size then some { cluster := cl, members := ps } else none

/-- A cluster is awake for placement (R291). -/
def State.awake (s : State) (k : Nat) : Bool := (s.cluster k).mode == .active && (s.cluster k).eff != 0

/-- The record of a job's supervisor, as its ASN maps it on a die. -/
def State.supKey (s : State) (die job : Nat) : Option Nat :=
  (s.jobRec die job).1.bind fun j =>
    let va := bits (jword j 2) 55 7 * 128
    (s.translate die (jobAsn j) va).1.map fun l => l.paOf va

/-- A job has a fault record in delivery, and a task is its supervisor (R292). -/
def State.supBusy (s : State) (key : Nat) (t : Task) : Bool :=
  s.records.any fun r => !r.2.isEmpty && s.supKey t.die r.1 == some key

/-- Candidates in a cluster in the order of R292: ascending priority, earliest dispatch first. -/
def State.candidates (s : State) (t : Task) (level cl : Nat) : List (Nat × Task) :=
  let cs := s.tasks.filter fun e =>
    e.2.state == .resident && e.2.phase == .rest && e.2.die == t.die && decide (e.2.prio < level) && !s.supBusy e.1 e.2 &&
    decide (e.2.need ≤ s.saveRoom t.die) && (e.2.place.map (·.cluster)) == some cl
  cs.insertionSort fun a b => a.2.prio < b.2.prio ∨ (a.2.prio = b.2.prio ∧ a.2.boundAt ≤ b.2.boundAt)

/-- The shortest run of candidates, taken in order, with which a task fits a cluster. -/
def State.victimSet (s : State) (t : Task) (cl : Nat) : List (Nat × Task) → List (Nat × Task) → Option (List (Nat × Task) × Placement)
  | _, [] => none
  | taken, c :: r =>
    let vs := taken ++ [c]
    match s.fitsIn (vs.map (·.1)) t cl with
    | some p => some (vs, p)
    | none => s.victimSet t cl vs r

/-- The victims chosen for a task and the placement they make room for (R292). -/
def State.victims (s : State) (t : Task) (level : Nat) : Option (List (Nat × Task) × Placement) :=
  let top (v : List (Nat × Task) × Placement) : Nat := (v.1.map fun e => e.2.prio).foldl max 0
  let sets := (List.range 32).filterMap fun cl =>
    if s.awake (t.die * 32 + cl) then
      (s.victimSet t cl [] (s.candidates t level cl)).filter fun v =>
        decide ((v.1.map fun e => e.2.need).foldl (· + ·) 0 ≤ s.saveRoom t.die)
    else none
  sets.foldl (fun best v =>
    match best with
    | none => some v
    | some b => if top v < top b ∨ (top v = top b ∧ v.1.length < b.1.length) then some v else some b) none

/-! ## Fault records and halts (R307, R308) -/

/-- A record that waits for its slot. -/
def State.postRecord (s : State) (job : Nat) (r : FaultRecord) : State :=
  { s with records := FMap.put s.records job (FMap.getD s.records job [] ++ [r]) }

/-- `%place` of a context. -/
def State.placeWord (s : State) (cx : Nat) : Nat := s.boot.modid.toNat * 4096 + cx % 4096

/-- The record of a fault. -/
def faultRecord (f : FaultInfo) (member key va place : Nat) : FaultRecord :=
  { kind := 1, cause := f.cause.code, slot := f.slot, len := f.len, member := member, task := key, record := va
    addr := f.addr, data := f.data, bundle := f.pc.toNat, tick := f.tick, place := place }

/-- `%fcause`.SLOT, `%fcause`.LEN and `%fbundle` in a record that reports no fault (Table 13-5). -/
def FaultRecord.shows (r : FaultRecord) (c : Ctl) : FaultRecord :=
  { r with slot := bits c.fcause.toNat 15 12, len := bits c.fcause.toNat 21 16, bundle := c.fbundle.toNat }

/-- The record of a dispatch decision that ends in PLACE. The registers it shows are those that a crew to be resumed holds for its
first member; a task that has never run holds none. -/
def placeRecord (key : Nat) (t : Task) (reason tick : Nat) : FaultRecord :=
  FaultRecord.shows
    { kind := 3, cause := 0, slot := 0, len := 0, member := 0, task := key, record := t.va, addr := 0, data := reason
      bundle := 0, tick := tick, place := 0 }
    (((t.saved.bind List.head?).map fun m => m.st.ctl).getD {})

/-- A job halted (R308): HALT set, and HVEC raised on every function bound to it. -/
def State.haltJob (s : State) (die job : Nat) : State :=
  let (pa, s) := s.jobPa die job
  match pa with
  | none => s
  | some pa =>
    let w0 := Memory.word s.mem pa
    let s := if bit w0 62 then s else s.schedWord pa (w0 + 2 ^ 62)
    let vec := bits (Memory.word s.mem (pa + 8)) 10 0
    [0, 1].foldl (fun s port => (List.range 65).foldl (fun s fn =>
      if s.boundTo port fn job then s.raiseIrq port fn vec else s) s) s

/-- A task suspended: STATE SUSPENDED and DEP 1 (R307). -/
def State.suspend (s : State) (key : Nat) : State :=
  match FMap.find s.tasks key with
  | none => s
  | some t =>
    (((s.schedWord key (recW0 1 t.die .suspended)).updTask key fun t =>
      { t with state := .suspended, phase := .rest, place := none })).wakeDie t.die

/-- A suspended task's fault goes to its supervisor, or its job halts where the task is its own supervisor or the job's
record is no longer valid (R280, R308). -/
def State.reportFault (s : State) (key : Nat) (r : FaultRecord) : State :=
  match FMap.find s.tasks key with
  | none => s
  | some t =>
    let (j, s) := s.jobRec t.die t.job
    match j with
    | none => s.haltJob t.die t.job
    | some j =>
      let s := s.updTask key fun t => { t with jrec := j }
      if bits (jword j 2) 55 7 * 128 = t.va then s.haltJob t.die t.job else s.postRecord t.job r

/-- The words of a fault record (Table 13-5). -/
def FaultRecord.words (r : FaultRecord) : List Nat :=
  [r.kind * 2 ^ 62 + r.cause * 2 ^ 40 + r.slot * 2 ^ 36 + r.len % 64 * 2 ^ 30 + r.member * 2 ^ 27, r.record, r.addr, r.data,
   r.bundle, r.tick, r.place, 0]

/-- The supervisor's record made READY after a delivery (R308), or none where that halts the job. The record is read through the
faulting task's job, and accepted in the address space of its own. -/
def State.readySupervisor (s : State) (die : Nat) (j : List Word) : Option State :=
  let va := bits (jword j 2) 55 7 * 128
  let (l, s) := s.translate die (jobAsn j) va
  match l with
  | none => none
  | some l =>
    let key := l.paOf va
    if !l.r || l.isSealed || l.co then none
    else
      let (w, s) := s.recWords key (some (bits (jword j 0) 47 40))
      match w with
      | none => none
      | some w =>
        let (jr, s) := s.jobRec die (bits (w.getD 1 0) 63 52)
        if recIdle w then
          match jr with
          | some jr =>
            let readable (a : Nat) : Bool := ((s.translate die (jobAsn jr) a).1.map (·.r)).getD false
            if recOk w readable (s.boot.savesz.toNat * 0x100000) then
              some (s.accept die key va ((bits (w.getD 0 0) 47 0) :: w.drop 1) jr none)
            else none
          | none => none
        else if bits (w.getD 0 0) 34 32 = 1 then
          let s := s.knowTask key va w (jr.getD [])
          some ((s.schedWord key (recW0 0 (bits (w.getD 0 0) 36 35) .held)).makeReady key false)
        else some s

/-- The head record of a job written into its slot (R307). The record stays where word 0 of the slot is full. -/
def State.deliverRecord (s : State) (job : Nat) (r : FaultRecord) (rest : List FaultRecord) : State :=
  let die := ((FMap.find s.tasks r.task).map (·.die)).getD 0
  let drop (s : State) : State := { s with records := FMap.put s.records job rest }
  let (j, s) := s.jobRec die job
  match j with
  | none => (drop s).haltJob die job
  | some j =>
    let prod := bits (jword j 6) 31 0
    let n := 2 ^ bits (jword j 5) 63 59
    let va := bits (jword j 5) 55 6 * 64 + 64 * (prod % n)
    let (l, s) := s.translate die (jobAsn j) va
    match l with
    | none => (drop s).haltJob die job
    | some l =>
      if !l.fe then (drop s).haltJob die job
      else
        let pa := l.paOf va
        if s.isFull pa then s
        else
          let ws := r.words
          let s := s.poke none (pa + 8) ((ws.drop 1).flatMap (leBytes 8))
          let s := (s.poke none pa (leBytes 8 (ws.headD 0))).setFull pa true
          let (jp, s) := s.jobPa die job
          let s := match jp with
            | none => s
            | some jp => s.schedWord (jp + 48) (jword j 6 - prod + (prod + 1) % n)
          match (drop s).readySupervisor die j with
          | some s => s
          | none => (drop s).haltJob die job

/-- FAULT_RECORD_DELIVERY. -/
def execFaultRecordDelivery (job : Nat) (s : State) : Out :=
  .next (
    match FMap.getD s.records job [] with
    | [] => s
    | r :: rest => s.deliverRecord job r rest)

/-! ## Dispatch decisions (R289) -/

/-- The head of the highest ready level. -/
def Die.headTask (d : Die) : Option (Nat × Nat) :=
  d.levels.foldl (fun best l =>
    match l.2 with
    | [] => best
    | k :: _ => some (l.1, k)) none

/-- A task is being taken off its contexts: it holds its save need already (R302). -/
def Task.leaving (t : Task) : Bool :=
  match t.phase with
  | .freezing _ _ _ _ | .saving _ _ _ _ _ => true
  | .rest | .binding => false

/-- A task ends without running, or at its last member's end: its state, its save space, and what waits for it. -/
def State.closeTask (s : State) (key : Nat) : State :=
  match FMap.find s.tasks key with
  | none => s
  | some t =>
    let s := s.setState key .ended
    let s := if t.saved.isSome || t.leaving then s.updDie t.die fun d => { d with saveUsed := d.saveUsed - t.need } else s
    (s.updTask key fun t => { t with saved := none, place := none, phase := .rest, runs := [] }).wakeDie t.die

/-- A wake of a cluster requested from the Daybreak controller (R291). -/
def State.requestWake (s : State) (k : Nat) : State :=
  let c := s.cluster k
  if c.waking || c.mode == .active || inSet (s.die (k / 32)).dayQueue k then s
  else s.updDie (k / 32) fun d => { d with dayQueue := d.dayQueue ++ [k] }

/-- Ticks from a decision to the binding, within the promise of R313: 3,000 ticks, 25 for each run and one for each 64 bytes that
are restored, of which the model leaves 1,000 to the fetch of the first bundle (assumption 78). -/
def bindDelay (f : Nat) (t : Task) (runs : Nat) : Nat :=
  Config.schedDelay f % (2000 + 25 * runs + (if t.saved.isSome then t.need / 64 else 0))

/-- A task placed: removed from its level, its resources reserved, its victims asked to leave, its run table built (R289). -/
def State.reserve (s : State) (key level : Nat) (t : Task) (p : Placement) (victims : List Nat) : State :=
  let (f, s) := s.drawFree
  let s := victims.foldl (fun s v => s.freezeTask v .ready none 0 false) (s.leaveLevel t.die key)
  let (runs, s) := s.buildRuns t
  if 64 < runs.length then (s.suspend key).postRecord t.job (placeRecord key t 2 s.clock.toNat)
  else
    { s with boot := { s.boot with dispatched := true } }.updTask key fun t =>
      { t with phase := .binding, place := some p, victims := victims, runs := runs, level := level
               bindAt := s.clock.toNat + 1 + bindDelay f t runs.length }

/-- DISPATCH_DECISION: one decision of a die. A cluster in Nightfall offers nothing (R372; assumption 79). -/
def State.dispatch (s : State) (die : Nat) : State :=
  match (s.die die).headTask with
  | none => s.updDie die fun d => { d with decide := false }
  | some (level, key) =>
    match FMap.find s.tasks key with
    | none => s.leaveLevel die key
    | some t =>
      let rec1 := Memory.word s.mem (key + 8)
      let (j, s) := s.jobRec die t.job
      if bit rec1 51 then (s.leaveLevel die key).closeTask key
      else
        match j with
        | none => (s.leaveLevel die key).suspend key
        | some j =>
          let t := { t with jrec := j, asn := jobAsn j }
          let s := s.updTask key fun _ => t
          if bit (jword j 0) 62 then (s.leaveLevel die key).suspend key
          else if (s.asnEntry t.asn).1 = 2 then
            ((s.leaveLevel die key).suspend key).reportFault key
              (faultRecord { cause := .asnBusy, slot := 7, data := t.asn, tick := s.clock.toNat } 0 key t.va 0)
          else if !((List.range 32).any fun cl => decide (t.size ≤
              ((List.range 8).filter fun i => (s.core ((die * 32 + cl) * 8 + i)).working).length)) then
            ((s.leaveLevel die key).suspend key).postRecord t.job (placeRecord key t 1 s.clock.toNat)
          else
            let try_ (up : Bool) : Option Placement :=
              (List.range 32).findSome? fun cl =>
                if s.awake (die * 32 + cl) = up ∧ (s.cluster (die * 32 + cl)).mode ≠ .nightfall then s.fitsIn [] t cl else none
            match try_ true with
            | some p => s.reserve key level t p []
            | none =>
              match try_ false with
              | some p => (s.requestWake (die * 32 + p.cluster)).reserve key level t p []
              | none =>
                match s.victims t level with
                | some (vs, p) => s.reserve key level t p (vs.map (·.1))
                | none => s.updDie die fun d => { d with decide := false }

def execDispatchDecision (die : Nat) (s : State) : Out := .next (s.dispatch die)

/-! ## Binding (R75, R90, R294, R305) -/

/-- The strand of a member at its task's first dispatch (R75, R90). -/
def Strand.first (_key : Nat) (t : Task) (member : Nat) : Strand :=
  let record := BitVec.ofNat 49 (t.va / 128)
  { pc := BitVec.ofNat 56 t.code
    ctl := { job := BitVec.ofNat 12 t.job, record := record, crewM1 := BitVec.ofNat 3 (t.size - 1)
             member := BitVec.ofNat 3 member, spillSize := BitVec.ofNat 16 (128 * t.spill)
             rseed := seedOf (record.setWidth 64 * 0x9E3779B97F4A7C15 + BitVec.ofNat 64 (member + 1)) } }

/-- The rows of a member as binding leaves them: zero and empty, or as they were saved, with their words in error. -/
def State.putRows (s : State) (core first rows : Nat) (data : FMap Byte) (full bad : List Nat) : State :=
  let lo := locKey core first 0
  let hi := lo + 128 * rows
  let s := { s with
    loc := s.loc.filter fun e => !(decide (lo ≤ e.1) && decide (e.1 < hi))
    locFull := s.locFull.filter fun w => !(decide (lo ≤ 8 * w) && decide (8 * w < hi))
    locBad := s.locBad.filter fun w => !(decide (lo ≤ 8 * w) && decide (8 * w < hi)) }
  let s := { s with loc := data.foldl (fun m e => Memory.put m (lo + e.1) e.2) s.loc
                    locBad := bad.foldl (fun l w => addSet l ((lo + w) / 8)) s.locBad }
  full.foldl (fun s w => s.setLocFull (lo + w) true) s

/-- One member bound to its context. -/
def State.bindMember (s : State) (key : Nat) (t : Task) (member : Nat) (p : Nat × Nat × Nat) : State :=
  let core := (t.die * 32 + ((t.place.map (·.cluster)).getD 0)) * 8 + p.1
  let cx := core * 4 + p.2.1
  let c : Ctx := { task := some key, runs := t.runs, rowBase := p.2.2, rows := t.rows, tiles := t.acc }
  let s := s.ungate core
  match t.saved.bind fun ms => ms[member]? with
  | some m =>
    let s := s.putRows core p.2.2 t.rows m.rowBytes m.rowFull m.rowBad
    let s := s.setCtx cx { c with st := m.st }
    let s := match m.lns with
      | none => s
      | some n => s.updLns core fun _ => { n with owner := some cx }
    s.refillStrand cx
  | none =>
    let s := s.putRows core p.2.2 t.rows [] [] []
    let s := s.setCtx cx { c with st := Strand.first key t member }
    if t.sched = 0 then s
    else
      let keep := s.iss
      let s : State := { s with iss := { cx := cx } }
      let (P, s) := s.releaseUpTo 0 s.schedFuel none
      let s := match P with
        | none => s
        | some P => s.updCtl fun c => { c with due := BitVec.ofNat 64 P }
      { s with iss := keep }

/-- A task may bind: the delay has passed, its cluster is awake and its victims are saved (R289). -/
def State.bindable (s : State) (t : Task) : Bool :=
  decide (t.bindAt ≤ s.clock.toNat) && ((t.place.map fun p => s.awake (t.die * 32 + p.cluster)).getD false) &&
  t.victims.all fun v => ((FMap.find s.tasks v).map fun k => k.state != .resident || k.place.isNone).getD true

/-- A task whose saved state holds an uncorrectable error is suspended without a fault record, and its job halts (Table 19-3). Which word of
the save store held it is free (assumption 86). -/
def State.lostSave (s : State) (key : Nat) (t : Task) : State :=
  let (f, s) := s.drawFree
  let words := s.boot.savesz.toNat * 0x20000
  let pa := (t.die + 1) * lpddrSize - 8 * words + 8 * (Config.choice f % words)
  let s := s.eccAt [pa] pa (some t.slot)
  (s.suspend key).haltJob t.die t.job

/-- CREW_BIND: a reserved task is bound or resumed; where a core of its placement has stopped working it goes back to the
head of its level. -/
def execCrewBind (task : Nat) (s : State) : Out :=
  .next (
    match FMap.find s.tasks task with
    | none => s
    | some t =>
      match t.place with
      | none => s
      | some p =>
        if t.phase ≠ .binding ∨ !s.bindable t then s
        else if !(p.members.all fun m => (s.core ((t.die * 32 + p.cluster) * 8 + m.1)).working) then
          (s.updTask task fun t => { t with phase := .rest, place := none }).enterLevel t.die task t.level true
        else if t.saved.isSome && t.savedBad then s.lostSave task t
        else
          let s := p.members.zipIdx.foldl (fun s m => s.bindMember task t m.2 m.1) s
          let s := if t.saved.isSome then s.updDie t.die fun d => { d with saveUsed := d.saveUsed - t.need } else s
          (s.setState task .resident).updTask task fun t =>
            { t with phase := .rest, saved := none, boundAt := s.clock.toNat, victims := [], level := t.prio
                     parkWord := none
                     fuseUp := match t.saved with
                       | none => false
                       | some ms => ms.any fun m => m.st.ctl.fused })

/-! ## Freezing and saving (R303, R304) -/

/-- A member stands at a bundle boundary where it has stopped. -/
def Ctx.stopped (c : Ctx) : Bool :=
  match c.st.mode with
  | .frozen | .ended | .sleep _ _ | .fuseWait => true
  | .run | .hold | .wait => c.dormant

/-- A member has drained: its commands, requests and interlocked results are done, its promised data has landed. -/
def State.drained (s : State) (cx : Nat) : Bool :=
  let st := (s.ctx cx).st
  !(s.cmds.any fun c => c.cx == cx) && st.pend.isEmpty && !(s.outReqs.any fun r => r.cx == cx) &&
  st.flight.all fun e => (e.lands.map fun t => decide (t ≤ s.clock.toNat)).getD true

/-- The strand as the save store holds it (R303, R304): no latch, no latch-only result, no sealed rows. -/
def Strand.saved (st : Strand) : Strand :=
  { st with
    flight := (st.flight.filter fun e => e.op != .latchOnly).map fun e =>
      { e.sealedAway with latch := none, lands := e.lands.map fun _ => 0 }
    active := st.active.saved, shadow := st.shadow.saved
    mode := match st.mode with
      | .frozen | .hold | .wait => .run
      | m => m }

/-- One member taken off its context: what is saved, and the freed context. -/
def State.saveMember (s : State) (t : Task) (cx : Nat) : SavedMember × State :=
  let c := s.ctx cx
  let core := coreOf cx
  let lo := locKey core c.rowBase 0
  let hi := lo + 128 * t.rows
  let n := s.lns core
  let own := n.owner == some cx
  let m : SavedMember :=
    { core := core % 8, st := c.st.saved
      rowBytes := (s.loc.filter fun e => decide (lo ≤ e.1) && decide (e.1 < hi)).map fun e => (e.1 - lo, e.2)
      rowFull := (s.locFull.filter fun w => decide (lo ≤ 8 * w) && decide (8 * w < hi)).map fun w => 8 * w - lo
      rowBad := (s.locBad.filter fun w => decide (lo ≤ 8 * w) && decide (8 * w < hi)).map fun w => 8 * w - lo
      lns := if own then some { n with owner := none } else none }
  let s := s.storeEcc cx core m.rowBad.length
  let s := if own then s.updLns core Lns.release else s
  (m, { s with ctxs := FMap.del s.ctxs cx })

/-- The contexts of a task's members in order. -/
def State.members (s : State) (key : Nat) : List Nat :=
  match FMap.find s.tasks key with
  | none => []
  | some t =>
    match t.place with
    | none => []
    | some p => p.members.map fun m => ((t.die * 32 + p.cluster) * 8 + m.1) * 4 + m.2.1

/-- A crew saved: its contexts, rows and tiles are free (R303 steps 4 and 5). Its save need was taken when it was asked to freeze
(R302). -/
def State.saveCrew (s : State) (key : Nat) : State :=
  match FMap.find s.tasks key with
  | none => s
  | some t =>
    let (ms, s) := (s.members key).foldl (fun acc cx =>
      let (m, s) := acc.2.saveMember t cx
      (acc.1 ++ [m], s)) (([] : List SavedMember), s)
    (s.updTask key fun t => { t with saved := some ms, savedBad := false, place := none, phase := .rest, runs := [] }).wakeDie t.die

/-! ## Parking lists (R176, R310, R311) -/

/-- The directory entry of a word and a job. -/
def parkKey (word job : Nat) : Nat := word * 4096 + job

/-- The region indices that a job's lists use, on every die. -/
def State.parkUsed (s : State) (job : Nat) : List Nat :=
  s.dies.flatMap fun d => d.2.parks.flatMap fun p => if p.2.job = job then p.2.items.map (·.1) else []

/-- An entry of a parking region written (R310). -/
def State.parkWrite (s : State) (base idx va : Nat) (form : Form) : State :=
  let f := match form with
    | .plain => 0 | .wait => 1 | .take => 2 | .fill => 3 | .force => 4
  let (p, s) := s.sysPa 0 (base + 16 * idx)
  match p with
  | none => s
  | some pa => (s.schedWord pa (va / 128 * 128 + f)).schedWord (pa + 8) (2 ^ 32 - 1)
/-- Word 1 of an entry pointed at another. -/
def State.parkLink (s : State) (base idx next : Nat) : State :=
  let (p, s) := s.sysPa 0 (base + 16 * idx + 8)
  match p with
  | none => s
  | some pa => s.schedWord pa next

/-- A task appended to a word's list; none where the list is full. -/
def State.park (s : State) (key word : Nat) (form : Form) : Option State :=
  match FMap.find s.tasks key with
  | none => none
  | some t =>
    let d := homeDie word
    let used := s.parkUsed t.job
    let k := parkKey word t.job
    let list := FMap.find (s.die d).parks k
    let dir := (s.die d).parks.filter fun p => sliceOf p.2.word == sliceOf word
    match (List.range (min (bits (t.jw 4) 31 0) (used.length + 1))).find? fun i => !used.contains i with
    | none => none
    | some idx =>
      if (list.isNone && decide (256 ≤ dir.length)) || (t.phase == .rest && decide (s.saveRoom t.die < t.need)) then none
      else
        let base := bits (t.jw 3) 55 4 * 16
        let s := s.parkWrite base idx t.va form
        let s := match list.bind fun l => l.items.getLast? with
          | none => s
          | some e => s.parkLink base e.1 idx
        let l : ParkList := list.getD { job := t.job, word := word, items := [] }
        some ((s.updDie d fun x =>
          { x with parks := FMap.put x.parks k { l with items := l.items ++ [(idx, key, form)] } }).updTask key
            fun t => { t with parkWord := some word })

/-- A task taken out of its word's list: the entry before it is rewritten, and an empty list is freed. -/
def State.unpark (s : State) (word job key : Nat) : State :=
  let d := homeDie word
  match FMap.find (s.die d).parks (parkKey word job) with
  | none => s
  | some l =>
    let base := bits (((FMap.find s.tasks key).map fun t => t.jw 3).getD 0) 55 4 * 16
    let before : Option (Nat × Nat × Form) := (l.items.takeWhile fun e => e.2.1 != key).getLast?
    let next : Option (Nat × Nat × Form) := ((l.items.dropWhile fun e => e.2.1 != key).drop 1).head?
    let after : Nat := match next with
      | none => 2 ^ 32 - 1
      | some e => e.1
    let s : State := match before with
      | none => s
      | some e => s.parkLink base e.1 after
    let es := l.items.filter fun e => e.2.1 != key
    let l : ParkList := { l with items := es, woken := delSet l.woken key }
    s.updDie d fun x =>
      { x with parks := if es.isEmpty then FMap.del x.parks (parkKey word job) else FMap.put x.parks (parkKey word job) l }

/-- A parked task READY again, its job's record read anew (R278, R280). -/
def State.requeue (s : State) (word job key : Nat) : State := ((s.unpark word job key).rereadJob key).makeReady key false

/-- The entries of one list of a word taken in list order. -/
def State.requeueList (s : State) (word : Nat) (l : ParkList) : State :=
  l.items.foldl (fun s e =>
    match FMap.find s.tasks e.2.1 with
    | none => s.unpark word l.job e.2.1
    | some t =>
      if t.state = .parked then if inSet l.woken e.2.1 then s.requeue word l.job e.2.1 else s
      else if t.state = .resident then s
      else s.unpark word l.job e.2.1) s

/-- PARKED_TASK_REQUEUE: every PARKED task on a word whose form a change of the word's bit has allowed is READY, in list order;
entries that name no parked task are dropped (R311). Tasks still being saved stay, and are taken up at the end of their save
(R277). -/
def execParkedTaskRequeue (word : Nat) (s : State) : Out :=
  let d := homeDie word
  .next (
    let s := s.updDie d fun k => { k with waking := delSet k.waking word }
    ((s.die d).parks.filter fun p => p.2.word == word).foldl (fun s p => s.requeueList word p.2) s)

/-- The end of a save: the crew is off its contexts, and its task takes the state it was frozen for. -/
def State.saveEnd (s : State) (key : Nat) (t : Task) (after : TaskState) (f : Option FaultInfo) (member : Nat) (yield : Bool) :
    State :=
  let cx := ((s.members key)[member]?).getD 0
  let s := s.saveCrew key
  match after with
  | .parked =>
    let s := s.setState key .parked
    match t.parkWord with
    | none => s
    | some w =>
      match FMap.find (s.die (homeDie w)).parks (parkKey w t.job) with
      | none => s
      | some l => if inSet l.woken key then s.requeue w t.job key else s
  | .suspended =>
    let s := s.suspend key
    match f with
    | none => s
    | some f => s.reportFault key (faultRecord f member key t.va (s.placeWord cx))
  | _ =>
    if yield then s.makeReady key false
    else
      let s := s.countSlot t.slot .preempt 1
      s.makeReady key true

/-- A member that has been asked to freeze does so at a bundle boundary (R303 step 1). One that sleeps, waits in lock-step or
has ended stays as it is. A stall in progress is completed first, and a held bundle whose access has been performed commits first
(R177). The limit of a held `bar.wait` is kept (R184). -/
def State.freezeNow (s : State) (cx : Nat) : State :=
  let c := s.ctx cx
  if !c.freeze ∨ c.st.owed ≠ 0 ∨ (c.st.mode = .run ∧ c.inStall) ∨ c.hold.any Hold.commits then s
  else
    match c.st.mode with
    | .run | .wait | .hold =>
      s.updCtx cx fun c =>
        let b := (Ctx.dropFetch c).boundary
        { b with hold := none, st := { b.st with mode := .frozen, barLimit := c.keptLimit } }
    | .sleep _ _ | .fuseWait | .frozen | .ended => s

/-- One step of taking a crew off its contexts: a resident task at rest is asked to freeze; a frozen and drained one starts
its save; a save whose time has come ends (R303). -/
def State.preempt (s : State) (key : Nat) : State :=
  match FMap.find s.tasks key with
  | none => s
  | some t =>
    if (s.members key).any fun cx => (s.ctx cx).dawnHeld then s
    else match t.phase with
    | .rest => if t.state = .resident then s.freezeTask key .ready none 0 false else s
    | .binding => s
    | .freezing after f member y =>
      let s := (s.members key).foldl State.freezeNow ((s.members key).foldl State.reissue s)
      if (s.members key).all fun cx => (s.ctx cx).stopped && s.drained cx then
        let (n, s) := s.drawFree
        s.updTask key fun t => { t with phase := TaskPhase.saving after (s.clock.toNat + Config.schedDelay n) f member y }
      else s
    | .saving after tick f member y => if tick ≤ s.clock.toNat then s.saveEnd key t after f member y else s

/-- PREEMPTION. -/
def execPreemption (task : Nat) (s : State) : Out := .next (s.preempt task)
/-- PARK_SAVE_COMPLETE: the same step for a crew that parks (R277). -/
def execParkSaveComplete (task : Nat) (s : State) : Out :=
  .next (
    match (FMap.find s.tasks task).map Task.phase with
    | some (.saving .parked _ _ _ _) => s.preempt task
    | _ => s)

/-! ## The end of a task (R193) -/

/-- A record that could not be read while successors were signalled. -/
def skipRecord (key va addr idx tick : Nat) : FaultRecord :=
  { kind := 1, cause := 0x06, slot := 7, len := 0, member := 0, task := key, record := va, addr := addr, data := idx
    bundle := 0, tick := tick, place := 0 }

/-- A physical address that a job's ASN reads, with R. An uncorrectable error is counted in an account slot (R392). -/
def State.jobRead (s : State) (die asn va n : Nat) (slot : Option Nat := none) : Option Nat × State :=
  let (l, s) := s.translate die asn va
  match l with
  | none => (none, s)
  | some l =>
    let pa := l.paOf va
    if l.r && !l.isSealed && s.sealTag pa == 0 && !l.co then (if s.spoiled pa n then (none, s.eccMet pa n slot) else (some pa, s))
    else (none, s)

/-- SUCC and SCHED lie in runs with `r` (condition 7 of R284). -/
def readableIn (runs : List Run) (va : Nat) : Bool :=
  match findRun runs va with
  | none => false
  | some (_, r) => r.r

/-- One successor signalled, with the tests of `task.sig` (R192, R193); one that cannot be read is skipped and reported. -/
def State.signalSucc (s : State) (key : Nat) (t : Task) (i : Nat) : State :=
  let at_ := t.succ + 8 * i
  let skip (s : State) (a : Nat) : State := s.postRecord t.job (skipRecord key t.va a i s.clock.toNat)
  let (p, s) := s.jobRead t.die t.asn at_ 8 (some t.slot)
  match p with
  | none => skip s at_
  | some p =>
    let va := bits (Memory.word s.mem p) 55 7 * 128
    let (r, s) := s.jobRead t.die t.asn va 128 (some t.slot)
    match r with
    | none => skip s va
    | some r =>
      let w := wordsOf (s.peek r 128)
      let runs := ((s.members key).head?.map fun cx => (s.ctx cx).runs).getD t.runs
      if bits (w.getD 1 0) 63 52 ≠ t.job then s
      else
        let (j, s) := s.jobRec t.die t.job
        match j with
        | none => s
        | some j =>
          if recOk w (readableIn runs) (s.boot.savesz.toNat * 0x100000) then (s.depDown r va w j).2 else s

/-- A task ends: successors, then its contexts, rows and tiles (R193). -/
def State.endTask (s : State) (key : Nat) : State :=
  match FMap.find s.tasks key with
  | none => s
  | some t =>
    let s := (List.range t.nsucc).foldl (fun s i => s.signalSucc key t i) s
    let s := (s.members key).foldl (fun s cx =>
      let s := if (s.lns (coreOf cx)).owner = some cx then s.updLns (coreOf cx) Lns.release else s
      { s with ctxs := FMap.del s.ctxs cx }) s
    s.closeTask key

/-- A strand that has executed `task.end`; the last live member's end ends the task (R192). -/
def State.strandEnd (s : State) (cx : Nat) : State :=
  let s := s.updCtx cx fun c => { c with
    st := { c.st with mode := .ended, ended := true, ctl := { c.st.ctl with fused := false } } }
  match (s.ctx cx).task with
  | none => s
  | some key => if (s.crewOf cx).all fun m => (s.ctx m).st.ended then s.endTask key else s

/-- A `task.yield` that has committed (R192). -/
def State.yieldTask (s : State) (cx : Nat) : State :=
  match (s.ctx cx).task with
  | none => s
  | some key =>
    match FMap.find s.tasks key with
    | none => s
    | some t =>
      match (s.die t.die).headTask with
      | some (l, _) => if t.prio ≤ l ∧ t.phase = .rest then s.freezeTask key .ready none 0 true else s
      | none => s

/-! ## `task.spawn`, `task.sig` and `asn.retire` (R192, R194) -/

/-- The run of a task-record operand, under steps 1 to 4 of R166. -/
def State.recordAt (s : State) (va : Nat) : Checked DevAt :=
  let s0 : State := { s with mix := [] }.updCtl fun c => { c with watch := 0 }
  s0.devCheck s.iss.cx (va : Int) 128 true false false

/-- The common part of `task.spawn` and `task.sig`: the record, its job and conditions 2 to 8. `fail` writes a status. -/
def State.taskOperand (s : State) (o : OpLR) (fail : Nat → State → State) (spawn : Bool)
    (f : Nat → Nat → List Nat → List Word → State → State) : State :=
  s.chkG 6 (s.rdG o.a) fun s =>
    s.checked 6 (s.recordAt (s.rdG o.a).val.toNat) fun a =>
      match a.pa with
      | none => fail 3 s
      | some pa =>
        let (w, s) := s.recWords pa (s.slotOf s.iss.cx)
        match w with
        | none => fail 3 s
        | some w =>
          if bits (w.getD 1 0) 63 52 ≠ s.jobOf s.iss.cx then fail 1 s
          else
            let die := dieOf s.iss.cx
            let (j, s) := s.jobRec die (bits (w.getD 1 0) 63 52)
            match j with
            | none => fail 2 s
            | some j =>
              if recOk w (readableIn s.cur.runs) (s.boot.savesz.toNat * 0x100000) && (!spawn || recIdle w) then f pa a.va w j s
              else fail 2 s

def execTaskSpawn (o : OpLR) (s : State) : Out :=
  guarded o.p (fun s => s.taskOperand o (fun v s => s.status o.d v) true fun pa va w j s =>
    (s.accept (dieOf s.iss.cx) pa va w j none).status o.d 0) s

def execTaskSig (o : OpLR) (s : State) : Out :=
  guarded o.p (fun s => s.taskOperand o (fun v s => s.status o.d (2 ^ 64 - v)) false fun pa va w j s =>
    let (dep, s) := s.depDown pa va w j
    s.status o.d dep) s

/-- A task that is neither idle nor ended uses an ASN, or its job's record names it (R194). -/
def State.asnBusy (s : State) (a : Nat) : Bool :=
  s.tasks.any fun t => t.2.state != .idle && t.2.state != .ended &&
    (t.2.asn == a || ((s.jobRec t.2.die t.2.job).1.map jobAsn) == some a)

/-- STATE of an ASN table entry written. -/
def State.setAsn (s : State) (a st : Nat) : State :=
  let pa := s.boot.asntab + 16 * a
  s.schedWord pa (setField (Memory.word s.mem pa) 62 2 st)

def execAsnRetire (o : OpLR) (s : State) : Out :=
  guarded o.p (fun s =>
    let a := (s.rdG o.a).val.toNat % 65536
    let right := match s.taskOf s.iss.cx with
      | none => false
      | some t => bit (t.jw 0) 57
    if !right then s.status o.d 1
    else if s.asnBusy a then s.status o.d 2
    else
      let (t, s) := s.landing Config.unitDelay
      (if (s.asnEntry a).1 = 2 then s else s.setAsn a 2).pendKind o.d (.sweep a t)) s

/-- An interlocked result written: its register, and its latch in the same group, unless one issued later has written it in this
cycle of the core. What it wrote is noted, against older results that come due in the cycle (R87), and it ends the core's gating
(R274). -/
def State.landIn (s : State) (cx : Nat) (p : Pend) (v : BitVec 1024) (res : BitVec 128) : State :=
  (s.ungate (coreOf cx)).updCtx cx fun c =>
    let g : GVal := ⟨v.setWidth 64, res.setWidth 4⟩
    let w : VVal := ⟨v, res⟩
    let st := { c.st with pend := c.st.pend.filter fun q => q.id != p.id }
    let lost := c.landRegs.any fun l => some l.1 == p.reg && decide (p.id < l.2)
    { c with
      st := match p.reg with
        | some (.g n) => if lost then st else st.putG n g
        | some (.v n) => if lost then st else st.putV n w
        | some (.k _) | none => st
      x := match p.latch with
        | some n =>
          if c.landLatches.any fun l => l.1 == n && decide (p.id < l.2) then c.x
          else FMap.put c.x n (if p.vec then latchV w else latchG g)
        | none => c.x
      landRegs := match p.reg with
        | some r => (r, p.id) :: c.landRegs
        | none => c.landRegs
      landLatches := match p.latch with
        | some n => (n, p.id) :: c.landLatches
        | none => c.landLatches }

/-- An interlocked scalar result delivered by an agent other than a timer. -/
def State.landG (s : State) (cx id : Nat) (v : GVal) : State :=
  match (s.ctx cx).st.pend.find? fun p => p.id == id with
  | none => s
  | some p => s.landIn cx p (v.val.setWidth 1024) (v.res.setWidth 128)

/-- ASN_SWEEP_END: the entries of an ASN are gone from every die, it is FREE, and every `asn.retire` of it returns 0
(R301). -/
def execAsnSweepEnd (asn : Nat) (s : State) : Out :=
  .next (
    let hit (a : Nat) (va : Nat) : Bool := a == asn || (asn == 0 && bit va 55)
    let s : State := { s with dies := s.dies.map fun (d : Nat × Die) =>
      (d.1, { d.2 with tlb := d.2.tlb.filter fun e => !hit e.1 e.2.va, walks := d.2.walks.filter fun e => !hit e.1 (e.2.2.1 * 2 ^ (12 + 9 * e.2.1))
                       btb := d.2.btb.filter fun e => !hit e.asn e.leaf.va }) }
    let s := s.setAsn asn 0
    s.ctxs.foldl (fun s e => e.2.st.pend.foldl (fun s p =>
      match p.kind with
      | .sweep a _ => if a = asn then s.landG e.1 p.id (fresh 0) else s
      | _ => s) s) s)

/-! ## The end of a `pagein` walk (R173, R300) -/

/-- A run split around the page that a leaf maps. -/
def splitRun (r : Run) (l : Leaf) : List Run :=
  let a := max r.va l.va
  let b := min (r.va + r.size) (l.va + l.size)
  let perm := (if r.r then 4 else 0) + (if r.w then 2 else 0) + (if r.x then 1 else 0)
  let parts : List Run := [{ r with size := a - r.va }, { runOf l a (b - a) perm with drops := r.drops },
    { r with va := b, size := r.va + r.size - b }]
  parts.filter fun p => p.size != 0

/-- A page request posted to the job's supervisor (R307, KIND PAGE). -/
def State.pageRequest (s : State) (cx va reason : Nat) : State :=
  match (s.ctx cx).task.bind fun k => (FMap.find s.tasks k).map fun t => (k, t) with
  | none => s
  | some (k, t) =>
    s.postRecord t.job
      (FaultRecord.shows
        { kind := 2, cause := 0, slot := 0, len := 0, member := (s.ctx cx).st.ctl.member.toNat, task := k, record := t.va
          addr := va, data := reason, bundle := 0, tick := s.clock.toNat, place := s.placeWord cx } (s.ctx cx).st.ctl)

/-- PAGEIN_WALK_END: the walk of a `pagein` ends. -/
def execPageinWalkEnd (cx id : Nat) (s : State) : Out :=
  .next (
    match (s.ctx cx).st.pend.find? fun p => p.id == id with
    | none => s
    | some p =>
      match p.kind with
      | .walk va _ =>
        match findRun (s.ctx cx).runs va with
        | none => s
        | some (i, r) =>
          let clear (rs : List Run) : List Run := rs.modify i fun r => { r with drops := 0 }
          let s := s.updCtx cx fun c => { c with runs := clear c.runs }
          let answer (bitsLow : Nat) (s : State) : State := s.landG cx id (freshN (r.drops * 65536 + bitsLow))
          if r.resident then answer 1 s
          else
            let (l, s) := s.translate (dieOf cx) (s.asnOf cx) va
            match l with
            | none => answer 2 (s.pageRequest cx va 3)
            | some l =>
              let rs := (s.ctx cx).runs
              let rs' := rs.take i ++ splitRun { r with drops := 0 } l ++ rs.drop (i + 1)
              if 64 < rs'.length then answer 2 (s.pageRequest cx va 2)
              else answer 1 (s.updCtx cx fun c => { c with runs := rs' })
      | _ => s)

end Sys2Proof.Machine
end

