-- ==== Sys2Proof/Machine/Slots.lean ====
section
/-!
DEFINITION. Slots: running a decoded word of slot L and of any slot, its predicate, and the registers and latches that it
names (R201).
-/
namespace Sys2Proof.Machine

/-- The effect of a word of slot L. -/
def LWord.run (w : LWord) (s : State) : Out :=
  match w with
  | .lnop o => execLnop o s
  | .br o => execBr o s
  | .call o => execCall o s
  | .jmp o => execJmp o s
  | .callR o => execCallR o s
  | .loop o => execLoop o s
  | .loopMod o => execLoopMod o s
  | .sleepDue o => execSleepDue o s
  | .sleepN o => execSleepN o s
  | .fuse o => execFuse o s
  | .decouple o => execDecouple o s
  | .rejoin o => execRejoin o s
  | .brk o => execBrk o s
  | .sys o => execSys o s
  | .eret o => execEret o s
  | .taskSpawn o => execTaskSpawn o s
  | .taskSig o => execTaskSig o s
  | .taskYield o => execTaskYield o s
  | .taskEnd o => execTaskEnd o s
  | .crewSync o => execCrewSync o s
  | .asnRetire o => execAsnRetire o s
  | .fenceQ o => execFenceQ o s
  | .fencePeer o => execFencePeer o s
  | .fenceHost o => execFenceHost o s
  | .lnsTmpl o => execLnsTmpl o s
  | .lnsLvl o => execLnsLvl o s
  | .lnsRun o => execLnsRun o s
  | .lnsResume o => execLnsResume o s
  | .lnsAbort o => execLnsAbort o s

/-- The predicate of a word of slot L. -/
def LWord.pred : LWord → Pred
  | .lnop o | .sleepDue o | .fuse o | .decouple o | .rejoin o | .eret o | .taskYield o | .taskEnd o | .crewSync o
    | .fencePeer o | .fenceHost o | .lnsRun o | .lnsAbort o => o.p
  | .br o | .call o | .loop o | .loopMod o => o.p
  | .jmp o | .callR o | .sleepN o | .taskSpawn o | .taskSig o | .asnRetire o | .lnsTmpl o | .lnsLvl o | .lnsResume o
    => o.p
  | .brk o | .sys o | .fenceQ o => o.p

/-- The registers and latches that a word of slot L names. `pair` is the pair that the loaded templates name, which
`lns.run` reads (R250). -/
def LWord.uses (pair : Option Nat) : LWord → List Use
  | .lnop _ | .br _ => []
  | .call _ => [.reg (.g 31)]
  | .jmp o => useG o.a
  | .callR o => useG o.a ++ [.reg (.g 31)]
  | .loop _ | .loopMod _ | .sleepDue _ => []
  | .sleepN o => useG o.a
  | .fuse _ | .decouple _ | .rejoin _ | .brk _ | .sys _ | .eret _ => []
  | .taskSpawn o | .taskSig o => useD .g o.d ++ useG o.a ++ useG o.b
  | .taskYield _ | .taskEnd _ | .crewSync _ => []
  | .asnRetire o => useD .g o.d ++ useG o.a ++ useG o.b
  | .fenceQ _ | .fencePeer _ | .fenceHost _ => []
  | .lnsTmpl o | .lnsLvl o => useD .g o.d ++ useG o.a ++ useG o.b
  | .lnsRun _ => match pair with
    | none => []
    | some r => [.reg (.g r), .reg (.g (r + 1))]
  | .lnsResume o => useD .g o.d ++ useG o.a ++ useG o.b
  | .lnsAbort _ => []

/-! ## Any slot -/

/-- The effect of a slot word. -/
def SlotWord.run (w : SlotWord) (s : State) : Out :=
  match w with
  | .s w => SWord.run w s
  | .v w => VWord.run w s
  | .m w => MWord.run w s
  | .c w => CWord.run w s
  | .l w => LWord.run w s

/-- The predicate of a slot word. -/
def SlotWord.pred : SlotWord → Pred
  | .s w => SWord.pred w
  | .v w => VWord.pred w
  | .m w => MWord.pred w
  | .c w => CWord.pred w
  | .l w => LWord.pred w

/-- The registers and latches that a slot word names. -/
def SlotWord.uses (pair : Option Nat) : SlotWord → List Use
  | .s w => SWord.uses w
  | .v w => VWord.uses w
  | .m w => MWord.uses w
  | .c w => CWord.uses w
  | .l w => LWord.uses pair w

/-- A form that holds (R174). -/
def Form.holds : Form → Bool
  | .wait | .take | .fill => true
  | .plain | .force => false

/-- A word that makes its bundle a holding bundle (R175). -/
def SlotWord.isHolding : SlotWord → Bool
  | .s (.ldLoc o) | .s (.stLoc o) | .s (.ldClu o) | .s (.stClu o) | .s (.ldDev o) | .s (.stDev o) => Form.holds o.form
  | .s (.barWait _) => true
  | .l (.crewSync _) | .l (.taskEnd _) | .l (.fencePeer _) | .l (.fenceHost _) => true
  | .l (.fenceQ o) => o.imm != 0
  | _ => false

/-- A full/empty form, which competes at its word's home with those that wait there (R177). -/
def SlotWord.asksHome : SlotWord → Bool
  | .s (.ldLoc o) | .s (.stLoc o) | .s (.ldClu o) | .s (.stClu o) | .s (.ldDev o) | .s (.stDev o) => o.form != .plain
  | _ => false

/-- The destination of a word that acts after every earlier PEER access of its strand has been performed (R192, R333). -/
def SlotWord.afterPeer : SlotWord → Option Dst
  | .c (.pfxHash o) | .c (.pfxLook o) | .c (.pfxCmp o) | .c (.pfxIns o) | .c (.pfxPin o) | .c (.pfxUnpin o) => some o.d
  | .l (.taskSpawn o) | .l (.taskSig o) => some o.d
  | _ => none

/-- The words of a bundle that decode. -/
def Bundle.words (b : Bundle) : List SlotWord := b.slots.filterMap fun x => x.2.2.toOption

/-- A word whose result reads memory for the prefix table and changes nothing there (R256 to R258, R358). -/
def SlotWord.readsTable : SlotWord → Bool
  | .c (.pfxHash _) | .c (.pfxLook _) | .c (.pfxCmp _) => true
  | _ => false

/-- A word that passes a beat through the lattice. -/
def SlotWord.isBeat : SlotWord → Bool
  | .m (.mnop _) => false
  | .m _ => true
  | _ => false

/-- A `div` or `rem` (R134). -/
def SlotWord.divides : SlotWord → Bool
  | .s (.divS64 _) | .s (.divZ64 _) | .s (.remS64 _) | .s (.remZ64 _) => true
  | .s (.divS64Imm _) | .s (.divZ64Imm _) | .s (.remS64Imm _) | .s (.remZ64Imm _) => true
  | _ => false

/-- The tile that a word names is one that the strand has declared (R98). -/
def SlotWord.tileOk (tiles : Nat) : SlotWord → Bool
  | .m w => (MWord.tile w).all fun t => decide (t < tiles)
  | _ => true

end Sys2Proof.Machine
end

