-- ==== Sys2Proof/Machine/Engine.lean ====
section
/-!
DEFINITION. Engine: commands, sectors and interlocked results as they land (R183 to R187, R201, R321),
and the events of results in flight (R134, R234, R267, R270).
-/
namespace Sys2Proof.Machine

/-! ## Commands (R321) -/

/-- A command's last write performed and its last sector settled: the command leaves its queue, and its event bit is
set. -/
def State.endCmd (s : State) (c : Cmd) : State :=
  let s := if c.code = 0 then s else s.settle c.barrier c.sectors c.code
  let s : State := { s with cmds := s.cmds.filter fun k => k.id != c.id }
  match c.evt with
  | none => s
  | some n => s.setEvt c.cx n

/-- A command performed; none where it waits for its partners or for a free counter. -/
def State.performCmd (s : State) (c : Cmd) : Option State :=
  match c.kind with
  | .move zeros pieces fe => some (s.performMove c zeros pieces fe)
  | .gather rows hd efmt _ ty => some (s.performGather c rows hd efmt ty)
  | .drain rows ty add lost => some (s.performDrain c rows ty add lost)
  | .reduce ty row line flag cnt => s.performReduce c ty row line flag cnt
  | .rotate _ _ _ _ => none
  | .settle => some s

/-- The first command of a queue of the context's core, if the context issued it. -/
def State.headOf (s : State) (cx queue : Nat) : Option Cmd := (s.headCmd (coreOf cx) queue).filter fun c => c.cx == cx

/-- No PEER request of a command is without an answer. -/
def State.answered (s : State) (c : Cmd) : Bool := !(s.outReqs.any fun r => r.cmd == some c.id)

/-- COMMAND_COMPLETE: the first command of a queue is performed, if the context issued it; once it has been performed and its PEER
requests have been answered, it completes. -/
def execCommandComplete (cx queue : Nat) (s : State) : Out :=
  .next (
    match s.headOf cx queue with
    | none => s
    | some c =>
      if c.started then (if s.answered c then s.endCmd c else s)
      else ((s.performCmd c).map fun s => s.updCmd c.id fun c => { c with started := true }).getD s)

/-- RED_ADD_CONTRIBUTION: the contribution that heads the context's reduce queue is performed at its home (R187). -/
def execRedAddContribution (cx : Nat) (s : State) : Out :=
  .next (
    match s.headOf cx 4 with
    | none => s
    | some c =>
      match c.kind with
      | .reduce ty row line flag cnt =>
        if c.started then s
        else ((s.performReduce c ty row line flag cnt).map fun s =>
          s.updCmd c.id fun c => { c with kind := .settle, sectors := 0, started := true }).getD s
      | _ => s)

/-- SECTOR_LAND: a sector lands, on the barrier in a slot of a core's physical row (R183). -/
def execSectorLand (core row slot : Nat) (s : State) : Out :=
  .next (s.settle (some (locKey core row (16 * (slot % 8)))) 1 0)
/-- SECTOR_SETTLE_ERROR: a sector is settled in error (R389). -/
def execSectorSettleError (core row slot : Nat) (code : Byte) (s : State) : Out :=
  .next (s.settle (some (locKey core row (16 * (slot % 8)))) 1 code.toNat)

/-! ## Interlocked results (R201, R271) -/

/-- Fresh residues of a value that lands. -/
def landRes (vec : Bool) (v : BitVec 1024) : BitVec 128 :=
  if vec then laneResid v.toNat else (resid (v.toNat % 2 ^ 64)).setWidth 128

/-- The answer of a PEER request lands in its register. -/
def State.landPeer (s : State) (cx id : Nat) (v : BitVec 1024) : State :=
  match (s.ctx cx).st.pend.find? fun p => p.id == id with
  | none => s
  | some p => s.landIn cx p v (landRes p.vec v)

/-- A word's action that had to follow PEER accesses of its bundle, on the operands that it read, once they have been performed: its
result takes the place of the one that waited for it. The checks passed when the bundle issued (R192, R333; assumption 87). -/
def State.runLater (s : State) (cx : Nat) (p : Pend) (bytes : List Byte) (word : Nat) (g : FMap GVal) (x : FMap Latch)
    (q : BitVec 8) : State :=
  let c := s.ctx cx
  let s := s.updCtx cx fun c => { c with st := { c.st with pend := c.st.pend.filter fun r => r.id != p.id } }
  let own (t : State) : State := t.updCtx cx fun d => { d with x := c.x, st := { d.st with g := c.st.g, q := c.st.q } }
  let zero : State := s.updCtx cx fun d => { d with st := { d.st with
    pend := d.st.pend ++ [{ p with kind := .value 0 0 s.clock.toNat }] } }
  match (decodeBundle bytes).bind fun b => (Bundle.words b)[word]? with
  | none => zero
  | some w =>
    let shown := { s.updCtx cx fun d => { d with x := x, st := { d.st with g := g, q := q } } with iss := { cx := cx, pc := c.st.pc } }
    let ran := stateOf shown (SlotWord.run w shown)
    if ran.iss.faulted.isSome then zero
    else
      let t := (own ran.applyHw).updCtx cx fun d => { d with st := { d.st with
        pend := d.st.pend.modifyLast fun r => { r with id := p.id, reg := p.reg, latch := p.latch } } }
      { t with iss := s.iss }

/-- INTERLOCKED_RESULT_LAND: a result whose tick or cycle has come, or a PEER answer `v`, lands. Walks and sweeps end by events of
their own. -/
def execInterlockedResultLand (cx id : Nat) (v : BitVec 1024) (s : State) : Out :=
  .next (
    match (s.ctx cx).st.pend.find? fun p => p.id == id with
    | none => s
    | some p =>
      match p.kind with
      | .value w r t => if t ≤ s.clock.toNat then s.landIn cx p w (BitVec.ofNat 128 r) else s
      | .cycles w r n => if n = 0 then s.landIn cx p w (BitVec.ofNat 128 r) else s
      | .peer _ => s.landIn cx p v (landRes p.vec v)
      | .later bs w g x q => s.runLater cx p bs w g x q
      | .walk _ _ | .sweep _ _ => s)

/-- A cycle of the core passes for the results that wait for cycles of it: their counts fall, and those that have come land
(R271). -/
def Pend.tick (p : Pend) : Pend :=
  match p.kind with
  | .cycles v r n => { p with kind := .cycles v r (n - 1) }
  | _ => p
def State.landCycles (s : State) (cx : Nat) : State :=
  let s := s.updCtx cx fun c => { c with st := { c.st with pend := c.st.pend.map Pend.tick } }
  (s.ctx cx).st.pend.foldl (fun s p =>
    match p.kind with
    | .cycles v r 0 => s.landIn cx p v (BitVec.ofNat 128 r)
    | _ => s) s

/-! ## Results in flight (R266 to R270) -/

/-- RESULT_READABLE: every due result of a context is written into its register and latch. -/
def execResultReadable (cx : Nat) (s : State) : Out := .next (s.deliverWhere cx (Flight.due s.clock.toNat))

/-- The late loads of a context that `f` picks. -/
def State.lateLoads (s : State) (cx : Nat) (f : Flight → Bool) : Nat :=
  ((s.ctx cx).st.flight.filter fun e => f e && e.late s.clock.toNat).length

/-- Missed promises noted, each once: MISS, and one miss a load (R270). -/
def State.promiseMissed (s : State) (cx : Nat) (f : Flight → Bool) : State :=
  let n := s.lateLoads cx fun e => f e && !e.missed
  if n = 0 then s
  else
    ((s.updCtx cx fun c => { c with st := { c.st with
      flight := c.st.flight.map fun e => if f e && e.late s.clock.toNat then { e with missed := true } else e } }).noteMstat cx
      fMISS).count cx .miss n

/-- PROMISE_STALL. -/
def execPromiseStall (cx : Nat) (s : State) : Out := .next (s.promiseMissed cx fun _ => true)

/-- PROMISED_DATA_LAND: the data of the entry at a place of the in-flight table lands, which ends the gating of the core where the context
stalls for it: its missed promise has been noted (R270, R274). -/
def execPromisedDataLand (cx id : Nat) (s : State) : Out :=
  let stalls := ((s.ctx cx).st.flight[id]?.map Flight.missed).getD false
  .next ((if stalls then s.ungate (coreOf cx) else s).updCtx cx fun c => { c with st := { c.st with
    flight := c.st.flight.modify id fun e => { e with lands := e.lands.map fun t => min t s.clock.toNat } } })

/-- DIVIDER_FREE: the divider's last cycle ends (R134). -/
def execDividerFree (core : Nat) (s : State) : Out :=
  .next (s.updCore core fun k => { k with divBusy := if k.divBusy ≤ 1 then 0 else k.divBusy })

/-- MKAT_COMPARE_END: a known-answer compare at its end is taken from the table (R234). -/
def execMkatCompareEnd (cx : Nat) (s : State) : Out :=
  .next (s.deliverWhere cx fun e => e.left == 0 &&
    match e.op with
    | .mkat _ _ => true
    | _ => false)

end Sys2Proof.Machine
end

