-- ==== Sys2Proof/Machine/Issue.lean ====
section
/-!
DEFINITION. Issue: fetch (R104, R272), traps at a bundle boundary (R91, R234, R346), one bundle (R94 to R108, R201), and held
bundles with their accesses (R175 to R177, R184).
-/
namespace Sys2Proof.Machine

/-! ## Fetch (R104, R272) -/

/-- Why a code byte cannot be fetched: its page was not resident at dispatch, or it may not be executed. A byte of a run that was not
resident and whose extent lacks `x` besides is reported as FETCH_NR (assumption 51). -/
def State.byteFault (s : State) (cx a : Nat) : Option Cause :=
  match findRun (s.ctx cx).runs a with
  | none => some .fetchProt
  | some (_, r) =>
    let pa := r.pa + (a - r.va)
    if !r.resident then some .fetchNr
    else if !r.x || r.isSealed || s.sealTag pa != 0 || r.co || s.unreadable (dieOf cx) pa 1 then some .fetchProt
    else none

/-- An uncorrectable error that keeps a code byte from being fetched, counted (R392). -/
def State.fetchMet (s : State) (cx a : Nat) : State :=
  match findRun (s.ctx cx).runs a with
  | none => s
  | some (_, r) =>
    let pa := r.pa + (a - r.va)
    if r.resident && r.x && !r.isSealed && s.sealTag pa == 0 && !r.co && s.unreadable (dieOf cx) pa 1 then
      s.readMet (dieOf cx) pa 1 (s.slotOf cx) else s

/-- The lowest of `n` bytes that cannot be fetched, with its cause. -/
def State.fetchFault (s : State) (cx a : Nat) : Nat → Option (Nat × Cause)
  | 0 => none
  | n + 1 =>
    match s.byteFault cx a with
    | some c => some (a, c)
    | none => s.fetchFault cx (a + 1) n

/-- The fetch buffer holds `n` bytes from `a`. -/
def Ctx.holds (c : Ctx) (a n : Nat) : Bool := decide (c.fetchBase ≤ a) && decide (a + n ≤ c.fetchBase + c.fetchBuf.length)
/-- Bytes of the fetch buffer. -/
def Ctx.fetched (c : Ctx) (a n : Nat) : List Byte := (c.fetchBuf.drop (a - c.fetchBase)).take n

/-- What a fetch of the next bundle comes to. -/
inductive Fetched where
  | fault (cause : Cause) (addr len : Nat)
  | miss
  | bytes (bs : List Byte)

/-- The bytes of the bundle at PC. -/
def State.fetch (s : State) (cx : Nat) : Fetched :=
  let c := s.ctx cx
  let pc := c.st.pc.toNat
  match s.fetchFault cx pc 4 with
  | some (a, k) => .fault k a 0
  | none =>
    if !c.holds pc 4 then .miss
    else
      let n := (Header.ofWord (BitVec.ofNat 32 (leValue (c.fetched pc 4)))).length
      match s.fetchFault cx (pc + 4) (n - 4) with
      | some (a, k) => .fault k a n
      | none => if c.holds pc n then .bytes (c.fetched pc n) else .miss

/-- The buffer without the lines before PC, or empty at PC's line. -/
def Ctx.trim (c : Ctx) : Ctx :=
  let pc := c.st.pc.toNat
  if c.fetchBase ≤ pc ∧ pc < c.fetchBase + c.fetchBuf.length then
    let k := (pc - c.fetchBase) / 64 * 64
    { c with fetchBase := c.fetchBase + k, fetchBuf := c.fetchBuf.drop k }
  else if c.fetchBuf = [] ∧ c.fetchBase = pc / 64 * 64 then c
  else { c with fetchBase := pc / 64 * 64, fetchBuf := [], fetchAt := none }

/-- The next line asked of the cache. Of a strand that has not issued since it was bound it comes within 450 ticks, so that the promise
of R313 holds (assumption 78). -/
def State.askLine (s : State) (cx : Nat) : State :=
  if (s.ctx cx).fetchAt.isSome then s
  else
    let (f, s) := s.drawFree
    s.updCtx cx fun c => { c with fetchAt := some (s.clock.toNat +
      if c.cyc = 0 then Config.fetchDelay f % 450 else Config.fetchDelay f) }

/-- Filling ahead: PC's line, and the line after it where it lies in the same run (R272). -/
def State.fillAhead (s : State) (cx : Nat) : State :=
  let s := s.updCtx cx Ctx.trim
  let c := s.ctx cx
  let next := c.fetchBase + c.fetchBuf.length
  if c.st.mode == .frozen || c.st.mode == .ended || 64 < c.fetchBuf.length then s
  else if c.fetchBuf.isEmpty ||
      (findRun c.runs c.st.pc.toNat).map (·.1) == (findRun c.runs next).map (·.1) then
    if (s.byteFault cx (if c.fetchBuf.isEmpty then c.st.pc.toNat else next)).isNone then s.askLine cx else s
  else s

/-- The context cannot issue for want of a line of its code (R269). -/
def State.wantsLine (s : State) (cx : Nat) : Bool :=
  let c := s.ctx cx
  c.st.mode == .run && c.st.owed == 0 &&
  match s.fetch cx with
  | .miss => true
  | .fault _ _ _ | .bytes _ => false

/-- FETCH_LINE_ARRIVE: the line that was asked for enters the buffer, as its home holds it now. A context that could not issue for
want of it ends its core's gating (R274). -/
def execFetchLineArrive (cx : Nat) (s : State) : Out :=
  .next (
    let c := s.ctx cx
    match c.fetchAt with
    | none => s
    | some _ =>
      let a := c.fetchBase + c.fetchBuf.length
      let bs := match findRun c.runs a with
        | none => []
        | some (_, r) => if r.resident then s.peek (r.pa + (a - r.va)) 64 else []
      (if s.wantsLine cx then s.ungate (coreOf cx) else s).updCtx cx fun c =>
        { c with fetchBuf := (c.fetchBuf ++ bs).take 128, fetchAt := none })

/-! ## What waits at a bundle boundary (R91, R105, R234) -/

/-- The context stands at a bundle boundary at which it may take a trap. -/
def Ctx.atBundle (c : Ctx) : Bool :=
  c.task.isSome && c.st.owed == 0 && (c.st.mode == .run || c.st.mode == .wait) && !c.freeze && !c.dormant && !c.dawnHeld

/-- TIMER is pending (R91). -/
def State.timerPending (s : State) (cx : Nat) : Bool :=
  let a := (s.ctx cx).st.ctl.alarm
  a != 0 && decide (a.toNat ≤ s.clock.toNat)

/-- TIMER_PENDING: a context in an unsatisfied wait becomes eligible (R274). -/
def execTimerPending (cx : Nat) (s : State) : Out :=
  .next (
    if s.timerPending cx && (s.ctx cx).st.mode == .wait then
      (s.ungate (coreOf cx)).updCtx cx fun c => { c with st := { c.st with mode := .run } }
    else s)

/-- TIMER: a pending TIMER is taken, unless the strand is in its handler (R91, R107). -/
def execTimer (cx : Nat) (s : State) : Out :=
  .next (
    let c := s.ctx cx
    if c.atBundle && s.timerPending cx && !c.st.ctl.intrap then
      let s := s.updCtx cx fun c => { c with st := { c.st with ctl := { c.st.ctl with alarm := 0 } } }
      s.takeFault cx { cause := .timer, slot := 7, data := s.clock.toNat, pc := c.st.pc, len := s.lenAt cx c.st.pc.toNat }
    else s)

/-- A pending KAT_MISMATCH taken at a bundle boundary (R234). -/
def State.katTrap (s : State) (cx : Nat) : State :=
  let c := s.ctx cx
  match c.st.kat with
  | none => s
  | some chk =>
    (s.updCtx cx fun c => { c with st := { c.st with kat := none } }).takeFault cx
      { cause := .katMismatch, slot := 3, data := chk.toNat, pc := c.st.pc, len := s.lenAt cx c.st.pc.toNat }

/-- KAT_MISMATCH (R234). -/
def execKatMismatch (cx : Nat) (s : State) : Out := .next (if (s.ctx cx).atBundle then s.katTrap cx else s)

/-- Known-answer beats whose compare ends in the cycle that would come next. -/
def Flight.katNext (e : Flight) : Bool :=
  decide (e.left ≤ 1) && (match e.op with
    | .mkat _ _ => true
    | _ => false)

/-- The compares that end in the cycle that would come next, ended at the boundary before it (R234). -/
def State.katsEnd (s : State) (cx : Nat) : State := s.deliverWhere cx Flight.katNext

/-- A template fault that is pending on its owner can be taken: at a bundle boundary, from a hold whose access has not been
performed, at the wake from a sleep (R252, R346), or while the owner waits to enter lock-step. -/
def State.lnsFaultDue (s : State) (cx : Nat) : Bool :=
  let c := s.ctx cx
  c.task.isSome && c.st.lnsFault.isSome && !c.freeze && !c.dormant && !c.dawnHeld &&
  match c.st.mode with
  | .run | .wait => c.st.owed == 0
  | .hold => (c.hold.bind Hold.got).isNone
  | .sleep t _ => decide (t ≤ s.clock.toNat)
  | .fuseWait => true
  | .frozen | .ended => false

/-- LNS_FAULT_TAKEN: a pending template fault is taken; it names the bundle that would have issued next (R252, R346). -/
def execLnsFaultTaken (cx : Nat) (s : State) : Out :=
  .next (
    match (s.ctx cx).st.lnsFault with
    | none => s
    | some f =>
      if !s.lnsFaultDue cx then s
      else
        let pc := (s.ctx cx).st.pc
        let s := s.updCtx cx fun c => { c with st := { c.st with lnsFault := none } }
        s.takeFault cx { f with pc := pc, len := s.lenAt cx pc.toNat })

/-- FETCH_FAULT: the bundle at PC comes to issue and cannot be fetched (R104). -/
def execFetchFault (cx : Nat) (s : State) : Out :=
  .next (
    let c := s.ctx cx
    match s.fetch cx with
    | .fault k a n =>
      if c.atBundle then (s.fetchMet cx a).takeFault cx { cause := k, slot := 7, addr := a, pc := c.st.pc, len := n } else s
    | _ => s)

/-! ## Waits (R102) -/

/-- The flag that a wait names. -/
def waitHolds (mode : Nat) (flag : BitVec 6) (flags : Word) : Bool :=
  let f := flags.getLsbD flag.toNat
  match mode with
  | 0 => f
  | 1 => !f
  | _ => f || flags.getLsbD 38

/-- The test of a wait bundle. -/
def State.waitTest (s : State) (mode : Nat) (flag : BitVec 6) : State :=
  if waitHolds mode flag (s.flagsOf s.iss.cx) then s else s.updIss fun i => { i with unsatisfied := true }

def execWaitSet (fold wflag : BitVec 6) (s : State) : Out :=
  .next ((s.updIss fun i => { i with fold := fold.toNat }).waitTest 0 wflag)
def execWaitClr (fold wflag : BitVec 6) (s : State) : Out :=
  .next ((s.updIss fun i => { i with fold := fold.toNat }).waitTest 1 wflag)
def execWaitDue (fold wflag : BitVec 6) (s : State) : Out :=
  .next ((s.updIss fun i => { i with fold := fold.toNat }).waitTest 2 wflag)
/-- A bundle of empty cycles: no slot executes (R100). -/
def execEmptyBundle (fold : BitVec 6) (stop : Bool) (s : State) : Out :=
  .next (s.updIss fun i => { i with fold := fold.toNat, stop := stop })

/-- The wait that a header stands for. -/
def Header.run (h : Header) (s : State) : Out :=
  match h.wmode.toNat with
  | 0 => execWaitSet h.fold h.wflag s
  | 1 => execWaitClr h.fold h.wflag s
  | _ => execWaitDue h.fold h.wflag s

/-- A waiting context whose flags have changed is eligible again (R102). -/
def State.flagWake (s : State) (cx : Nat) : State :=
  let c := s.ctx cx
  if c.st.mode == .wait && !c.freeze && s.flagsOf cx != c.waitFlags then
    (s.ungate (coreOf cx)).updCtx cx fun c => { c with st := { c.st with mode := .run } }
  else s

/-- FLAGS_DUE_RISE: `%flags`.DUE has become 1. -/
def execFlagsDueRise (cx : Nat) (s : State) : Out := .next (s.flagWake cx)

/-! ## The slots of a bundle -/

/-- A word whose action has to follow a PEER access of its own bundle: its result waits, and its action with it (R192, R333). -/
def State.defer (s : State) (bytes : List Byte) (word : Nat) (d : Dst) : State :=
  let (id, s) := s.newId
  s.updSt fun st => { st with pend := st.pend ++
    [{ id := id, reg := if d.latchOnly then none else some (.g d.n.toNat), latch := some (d.n.toNat % 16),
       kind := .later bytes word st.g s.cur.x st.q }] }

/-- What a read of the prefix table needs to be made again, should power fail before its result lands (R358). -/
def State.noteRedo (s0 s1 : State) (bytes : List Byte) (word : Nat) : State :=
  let st := s0.cur.st
  if s1.cur.st.pend.length ≤ st.pend.length then s1
  else
    s1.updSt fun x => { x with pend := x.pend.modifyLast fun p =>
      { p with again := some { places := [], how := 8, redo := some { bytes, word, g := st.g, x := s0.cur.x, q := st.q } } } }

/-- A slot word run, at its place among the words of its bundle. -/
def State.runSlot (s : State) (bytes : List Byte) (w : SlotWord) (word : Nat) : State :=
  let t := stateOf s (SlotWord.run w s)
  match SlotWord.afterPeer w with
  | some d =>
    if Pred.holds (SlotWord.pred w) s.cur.st.q && s.peerBusy s.iss.cx && t.iss.faulted.isNone then s.defer bytes word d
    else if SlotWord.readsTable w then s.noteRedo t bytes word else t
  | none => t

/-- Slot words run in order; the first fault ends it (R106). -/
def runSlots (bytes : List Byte) : List (SlotWord × Nat) → State → State
  | [], s => s
  | (w, i) :: ws, s => if s.iss.faulted.isSome then s else runSlots bytes ws (s.runSlot bytes w i)

/-- Results of templates that are due in this cycle of the core are written (R251). -/
def State.deliverCore (s : State) (cx : Nat) : State := s.deliverWhere cx fun e => e.coreCount && e.due s.clock.toNat

/-- Entries counted in cycles of the context, and not in those of the core as a template's are (R251). -/
def Flight.own (e : Flight) : Bool := !e.coreCount

/-- The counts of a strand's own entries. -/
def Ctx.ownLefts (c : Ctx) : List Nat := (c.st.flight.filter Flight.own).map Flight.left

/-- A template that cannot issue waits as a bundle does: what it awaits of its owner's own entries goes on in real time where the
owner's cycles do not count it down (R251, R269). `before` is the state at the start of the core's cycle. -/
def State.templateStall (s : State) (core cx : Nat) (before : State) : State :=
  let st := (s.ctx cx).st
  let w := (s.lns core).words st.q
  let own := st.flight.filter Flight.own
  if (before.ctx cx).ownLefts != (s.ctx cx).ownLefts then s
  else if (w.m.map MWord.waitsPush).getD false && own.any Flight.isWeight then s.countDown cx fun e => e.own && e.isWeight
  else if s.lnsWaits cx w then s
  else
    let low := own.foldl (fun m e => min m e.left) (2 ^ 32)
    s.countDown cx fun e => e.own && e.left == low

/-- The running sequencer of a core issues its template, after the core's bundle of the cycle, or waits. -/
def State.template (s : State) (core : Nat) (before : State) : State :=
  match s.lnsReady core with
  | none => s
  | some cx => let s := s.deliverCore cx; (s.lnsTry core cx false).getD (s.templateStall core cx before)

/-- The issue registers of a context's bundle. -/
def State.beginBundle (s : State) (cx : Nat) (h : Header) (len : Nat) (held : Option Hold) : State :=
  { s with iss := { cx := cx, pc := (s.ctx cx).st.pc, len := len, fold := h.fold.toNat, stop := h.stop, committed := held } }

/-- The words of a bundle with their places: those that slot S holds, and those after it. -/
def slotS (ws : List SlotWord) : List (SlotWord × Nat) := ws.zipIdx.filter fun w =>
  match w.1 with
  | .s _ => true
  | _ => false
def slotsAfterS (ws : List SlotWord) : List (SlotWord × Nat) := ws.zipIdx.filter fun w =>
  match w.1 with
  | .s _ => false
  | _ => true

/-- The template of a core's sequencer in its place after slot S of a bundle of the strand that owns it (R60, R251). -/
def State.lnsTurn (s : State) (cx : Nat) : State :=
  if s.iss.faulted.isNone && s.lnsReady (coreOf cx) == some cx then (s.lnsTry (coreOf cx) cx true).getD s else s

/-- The slots of a bundle, with the template of the same core's sequencer between them. -/
def State.runBundle (s : State) (bytes : List Byte) (ws : List SlotWord) : State :=
  runSlots bytes (slotsAfterS ws) ((runSlots bytes (slotS ws) s).lnsTurn s.iss.cx)

/-- The program's control writes and then the hardware's, those of results that came due in this cycle included (R87). -/
def State.applyControl (s : State) : State :=
  let keep := if s.cur.evtTick = s.clock.toNat then s.cur.evtNow else 0
  let flags := if s.cur.mstatTick = s.clock.toNat then s.cur.mstatNow else 0
  (s.updCtl fun c => (s.iss.prog.foldl (fun c p => c.writeCR p.1 p.2 keep) c).update (.mstat flags)).applyHw

/-! ## Sleeping and lock-step (R154 to R157) -/

/-- A copy command of the context, promised by `t`, has not landed (R154). -/
def State.missedCopy (s : State) (cx t : Nat) : Bool :=
  s.cmds.any fun c => c.cx == cx && c.isCopy && decide (c.promised ≤ t)

/-- A sleep ends at its tick; after `sleep.due` the copies are checked. -/
def State.wake (s : State) (cx : Nat) : State :=
  let c := s.ctx cx
  match c.st.mode with
  | .sleep t check =>
    if s.clock.toNat < t ∨ c.freeze ∨ c.dormant then s
    else
      let s := (s.ungate (coreOf cx)).updCtx cx fun c => { c with st := { c.st with mode := .run } }
      if check && s.missedCopy cx t then
        s.takeFault cx { cause := .missedPromise, slot := 6, data := t, pc := c.st.pc, len := s.lenAt cx c.st.pc.toNat }
      else s
  | _ => s

/-- SLEEP_WAKE. -/
def execSleepWake (cx : Nat) (s : State) : Out := .next (s.wake cx)

/-- The wired-AND line of a crew: every member has arrived, one of them by an instruction (R157). -/
def State.lineHigh (s : State) (task : Nat) : Bool :=
  let ms := s.members task
  let arrived (cx : Nat) : Bool := let c := s.ctx cx; (c.st.mode == .fuseWait || c.st.ctl.fused) && !c.freeze && !c.dormant && !c.dawnHeld
  !ms.isEmpty && ms.all arrived && ms.any fun cx => (s.ctx cx).st.mode == .fuseWait

/-- FUSE_LINE_RISE: every arrived member enters the fused set, which forms once every core holds. One that is in the set already goes on
with what it does. -/
def State.fuseRise (s : State) (task : Nat) : State :=
  if s.lineHigh task then
    let s := (s.members task).foldl (fun s cx => s.updCtx cx fun c =>
      { c with st := { c.st with mode := if c.st.mode = .fuseWait then .run else c.st.mode, ctl := { c.st.ctl with fused := true } } }) s
    s.updTask task fun t => { t with fuseUp := true }
  else s

def execFuseLineRise (task : Nat) (s : State) : Out := .next (s.fuseRise task)

/-! ## The end of a bundle -/

/-- A group boundary of a context. -/
def State.groupEnd (s : State) (cx : Nat) : State := s.updCtx cx Ctx.boundary

/-- What a bundle asked for, at the end of its last cycle (R101, R154, R155, R157). -/
def State.performAfter (s : State) (cx : Nat) (a : After) : State :=
  let mode (m : Mode) (s : State) : State := s.updCtx cx fun c => { c with st := { c.st with mode := m } }
  match a with
  | .none => s
  | .sleepDue => (mode (.sleep (s.ctx cx).st.ctl.due.toNat true) (s.groupEnd cx)).wake cx
  | .sleepTo t => (mode (.sleep t false) (s.groupEnd cx)).wake cx
  | .fuse =>
    let s := s.groupEnd cx
    if (s.ctx cx).st.ctl.fused then s
    else
      let s := mode .fuseWait s
      match (s.ctx cx).task with
      | none => s
      | some t => s.fuseRise t
  | .decouple =>
    (s.groupEnd cx).updCtx cx fun c => { c with st := { c.st with ctl := { c.st.ctl with fused := false } } }
  | .yield_ => (s.groupEnd cx).yieldTask cx
  | .endStrand => (s.groupEnd cx).strandEnd cx
  | .eret =>
    s.updCtx cx fun c =>
      let b := (Ctx.dropFetch c).boundary
      { b with st := { b.st with pc := b.st.ctl.fbundle &&& ~~~1#56, ctl := { b.st.ctl with intrap := false } } }

/-- What a bundle asked for is done once its empty cycles have run (R101). -/
def State.endAsked (s : State) (cx : Nat) : State :=
  if (s.ctx cx).st.owed ≠ 0 then s
  else (s.updCtx cx fun c => { c with st := { c.st with asked := .none } }).performAfter cx (s.ctx cx).st.asked

/-- A bundle commits: control writes, PC and the empty cycles that follow, its group boundary, and what it asked for (R100,
R101, R103, R151). -/
def State.finish (s : State) (vExec wait : Bool) : State :=
  let i := s.iss
  let cx := i.cx
  let s := s.applyControl
  let s := if i.lreq.or (i.committed.bind Hold.lreq) = some .crewSync then s.syncRelease cx else s
  let s := if vExec then s.count cx .vbund 1 else s
  let s := s.updCtx cx fun c =>
    match i.target with
    | some t => { Ctx.dropFetch c with st := { c.st with pc := t, owed := max i.fold 2 } }
    | none => { c with st := { c.st with pc := c.st.pc + BitVec.ofNat 56 i.len, owed := i.fold } }
  let s := s.updCtx cx fun c =>
    let c := { c with probed := false, probe := none, st := { c.st with barLimit := none } }
    if i.stop || wait then c.boundary else { c with atBoundary := false }
  let s := s.updCtx cx fun c => { c with st := { c.st with asked := i.after } }
  { (s.endAsked cx) with iss := {} }

/-! ## Issuing (R95 to R102, R201, R269) -/

/-- What one cycle of a context comes to. -/
inductive Attempt where
  /-- a context cycle, or a fault taken; whether the core's sequencer has had its turn, and whether a beat has passed the lattice -/
  | used (s : State) (template beat : Bool)
  /-- an unsatisfied wait, or a bundle that holds -/
  | yielded (s : State)
  /-- a stall; whether it may give up the issue width at a group boundary -/
  | stalled (gives : Bool) (s : State)

/-- The first decode fault of a bundle's slots, in slot order (R106). -/
def decodeFault (tiles : Nat) : List (SlotPos × Raw × Except DecErr SlotWord) → Option (Cause × Nat × Nat)
  | [] => none
  | (p, r, w) :: rest =>
    match w with
    | .error .illOp => some (.illOp, p.code, r.op.toNat)
    | .error .illOperand => some (.illOperand, p.code, 0)
    | .ok w => if SlotWord.tileOk tiles w then decodeFault tiles rest else some (.illOperand, p.code, 0)

def SlotWord.isV : SlotWord → Bool
  | .v _ => true
  | _ => false
def SlotWord.isM : SlotWord → Bool
  | .m _ => true
  | _ => false
def SlotWord.isVM (w : SlotWord) : Bool := SlotWord.isV w || SlotWord.isM w
def SlotWord.pushes : SlotWord → Bool
  | .m w => MWord.waitsPush w
  | _ => false
/-- A fence: its bundle's slots take effect only when it is satisfied (R189, R190). -/
def SlotWord.fence : SlotWord → Option HoldL
  | .l (.fenceQ o) => if o.imm = 0 then none else some (.fenceQ o.imm.toNat)
  | .l (.fencePeer _) => some .fencePeer
  | .l (.fenceHost _) => some .fenceHost
  | _ => none
/-- A fence among words that execute is not satisfied. -/
def State.fencedBy (s : State) (cx : Nat) (ws : List SlotWord) : Bool :=
  ws.any fun w => (SlotWord.fence w).any fun l => !s.lReady cx l

/-- A context cycle begins: the counts fall, and results that are due are written in the order of their issue (R87, R266, R267). -/
def State.beginCycle (s : State) (cx : Nat) : State :=
  ((s.updCtx cx fun c => { c with cyc := c.cyc + 1, inStall := false }).tickFlights cx Flight.own).deliverWhere cx
    (Flight.due s.clock.toNat)

/-- A stall of the context's next bundle begins or goes on. -/
def State.inStall (s : State) (cx : Nat) : State := s.updCtx cx fun c => { c with inStall := true }

/-- An empty cycle. -/
def State.emptyCycle (s : State) (cx : Nat) : State :=
  ((s.beginCycle cx).updCtx cx fun c => { c with st := { c.st with owed := c.st.owed - 1 } }).endAsked cx

/-- A fault of a bundle that does not issue. -/
def State.bundleFault (s : State) (cx : Nat) (cause : Cause) (slot addr data len : Nat) : State :=
  s.takeFault cx { cause := cause, slot := slot, addr := addr, data := data, pc := (s.ctx cx).st.pc, len := len }

/-! ## Held accesses at their homes (R175 to R177, R184) -/

/-- A strand with the registers that a held bundle read at its presentation. -/
def Strand.shown (st : Strand) (h : Hold) : Strand := { st with g := h.g, v := h.v, k := h.k, q := h.q }

/-- The slots of a held bundle run on the operands read at presentation, and the template of its core's sequencer, which reads the
strand's own registers, between them. -/
def State.runHeld (s : State) (cx : Nat) (h : Hold) (b : Bundle) : State :=
  let real := (s.ctx cx).st
  let ws := Bundle.words b
  let shown (s : State) : State := s.updCtx cx fun c => { c with st := c.st.shown h }
  let own (s : State) : State := s.updCtx cx fun c => { c with st := { c.st with g := real.g, v := real.v, k := real.k, q := real.q } }
  let s := runSlots h.bytes (slotS ws) ((shown s).beginBundle cx b.head h.bytes.length (some h))
  own (runSlots h.bytes (slotsAfterS ws) (shown ((own s).lnsTurn cx)))

/-- The fault that a slot of a held bundle would raise if the bundle committed now. -/
def State.heldFault (s : State) (cx : Nat) (h : Hold) : Option FaultInfo :=
  (decodeBundle h.bytes).bind fun b => (s.runHeld cx { h with got := some 0 } b).iss.faulted

/-- What the L slot of a hold waits for has come, or its `crew.sync` has been released (R191). -/
def State.holdL (s : State) (cx : Nat) (h : Hold) : Bool := h.synced || h.lreq.all (s.lReady cx)

/-- A held full/empty form can be performed: its word's bit allows it, and what the bundle's L slot waits for has come (R189). -/
def State.formReady (s : State) (cx : Nat) : Bool :=
  let c := s.ctx cx
  c.st.mode == .hold && !c.dawnHeld && c.hold.any fun h => h.got.isNone && s.holdL cx h &&
    match h.req with
    | some (.fe w form _ _ _) => s.feAllows w form
    | some (.bar _ _ _) | none => false

/-- A word's bytes and its bit as they stand. -/
def State.feNow (s : State) (w : Word64) : List Byte × Bool :=
  match w with
  | .loc k => (s.locBytes k 8, inSet s.locFull (k / 8))
  | .dev pa => (s.peek pa 8, inSet s.full (pa / 8))

/-- The condition of a hold's S slot tried at this tick: a full/empty form is performed where its word's bit allows it, and
a barrier wait ends where its phase has passed. In a bundle that holds on its L slot besides, both come once that
condition is met; and where another slot would fault now, that fault ends the hold and the form is not performed (R8, R189;
assumption 80). -/
def State.homeTry (s : State) (cx : Nat) : State :=
  let c := s.ctx cx
  match c.st.mode, c.hold with
  | .hold, some h =>
    if h.got.isSome then s
    else
      let got (h : Hold) (v : Word) (s : State) : State := s.updCtx cx fun c => { c with hold := some { h with got := some v } }
      match h.req with
      | none => s
      | some (.fe w form data _ space) =>
        if s.formReady cx then
          match s.heldFault cx h with
          | some f => { s.takeFault cx f with iss := {} }
          | none =>
            let h := if form = .wait then h else { h with was := some (s.feNow w) }
            let (v, s) := s.fePerform cx w form data
              (if space = 0 then .local_ else if space = 1 then .cluster else .device)
            got h v s
        else s
      | some (.bar k phase _) =>
        if s.holdL cx h ∧ barPhase (s.barNum k) ≠ phase then got h (barStatus (s.barNum k)) s else s
  | _, _ => s

/-- A full/empty form undone, where its word and bit still stand as the form left them: the bundle that asked for it does not commit
(R8; assumption 80). -/
def State.undoForm (s : State) (cx : Nat) (h : Hold) : State :=
  match h.req, h.was with
  | some (.fe w form data _ _), some (old, full) =>
    let store := form != .take
    let now := s.feNow w
    if now.2 = store ∧ (store = true → now.1 = leBytes 8 data.toNat) then
      match w with
      | .loc k => (if store then s.locStore k old else s).setLocFull k full
      | .dev pa => (if store then s.poke (s.slotOf cx) pa old else s).setFull pa full
    else s
  | _, _ => s

/-- The contexts that hold, in the order in which their accesses arrived at their homes. -/
def State.holders (s : State) : List Nat :=
  let hs := s.ctxs.filterMap fun e => if e.2.st.mode == .hold then e.2.hold.map fun h => (e.1, h.presented) else none
  (hs.insertionSort fun a b => a.2 ≤ b.2).map (·.1)

/-- The `crew.sync`s whose members have all come are released (R191). -/
def State.markSyncs (s : State) : State :=
  s.holders.foldl (fun s cx =>
    match (s.ctx cx).hold with
    | some h =>
      if h.lreq = some .crewSync ∧ !h.synced ∧ s.lReady cx .crewSync then
        s.updCtx cx fun c => { c with hold := some { h with synced := true } }
      else s
    | none => s) s

/-- Waiting full/empty forms that their words' bits allow are performed, in order of arrival: each before the next is tested, and ahead
of one that arrives now (R177). -/
def State.tryFormsIn (s : State) : Nat → State
  | 0 => s
  | n + 1 =>
    match s.holders.find? s.formReady with
    | none => s
    | some cx => (s.homeTry cx).tryFormsIn n
def State.tryForms (s : State) : State := s.tryFormsIn s.holders.length

/-- FE_HOME_TRY. -/
def execFeHomeTry (cx : Nat) (s : State) : Out := .next (s.homeTry cx)

/-- BAR_WAIT_TIMEOUT: the limit of a held `bar.wait` has come; a completion in the same tick prevails. A fence of its bundle comes
first (R189, R190). -/
def execBarWaitTimeout (cx : Nat) (s : State) : Out :=
  .next (
    let c := s.ctx cx
    match c.st.mode, c.hold with
    | .hold, some h =>
      match h.got, h.req with
      | none, some (.bar k phase limit) =>
        if !s.holdL cx h then s
        else
          match s.barEnds k phase limit with
          | none => s
          | some v => s.updCtx cx fun c => { c with hold := some { h with got := some v } }
      | _, _ => s
    | _, _ => s)

/-- A member of a crew leaves its hold at the holding bundle, to be taken off its context (R176). -/
def State.leaveHold (s : State) (cx : Nat) : State :=
  s.updCtx cx fun c =>
    let b := (Ctx.dropFetch c).boundary
    { b with hold := none, st := { b.st with mode := .frozen } }

/-- FORM in `%fdata` (R176). -/
def Form.code (f : Form) : Nat := (Form.to3 f).toNat

/-- FE_BUDGET_SPENT: the last try of a held full/empty form has failed; the task parks on a DEVICE word where the job parks
and its list has room, else the bundle raises FE_RETRY (R176, R310). The job's record is read anew (R280). -/
def State.budgetSpent (s : State) (cx : Nat) : State :=
  let c := s.ctx cx
  match c.st.mode, c.hold with
  | .hold, some h =>
    match h.got, h.req with
    | none, some (.fe w form _ addr space) =>
      if s.feAllows w form ∨ s.clock.toNat < h.presented + h.budget ∨ (c.freeze ∧ !h.synced) ∨ c.dormant then s
      else
        let s := match c.task with
          | none => s
          | some key => s.rereadJob key
        let retry : State := s.takeFault cx
          { cause := .feRetry, slot := 0, addr := addr, data := Form.code form + space * 8, pc := c.st.pc,
            len := s.lenAt cx c.st.pc.toNat }
        match w, s.taskOf cx, c.task with
        | .dev pa, some t, some key =>
          if bit (t.jw 0) 60 ∧ t.phase = .rest then
            match s.park key pa form with
            | some s => (s.leaveHold cx).freezeTask key .parked none 0 false
            | none => retry
          else retry
        | _, _, _ => retry
    | _, _ => s
  | _, _ => s

def execFeBudgetSpent (cx : Nat) (s : State) : Out := .next (s.budgetSpent cx)

/-! ## The end of a hold (R175) -/

/-- What a hold waits for has come. -/
def State.holdMet (s : State) (cx : Nat) (h : Hold) : Bool := (h.req.isNone || h.got.isSome) && s.holdL cx h

/-- A bundle's PEER writes, or those of a command that it issues, would take its die past 4,096 unacknowledged requests to one module
(R325). What the die owes that module alone, it may exceed by the requests of one command: those then wait at their source. -/
def State.peerOver (s ran : State) (cx : Nat) : Bool :=
  (decide (s.outReqs.length < ran.outReqs.length) || decide (s.cmds.length < ran.cmds.length)) &&
  (List.range 288).any fun m =>
    let before := s.owedTo (dieOf cx) m
    let after := ran.owedTo (dieOf cx) m
    decide (0 < before) && decide (before < after) && decide (4096 < after)

/-- A held bundle whose condition is met waits nevertheless as any bundle does before it issues: for the divider (R134), for the
lattice (R227, R251), for room in the in-flight table (R268), and for PEER requests to be acknowledged (R325). `ran` is what its
slots make of `pre`. -/
def State.heldWaits (pre : State) (cx : Nat) (h : Hold) (ws : List SlotWord) (ran : State) : Bool :=
  let live := ws.filter fun w => Pred.holds (SlotWord.pred w) h.q
  let core := coreOf cx
  let f := (pre.ctx cx).st.flight
  (live.any SlotWord.divides && decide (0 < (pre.core core).divBusy)) ||
  ((pre.lnsReady core).isSome && ws.any SlotWord.isVM) ||
  (live.any SlotWord.pushes && f.any Flight.isWeight) ||
  (decide (32 < (ran.ctx cx).st.flight.length) && decide (f.length < (ran.ctx cx).st.flight.length)) ||
  pre.peerOver ran cx

/-- A held bundle commits: every slot takes effect in one context cycle, on the operands read at presentation. `met` is
whether what it waits for has come; `force` lets a power loss commit it at once, on a dormant strand too (R357). A slot that faults
only now ends the hold with its fault: the bundle has no effect, and a form that has been performed is undone (R8; assumption 80);
at a power loss the bundle then stays held. None where the hold goes on; else whether the core's sequencer has had its turn, and
whether a beat has passed the lattice. -/
def State.commitWith (s : State) (cx : Nat) (force : Bool) (met : Hold → Bool) : Option (State × Bool × Bool) :=
  let c := s.ctx cx
  match c.hold with
  | none => none
  | some h =>
    if c.st.mode != .hold || (c.dormant && !force) || !met h then none
    else
      match decodeBundle h.bytes with
      | none => none
      | some b =>
        let pre := (s.updCtx cx fun c => { c with hold := none, st := { c.st with mode := .run } }).beginCycle cx
        let ws := Bundle.words b
        let live := ws.filter fun w => Pred.holds (SlotWord.pred w) h.q
        let ran := pre.runHeld cx h b
        if !force && pre.heldWaits cx h ws ran then none
        else
          match ran.iss.faulted with
          | some f =>
            if force then some ((s.undoForm cx h).updCtx cx fun c => { c with hold := some { h with got := none, was := none } }, false, false)
            else some ({ ((pre.undoForm cx h).takeFault cx f) with iss := {} }, false, false)
          | none => some (ran.finish (live.any SlotWord.isV) b.head.wait, pre.lnsReady (coreOf cx) == some cx, live.any SlotWord.isBeat)

def State.commitWhen (s : State) (cx : Nat) (force : Bool) (met : Hold → Bool) : State :=
  ((s.commitWith cx force met).map Prod.fst).getD s

/-- A held bundle commits once its condition is met. -/
def State.commitHeld (s : State) (cx : Nat) : State := s.commitWhen cx false (s.holdMet cx)

/-- HOLD_COMMIT. -/
def execHoldCommit (cx : Nat) (s : State) : Out := .next (s.commitHeld cx)

/-! ## Issuing (R95 to R102, R201, R269) -/

/-- A bundle held (R175): the context leaves the issue width with its operands and flags as they were read. Its home tries it from
the end of this tick on (R176, R277). -/
def State.holdBundle (s : State) (cx : Nat) (i : Issue) (bs : List Byte) : State :=
  let c := s.ctx cx
  let budget := ((s.taskOf cx).map fun t => bits (t.jw 1) 63 32).getD 0
  let h : Hold :=
    { presented := s.clock.toNat, flags := s.flagsOf cx, req := i.req, lreq := i.lreq, budget := budget, g := c.st.g,
      v := c.st.v, k := c.st.k, q := c.st.q, bytes := bs }
  let s := match i.req with
    | some (.fe w _ _ _ _) => if i.fenced then s else s.feMet cx w
    | _ => s
  s.updCtx cx fun c => { c with hold := some h, st := { c.st with mode := .hold } }

/-- What is to be done with the state after the slots of a bundle have run on `pre` (its context cycle begun) from `s`. -/
def State.settleBundle (s pre ran : State) (cx : Nat) (bs : List Byte) (vExec wait beat : Bool) : Attempt :=
  let n := (ran.ctx cx).st.flight.length
  match ran.iss.faulted with
  | some f =>
    .used ({ ((pre.updCtx cx fun c => { c with probed := false }).takeFault cx f) with iss := {} }) false false
  | none =>
    if ran.iss.held then .yielded (s.holdBundle cx ran.iss bs)
    else if s.peerOver ran cx then .stalled true (s.inStall cx)
    else if 32 < n ∧ (pre.ctx cx).st.flight.length < n then
      let low := (s.ctx cx).st.flight.foldl (fun m e => min m e.left) (2 ^ 32)
      .stalled true ((s.countDown cx fun e => e.own && e.left == low).inStall cx)
    else .used (ran.finish vExec wait) (pre.lnsReady (coreOf cx) == some cx) beat

/-- The records that a bundle's accesses add where the job traps mixed sizes (R329). -/
def State.newProbes (s ran : State) : List MixRecord := ran.mix.filter fun r => r.probe && !s.mix.contains r

/-- A bundle that has been fetched and decoded without fault issues, waits, or holds. A bundle that spawns or signals a task, or reaches
the prefix table, waits while an earlier PEER access of its strand has not been performed (R192, R333). -/
def State.issueBundle (s : State) (cx : Nat) (b : Bundle) (bs : List Byte) : Attempt :=
  let core := coreOf cx
  let ws := Bundle.words b
  let holding := ws.any SlotWord.isHolding
  let s := if b.head.wait || holding then s.groupEnd cx else s
  let s := if ws.any SlotWord.asksHome then s.tryForms else s
  let c := s.ctx cx
  let begun := (s.beginCycle cx).beginBundle cx b.head bs.length none
  let q := begun.cur.st.q
  let live := ws.filter fun w => Pred.holds (SlotWord.pred w) q
  let begun := begun.updIss fun i => { i with fenced := s.fencedBy cx live || (holding && c.st.ctl.fused) }
  let us := live.flatMap (SlotWord.uses (s.lns core).pairReg)
  let after := s.template core s
  let untested := after.beginBundle cx b.head bs.length none
  let tested := if b.head.wait then stateOf untested (Header.run b.head untested) else untested
  if holding && !c.st.flight.all Flight.coreCount then .used (s.beginCycle cx) false false
  else if holding && !c.st.pend.isEmpty then .stalled true s
  else if tested.iss.unsatisfied then
    .yielded (s.updCtx cx fun c => { c with waitFlags := after.flagsOf cx, st := { c.st with mode := .wait } })
  else if begun.cur.st.awaits us then .stalled true (s.inStall cx)
  else if (s.lns core).mode == .running && ws.any SlotWord.isVM then
    .stalled true (s.updCtx cx fun c => { c with inStall := (s.lnsReady core).isSome })
  else if live.any SlotWord.pushes && begun.cur.st.flight.any Flight.isWeight then
    .stalled true ((s.countDown cx fun e => e.own && e.isWeight).inStall cx)
  else if live.any SlotWord.divides && decide (0 < (s.core core).divBusy) then .stalled false (s.inStall cx)
  else if live.any (fun w => (SlotWord.afterPeer w).isSome) && s.peerBusy cx then .stalled true (s.inStall cx)
  else
    let ran := begun.runBundle bs ws
    let probes := begun.newProbes ran
    if s.mixtrap cx && !c.probed && !probes.isEmpty then
      if c.probe.isSome then .stalled true (s.inStall cx)
      else
        let (f, s) := s.drawFree
        .stalled true { ((s.inStall cx).updCtx cx fun c => { c with probe := some (s.clock.toNat + Config.accessDelay f) }) with
          mix := s.mix ++ probes }
    else s.settleBundle begun ran cx bs (live.any SlotWord.isV) b.head.wait (live.any SlotWord.isBeat)

/-- A bundle of empty cycles: PC passes it, and the first of its cycles runs (R100). -/
def State.emptyBundle (s : State) (cx : Nat) (h : Header) : State :=
  let s := s.beginBundle cx h 4 none
  let s := stateOf s (execEmptyBundle h.fold h.stop s)
  let i := s.iss
  let s := { s with iss := {} }.updCtx cx fun c =>
    { c with atBoundary := false, st := { c.st with pc := c.st.pc + 4, owed := i.fold } }
  (if i.stop then s.groupEnd cx else s).emptyCycle cx

/-- What comes of the bundle at PC. -/
def State.nextBundle (s : State) (cx : Nat) : Attempt :=
  match s.fetch cx with
  | .fault k a n => .used ((s.fetchMet cx a).bundleFault cx k 7 a 0 n) false false
  | .miss => .stalled true ((s.askLine cx).inStall cx)
  | .bytes bs =>
    let pc := (s.ctx cx).st.pc.toNat
    match decodeBundle bs with
    | none => .used (s.bundleFault cx .illBundle 7 pc 0 bs.length) false false
    | some b =>
      if !b.head.wait && b.head.pres == 0 then .used (s.emptyBundle cx b.head) false false
      else
        match decodeFault (s.ctx cx).tiles b.slots with
        | some (k, slot, data) => .used (s.bundleFault cx k slot pc data bs.length) false false
        | none => s.issueBundle cx b bs

/-- A context's next cycle: an empty cycle that is owed, or its next bundle. A restored strand issues its unlanded accesses again
first (R362). -/
def State.attempt (s : State) (cx : Nat) : Attempt :=
  let s := s.reissue cx
  let c := s.ctx cx
  if 0 < s.lateLoads cx (fun _ => true) then .stalled true ((s.promiseMissed cx fun _ => true).inStall cx)
  else if 0 < c.st.owed then .used (s.emptyCycle cx) false false
  else if c.freeze && !c.inStall then .stalled true s
  else
    let k := s.katsEnd cx
    if (k.ctx cx).st.kat.isSome then .used (k.katTrap cx) false false else s.nextBundle cx

/-- MIXSIZE_PROBE_ANSWER: the homes of a probe have answered (R329). -/
def execMixsizeProbeAnswer (cx : Nat) (s : State) : Out :=
  .next (
    match (s.ctx cx).probe with
    | none => s
    | some _ => (s.ungate (coreOf cx)).updCtx cx fun c => { c with probe := none, probed := true })

/-- HOLDING_BUNDLE_PRESENT: the context's next bundle is presented if it is a holding bundle and nothing of the context is in
flight (R175); it holds, or commits at once. -/
def execHoldingBundlePresent (cx : Nat) (s : State) : Out :=
  .next (
    let c := s.ctx cx
    if !c.atBundle || !c.st.flight.isEmpty || !c.st.pend.isEmpty || c.st.mode != .run then s
    else
      match s.fetch cx with
      | .bytes bs =>
        match decodeBundle bs with
        | some b =>
          if (Bundle.words b).any SlotWord.isHolding then
            match s.attempt cx with
            | .used s _ _ | .yielded s | .stalled _ s => s
          else s
        | none => s
      | _ => s)

end Sys2Proof.Machine
end

