-- ==== Sys2Proof/Machine/Attest.lean ====
section
/-!
DEFINITION. Attest: the published functions of firmware acceptance and attestation (R402, R403): Ed448 and Ed448ph (RFC 8032), P-384
(FIPS 186), HMAC and HKDF over SHA3-512, and AES-256-GCM (SP 800-38D).
-/
namespace Sys2Proof.Machine

/-! ## Arithmetic modulo a prime -/

def subM (p a b : Nat) : Nat := (a % p + p - b % p) % p
/-- a^e mod p, from bit `n` of the exponent down. -/
def powM (p a e : Nat) : Nat → Nat
  | 0 => 1
  | n + 1 => let r := powM p a (e / 2) n; (if e % 2 = 1 then r * r % p * a else r * r) % p
/-- The inverse modulo a prime below 2^512. -/
def invM (p a : Nat) : Nat := powM p a (p - 2) 512

/-! ## Ed448 -/

def edP : Nat := 2 ^ 448 - 2 ^ 224 - 1
def edL : Nat := 2 ^ 446 - 13818066809895115352007386748515426880336692474882178609894547503885
def edD : Nat := edP - 39081

/-- A point of the curve x^2 + y^2 = 1 - 39081 x^2 y^2 in projective coordinates. -/
structure EdPoint where
  x : Nat
  y : Nat
  z : Nat

def edZero : EdPoint := ⟨0, 1, 1⟩
def edBase : EdPoint :=
  ⟨224580040295924300187604334099896036246789641632564134246125461686950415467406032909029192869357953282578032075146446173674602635247710,
   298819210078481492676017930443930673437544040154080242095928241372331506189835876003536878655418784733982303233503462500531545062832660, 1⟩

def EdPoint.add (a b : EdPoint) : EdPoint :=
  let m (u v : Nat) : Nat := u * v % edP
  let A := m a.z b.z
  let B := m A A
  let C := m a.x b.x
  let D := m a.y b.y
  let E := m edD (m C D)
  let F := subM edP B E
  let G := (B + E) % edP
  let H := m (a.x + a.y) (b.x + b.y)
  ⟨m (m A F) (subM edP H (C + D)), m (m A G) (subM edP D C), m F G⟩

/-- k times a point, for k below 2^n. -/
def EdPoint.mul (a : EdPoint) (k : Nat) : Nat → EdPoint
  | 0 => edZero
  | n + 1 =>
    let r := a.mul (k / 2) n
    let r := r.add r
    if k % 2 = 1 then r.add a else r

def EdPoint.same (a b : EdPoint) : Bool := a.x * b.z % edP == b.x * a.z % edP && a.y * b.z % edP == b.y * a.z % edP

/-- The 57 bytes of a point: y, and the low bit of x at the top. -/
def EdPoint.bytes (a : EdPoint) : List Byte :=
  let i := invM edP a.z
  leBytes 57 (a.y * i % edP + a.x * i % edP % 2 * 2 ^ 455)

/-- The point of 57 bytes, if they are one. -/
def edPoint (bs : List Byte) : Option EdPoint :=
  let v := leValue bs
  let y := v % 2 ^ 455
  let u := subM edP (y * y) 1
  let w := subM edP (edD * (y * y % edP)) 1
  let x := u * u % edP * u % edP * w % edP *
    powM edP (u * u % edP * (u * u % edP) % edP * u % edP * (w * w % edP * w % edP)) ((edP - 3) / 4) 512 % edP
  let odd := v / 2 ^ 455 % 2
  if bs.length ≠ 57 ∨ edP ≤ y ∨ w * (x * x % edP) % edP ≠ u ∨ (x = 0 ∧ odd = 1) then none
  else some ⟨if x % 2 = odd then x else edP - x, y, 1⟩

/-- The domain separator: "SigEd448", whether the message is prehashed, and an empty context. -/
def edDom (ph : Bool) : List Byte :=
  [0x53, 0x69, 0x67, 0x45, 0x64, 0x34, 0x34, 0x38, if ph then 1 else 0, 0]

/-- A signature verifies over a message, or over the 64 bytes of its prehash (R402). -/
def edVerify (ph : Bool) (key msg sig : List Byte) : Bool :=
  let S := leValue (sig.drop 57)
  match edPoint key, edPoint (sig.take 57) with
  | some a, some r =>
    let h := leValue (shake256 114 (edDom ph ++ sig.take 57 ++ key ++ if ph then shake256 64 msg else msg)) % edL
    sig.length == 114 && decide (S < edL) &&
      (edBase.mul (4 * S) 512).same ((r.mul 4 3).add (a.mul (4 * h) 512))
  | _, _ => false

/-- The scalar and the prefix of a 57-byte private key. -/
def edSecret (sk : List Byte) : Nat × List Byte :=
  let h := shake256 114 sk
  (leValue (h.take 56) % 2 ^ 447 / 4 * 4 + 2 ^ 447, h.drop 57)
/-- Its public key. -/
def edPublic (sk : List Byte) : List Byte := (edBase.mul (edSecret sk).1 512).bytes
/-- The signature of a message. -/
def edSign (sk msg : List Byte) : List Byte :=
  let (a, pre) := edSecret sk
  let r := leValue (shake256 114 (edDom false ++ pre ++ msg)) % edL
  let R := (edBase.mul r 512).bytes
  let h := leValue (shake256 114 (edDom false ++ R ++ edPublic sk ++ msg)) % edL
  R ++ leBytes 57 ((r + h * a) % edL)

/-- The root of trust accepts the image of type `k` of the set `f` (0 boot, 1 management, 2 power controller): its key hashes to a fused
hash that is not revoked, its security version is at or above the fused one, and its signature verifies (R402). -/
def fwAccepted (f k : Nat) : Bool :=
  let i := 3 * f + k
  let h := shake256 64 (Config.fwKey i)
  (List.range 4).any (fun n => Config.fusedHash n == h && !Config.keyRevoked n) &&
    decide (Config.fusedVersion k ≤ Config.fwVersion i) && edVerify true (Config.fwKey i) (Config.fwImage i) (Config.fwSig i)

/-! ## P-384 -/

def ecP : Nat := 2 ^ 384 - 2 ^ 128 - 2 ^ 96 + 2 ^ 32 - 1
def ecB : Nat := 0xB3312FA7E23EE7E4988E056BE3F82D19181D9C6EFE8141120314088F5013875AC656398D8A2ED19D2A85C8EDD3EC2AEF
def ecN : Nat := 0xFFFFFFFFFFFFFFFFFFFFFFFFFFFFFFFFFFFFFFFFFFFFFFFFC7634D81F4372DDF581A0DB248B0A77AECEC196ACCC52973
def ecBase : Nat × Nat :=
  (0xAA87CA22BE8B05378EB1C71EF320AD746E1D3B628BA79B9859F741E082542A385502F25DBF55296C3A545E3872760AB7,
   0x3617DE4A96262C6F5D9E98BF9292DC29F8F41DBD289A147CE9DA3113B5F0B8C00A60B1CE1D7E819D7A431D7C90EA0E5F)

/-- A point other than the neutral one lies on the curve y^2 = x^3 - 3x + b. -/
def ecOn (q : Nat × Nat) : Bool :=
  decide (q.1 < ecP) && decide (q.2 < ecP) && q.2 * q.2 % ecP == subM ecP (q.1 * q.1 * q.1 + ecB) (3 * q.1)

def ecAdd (a b : Option (Nat × Nat)) : Option (Nat × Nat) :=
  match a, b with
  | none, q => q
  | q, none => q
  | some a, some b =>
    if a.1 = b.1 ∧ (a.2 + b.2) % ecP = 0 then none
    else
      let l := if a.1 = b.1 then subM ecP (3 * a.1 * a.1) 3 * invM ecP (2 * a.2) % ecP
        else subM ecP b.2 a.2 * invM ecP (subM ecP b.1 a.1) % ecP
      let x := subM ecP (l * l) (a.1 + b.1)
      some (x, subM ecP (l * subM ecP a.1 x) a.2)

/-- k times a point, for k below 2^n. -/
def ecMul (a : Nat × Nat) (k : Nat) : Nat → Option (Nat × Nat)
  | 0 => none
  | n + 1 =>
    let r := ecMul a (k / 2) n
    let r := ecAdd r r
    if k % 2 = 1 then ecAdd r (some a) else r

/-- `n` bytes of a number, most significant first. -/
def beBytes (n v : Nat) : List Byte := (leBytes n v).reverse
/-- The number of bytes, most significant first. -/
def beValue (bs : List Byte) : Nat := leValue bs.reverse

/-! ## HMAC and HKDF over SHA3-512 -/

def xor8 (a b : List Byte) : List Byte := List.zipWith (· ^^^ ·) a b
/-- HMAC of a key of at most a block. -/
def hmac (key msg : List Byte) : List Byte :=
  let k := key ++ List.replicate (72 - key.length) 0
  sha3 (k.map (· ^^^ 0x5C) ++ sha3 (k.map (· ^^^ 0x36) ++ msg))
/-- The first `n` bytes, at most 64, of HKDF-Expand. -/
def hkdf (secret info : List Byte) (n : Nat) : List Byte := (hmac secret (info ++ [1])).take n

/-! ## AES-256-GCM -/

/-- AES-256 of a block of bytes, the key's byte 0 first. -/
def aesBlock (key blk : List Byte) : List Byte :=
  (aesEnc (aesKeys (BitVec.ofNat 256 (leValue key))) (blk.map (·.toNat))).map (BitVec.ofNat 8)

/-- The product of GCM's field, its first bit the most significant, from bit `n` of `a` down. -/
def gcmMul (a v : Nat) : Nat → Nat
  | 0 => 0
  | n + 1 => (if a.testBit n then v else 0) ^^^ gcmMul a (if v % 2 = 1 then v / 2 ^^^ 0xE1 * 2 ^ 120 else v / 2) n

/-- Bytes in blocks of 16, the last filled with zeros. -/
def blocks16 (bs : List Byte) : List (List Byte) :=
  (List.range ((bs.length + 15) / 16)).map fun i => let b := (bs.drop (16 * i)).take 16; b ++ List.replicate (16 - b.length) 0

/-- The 16-byte tag of associated data and a ciphertext under a 12-byte nonce. -/
def gcmTag (key nonce aad ct : List Byte) : List Byte :=
  let H := beValue (aesBlock key (List.replicate 16 0))
  let bs := blocks16 aad ++ blocks16 ct ++ [beBytes 8 (8 * aad.length) ++ beBytes 8 (8 * ct.length)]
  let y := bs.foldl (fun y b => gcmMul (y ^^^ beValue b) H 128) 0
  xor8 (beBytes 16 y) (aesBlock key (nonce ++ beBytes 4 1))

/-- A message encrypted or decrypted under a nonce, its counter from 2. -/
def gcmCrypt (key nonce msg : List Byte) : List Byte :=
  xor8 msg ((List.range ((msg.length + 15) / 16)).flatMap fun i => aesBlock key (nonce ++ beBytes 4 (i + 2)))

end Sys2Proof.Machine
end

