-- ==== Sys2Proof/Machine/Edge.lean ====
section
/-!
DEFINITION. Edge: the selector and clock gating (R273 to R275), the holds that end in a cycle (R175), lock-step (R157 to R159), and
one edge of a core's clock (R4, R251, R266).
-/
namespace Sys2Proof.Machine

/-! ## The selector (R273, R274) -/

/-- A context that may take the issue width. -/
def State.eligible (s : State) (cx : Nat) : Bool :=
  let c := s.ctx cx
  c.task.isSome && c.st.mode == .run && !c.dormant && !c.dawnHeld && !c.st.ctl.fused &&
  match s.attempt cx with
  | .used _ _ _ | .yielded _ => true
  | .stalled gives _ => !gives

/-- A group boundary lies before the next bundle for what it is: a wait bundle, or a holding one (R101, R175). -/
def State.nextBounded (s : State) (cx : Nat) : Bool :=
  match s.fetch cx with
  | .bytes bs => (decodeBundle bs).any fun b => b.head.wait || (Bundle.words b).any SlotWord.isHolding
  | .fault _ _ _ | .miss => false

/-- A context inside a group: it keeps the issue width whatever stalls it (R269). -/
def State.midGroup (s : State) (cx : Nat) : Bool :=
  let c := s.ctx cx
  c.task.isSome && c.st.mode == .run && !c.dormant && !c.dawnHeld && !(c.st.owed == 0 && (c.atBoundary || s.nextBounded cx))

/-- The running context of a core. -/
def State.running (s : State) (core : Nat) : Nat := core * 4 + (s.core core).running % 4

/-- The contexts of a core. -/
def coreCtxs (core : Nat) : List Nat := (List.range 4).map (core * 4 + ·)

/-- Another context has been eligible for a whole quantum. -/
def State.quantumOut (s : State) (core : Nat) : Bool :=
  (coreCtxs core).any fun cx => cx != s.running core && decide (4096 ≤ (s.ctx cx).eligFor)

/-- The context that the selector takes: the running one while it may keep the width, else the next in order. One that has given up
the width comes last (R273, R275). -/
def State.choose (s : State) (core : Nat) : Option Nat :=
  let r := s.running core
  if s.midGroup r then some r
  else if (s.core core).kept && s.eligible r && !s.quantumOut core then some r
  else ([1, 2, 3, 4].map fun d => core * 4 + (r % 4 + d) % 4).find? s.eligible

/-- The issue width passes to a context; the one that leaves it loses its fetch buffer (R272). The counts toward its quantum begin
(R273). -/
def State.switchTo (s : State) (core cx : Nat) : State :=
  let r := s.running core
  let take (s : State) : State := s.updCore core fun k => { k with running := cx % 4, kept := true }
  if cx = r then (if (s.core core).kept then s else take s)
  else
    let s := if (s.ctx r).task.isSome then s.updCtx r fun c => { Ctx.dropFetch c with inStall := false } else s
    (coreCtxs core).foldl (fun s cx =>
      if (s.ctx cx).task.isSome then s.updCtx cx fun c => { c with eligFor := 0 } else s) (take s)

/-- QUANTUM_EXPIRY: a running context whose quantum has run out yields at its group boundary. -/
def execQuantumExpiry (core : Nat) (s : State) : Out :=
  .next (
    if s.quantumOut core && !s.midGroup (s.running core) then
      match s.choose core with
      | none => s
      | some cx => s.switchTo core cx
    else s)

/-- `%flags` of a core's contexts. -/
def State.coreFlags (s : State) (core : Nat) : List Word := (coreCtxs core).map s.flagsOf

/-- A core gated (R274). -/
def State.gate (s : State) (core : Nat) : State :=
  let f := s.coreFlags core
  s.updCore core fun k => { k with gated := true, gatedSince := s.clock.toNat, seen := f }

/-- CORE_UNGATE: a bit of some context's `%flags` has changed, or a context has become eligible; the first bundle issues two core
cycles later (R274). -/
def execCoreUngate (core : Nat) (s : State) : Out :=
  .next (if s.coreFlags core != (s.core core).seen || (coreCtxs core).any s.eligible then s.ungate core else s)

/-- The counts toward a quantum after a cycle of the running context. -/
def State.countWaiting (s : State) (core cx : Nat) : State :=
  (coreCtxs core).foldl (fun s o =>
    if o = cx ∨ (s.ctx o).task.isNone then s
    else
      let e := s.eligible o
      s.updCtx o fun c => { c with eligFor := if e then c.eligFor + 1 else 0 }) s

/-! ## What every edge brings -/

/-- A member that a request to freeze meets at a bundle boundary is frozen by it (R303, R304): one that sleeps, waits or has ended. -/
def Ctx.stopsAtOnce (c : Ctx) : Bool :=
  c.freeze && (match c.st.mode with
    | .sleep _ _ | .wait | .fuseWait | .ended => true
    | .run | .hold | .frozen => false)
/-- The counts of a strand's template results run: from its first context cycle on, until it is frozen (R251, R304). -/
def Ctx.counts (c : Ctx) : Bool := c.cyc != 0 && c.st.mode != .frozen && !c.stopsAtOnce && !c.dormant && !c.dawnHeld

/-- A template's results in flight count in cycles of the core; those whose promise is missed are noted (R251, R270). -/
def State.coreFlights (s : State) (core : Nat) : State :=
  (coreCtxs core).foldl (fun s cx =>
    if (s.ctx cx).counts && (s.ctx cx).st.flight.any Flight.coreCount then
      (s.tickFlights cx Flight.coreCount).promiseMissed cx Flight.coreCount
    else s) s

/-- What every edge does: the divider, the counts of R405, the sequencer's results in flight, and results that wait for cycles of the
core. -/
def State.edgeCounts (s : State) (core : Nat) : State :=
  let s := s.updCore core fun k => { k with divBusy := k.divBusy - 1 }
  let bound := (coreCtxs core).filter fun cx => (s.ctx cx).task.isSome
  let s := bound.foldl (fun s cx => s.count cx .ccyc 1) s
  bound.foldl (fun s cx => if (s.ctx cx).st.pend.isEmpty then s else s.landCycles cx) (s.coreFlights core)

/-- The end of a core's cycle: results of templates that are due have been written, and the next cycle has no landings yet. -/
def State.edgeEnd (s : State) (core : Nat) : State :=
  (coreCtxs core).foldl (fun s cx =>
    let c := s.ctx cx
    let s := if c.counts && c.st.flight.any Flight.coreCount then s.deliverCore cx else s
    if c.landRegs.isEmpty && c.landLatches.isEmpty then s
    else s.updCtx cx fun c => { c with landRegs := [], landLatches := [] }) s

/-! ## Holds that end (R4, R175) -/

/-- Contexts of a core that hold. -/
def State.holdersOn (s : State) (core : Nat) : List Nat := s.holders.filter fun cx => coreOf cx == core

/-- A bundle's bytes hold a beat that executes under `q`. -/
def beatIn (bs : List Byte) (q : BitVec 8) : Bool :=
  (decodeBundle bs).any fun b => (Bundle.words b).any fun w => SlotWord.isBeat w && Pred.holds (SlotWord.pred w) q

/-- The holds of a core's contexts whose condition is met end in this cycle, beside the bundle that issues in it. The lattice does one
beat a cycle: `beat` is whether the cycle has one already, a template's included, and a held bundle with another waits (R4; assumption
81). A hold that ends ends the gating; this is the cycle of the event (R274). Answers also whether the core's sequencer has had its
turn, with a held bundle or before (`done`). -/
def State.commitHolds (s : State) (core : Nat) (done beat : Bool) : State × Bool :=
  let (s, done, _) := (s.holdersOn core).foldl (fun acc cx =>
    let (s, done, beat) := acc
    let h := ((s.ctx cx).hold).getD { presented := 0 }
    if (s.ctx cx).st.ctl.fused || (beat && beatIn h.bytes h.q) then acc
    else
      match s.commitWith cx false (s.holdMet cx) with
      | none => acc
      | some (t, d, b) =>
        (if (t.core core).gated then t.updCore core fun k => { k with gated := false, wakeIn := 1 } else t, done || d, beat || b || d))
    (s, done, beat || done)
  (s, done)

/-- A core's cycle after its bundle: holds end, and the sequencer has its turn unless it has had it. `before` is the state at the
cycle's start. -/
def State.afterBundle (s before : State) (core : Nat) (done beat : Bool) : State :=
  let (t, done) := s.commitHolds core done beat
  if done then t else t.template core before

/-! ## One cycle of a core that no fused set holds -/

/-- A cycle of one context on its core, and whether the sequencer has had its turn and a beat has passed. -/
def State.runOn (s : State) (core cx : Nat) : State × Bool × Bool :=
  match s.attempt cx with
  | .used s t b => (s.countWaiting core cx, t, b)
  | .yielded s => (s.updCore core fun k => { k with kept := false }, false, false)
  | .stalled _ s => (s, false, false)

/-- A context that does not get the cycle: what its stall awaits goes on in real time (R269). A load is late only where the
context would have begun its cycle (R270); only the running context's stall is in progress for a freeze. -/
def State.stallOn (s : State) (cx : Nat) (runs would : Bool) : State :=
  let c := s.ctx cx
  if c.task.isNone || c.st.mode != .run || c.dormant || c.dawnHeld || c.st.ctl.fused ||
      (!would && decide (0 < s.lateLoads cx Flight.own)) then s
  else
    match s.attempt cx with
    | .stalled _ t => if runs then t else t.updCtx cx fun c => { c with inStall := false }
    | .used _ _ _ | .yielded _ => s

/-- The contexts that the selector does not take. -/
def State.waitsOn (s : State) (core : Nat) (chosen : Option Nat) (all : Bool) : State :=
  let r := s.running core
  let order := [0, 1, 2, 3].map fun d => core * 4 + (r % 4 + d) % 4
  let passed := order.takeWhile fun cx => chosen != some cx
  order.foldl (fun s cx => if chosen = some cx then s else s.stallOn cx (cx == r) (all && passed.contains cx)) s

/-- A cycle in which no context may issue: the core gates its clock, unless its sequencer runs or a hold has just ended. -/
def State.idleEdge (s : State) (core : Nat) : State :=
  let t := (s.updCore core fun k => { k with kept := false }).afterBundle s core false false
  if (s.lnsReady core).isSome || (t.holdersOn core).length < (s.holdersOn core).length then t else t.gate core

/-- An edge of a core that no fused set holds. -/
def State.soloEdge (s : State) (core : Nat) : State :=
  let k := s.core core
  if 0 < k.wakeIn then
    ((s.updCore core fun k => { k with wakeIn := k.wakeIn - 1 }).waitsOn core none false).afterBundle s core false false
  else if k.gated then ((s.waitsOn core none true).commitHolds core false false).1
  else
    let next := s.choose core
    let t := s.waitsOn core next true
    match next with
    | some cx =>
      let (t, done, beat) := (t.switchTo core cx).runOn core cx
      t.afterBundle s core done beat
    | none => t.idleEdge core

/-! ## Lock-step (R157 to R159) -/

/-- The member of a fused set that a core hosts. -/
def State.fusedOn (s : State) (core : Nat) : Option Nat :=
  (coreCtxs core).find? fun cx => (s.ctx cx).task.isSome && (s.ctx cx).st.ctl.fused

/-- The fused set of a crew. -/
def State.fusedSet (s : State) (task : Nat) : List Nat := (s.members task).filter fun cx => (s.ctx cx).st.ctl.fused

/-- Nothing of the group in progress is left on a core (R157). -/
def State.coreHolds (s : State) (core : Nat) : Bool := !s.midGroup (s.running core)

/-- A member that could use the cycle: it runs, or its hold can end. -/
def State.memberTry (s : State) (cx : Nat) : Attempt :=
  let c := s.ctx cx
  match c.st.mode with
  | .run => if c.dormant || c.dawnHeld then .yielded s else s.attempt cx
  | .hold =>
    match s.commitWith cx false (s.holdMet cx) with
    | some (t, d, b) => .used t d b
    | none => if c.hold.any (s.holdMet cx) then .stalled true (s.inStall cx) else .yielded s
  | .wait | .sleep _ _ | .fuseWait | .frozen | .ended => .yielded s

/-- What a member's next cycle comes to though another member's bundle of the same cycle has asked the crew to freeze (R158). -/
def State.memberTogether (s : State) (cx : Nat) : Attempt :=
  let asked := (s.ctx cx).freeze
  let back (t : State) : State := if asked then t.updCtx cx fun c => { c with freeze := true } else t
  match (s.updCtx cx fun c => { c with freeze := false }).memberTry cx with
  | .used t x b => .used (back t) x b
  | .yielded t => .yielded (back t)
  | .stalled g t => .stalled g (back t)

/-- Holding bundles of members presented. -/
def State.presentHolds (s : State) (ms : List Nat) : State :=
  ms.foldl (fun s cx =>
    match s.memberTogether cx with
    | .yielded t => if (s.ctx cx).st.mode == .run && (t.ctx cx).st.mode == .hold then t else s
    | .used _ _ _ | .stalled _ _ => s) s

/-- What a member's core has done in the cycle: whether its sequencer has had its turn, and whether a beat has passed. -/
abbrev Did := Nat × Bool × Bool

/-- Every member's cycle in turn, or none where one of them cannot issue. -/
def State.allIssue (s : State) (ms : List Nat) : Option (State × List Did) :=
  ms.foldl (fun acc cx => acc.bind fun (s, ds) =>
    match s.memberTogether cx with
    | .used t x b => some (t, ds ++ [(cx, x, b)])
    | .yielded _ | .stalled _ _ => none) (some (s, []))

/-- A cycle in which a member cannot issue: what the stalls await goes on, and a stall of one is a stall of all (R269). A stall that a
request to freeze has ended, since the sequencer that it awaits has stopped, is none (R303). -/
def State.noneIssue (s : State) (ms : List Nat) : State :=
  let (stall, s) := ms.foldl (fun acc cx =>
    match acc.2.memberTry cx with
    | .stalled _ t => (acc.1 || (t.ctx cx).inStall, t)
    | .used _ _ _ | .yielded _ => acc) (false, s)
  ms.foldl (fun s cx => s.updCtx cx fun c => { c with inStall := stall }) s

/-- One cycle of a fused set: every member issues, or none does (R158). Answers whether they issue. -/
def State.lockStep (s : State) (ms : List Nat) : State × List Did × Bool :=
  let s := s.presentHolds ms
  match s.allIssue ms with
  | some (t, ds) => (t, ds, true)
  | none => (s.noneIssue ms, ms.map fun m => (m, false, false), false)

/-- A fused set that is asked to freeze and has no stall to complete: empty cycles that a member owes run, and a hold whose access has
been performed ends, each by itself; no member issues a bundle (R159, R177, R303; assumption 82). A cycle in which a promised load
comes due waits for its data (R270). -/
def State.freezeSet (s : State) (ms : List Nat) : State :=
  ms.foldl (fun s cx =>
    let c := s.ctx cx
    match c.st.mode with
    | .run =>
      if c.st.owed = 0 then s
      else if 0 < s.lateLoads cx fun _ => true then s.promiseMissed cx fun _ => true
      else s.emptyCycle cx
    | .hold => if c.hold.any Hold.commits then s.commitHeld cx else s
    | .wait | .sleep _ _ | .fuseWait | .frozen | .ended => s) s

/-- The cores of a set in the cycle in which lock-step begins, or one of its cores ends a group: the member whose core holds takes its
core (R157). -/
def State.setBegins (s : State) (task : Nat) (ms : List Nat) : State × List Did :=
  if ms.all fun m => s.coreHolds (coreOf m) then
    let s := ms.foldl (fun s m => (s.switchTo (coreOf m) m).updCore (coreOf m) fun k => { k with gated := false, wakeIn := 0 }) s
    let (t, ds, _) := (s.updTask task fun t => { t with fuseUp := false }).lockStep ms
    (t, ds)
  else
    ms.foldl (fun acc m =>
      let (s, ds) := acc
      let core := coreOf m
      if s.coreHolds core then (s, ds ++ [(m, false, false)])
      else
        let (t, d, b) := s.runOn core (s.running core)
        (t, ds ++ [(m, d, b)])) (s, [])

/-- The cores of a fused set are gated while no member may issue, unless a sequencer of theirs runs (R274). -/
def State.gateSet (s : State) (ms : List Nat) : State :=
  if (ms.any fun m => (s.ctx m).inStall) || (ms.any fun m => (s.lnsReady (coreOf m)).isSome) then s
  else ms.foldl (fun s m => s.gate (coreOf m)) s

/-- A cycle of a fused set that has formed. Its cores gate and wake together: after an event the set issues when the two cycles of R274
have passed; a hold that ends in a gated set ends the gating at once. -/
def State.setCycle (s : State) (ms : List Nat) : State × List Did :=
  let idle := ms.map fun m => (m, false, false)
  let all (s : State) (f : Core → Core) : State := ms.foldl (fun s m => s.updCore (coreOf m) f) s
  let n := ms.foldl (fun n m => max n (s.core (coreOf m)).wakeIn) 0
  if (ms.any fun m => (s.ctx m).freeze) && !(ms.any fun m => (s.ctx m).inStall) then (s.freezeSet ms, idle)
  else if ms.all fun m => (s.core (coreOf m)).gated then
    match (s.presentHolds ms).allIssue ms with
    | some (t, ds) => (all t fun k => { k with gated := false, wakeIn := 1 }, ds)
    | none => (s, idle)
  else if 0 < n ∨ ms.any fun m => (s.core (coreOf m)).gated then (all s fun k => { k with gated := false, wakeIn := n - 1 }, idle)
  else
    let (t, ds, issued) := s.lockStep ms
    (if issued then t else t.gateSet ms, ds)

/-- An edge of a core that hosts a fused member. The set moves at the edge of its last member's core, when every core of the set has
had its edge of the tick; then the holds of their other contexts end and their sequencers have their turns. -/
def State.fusedEdge (s : State) (cx : Nat) : State :=
  match (s.ctx cx).task with
  | none => s.edgeEnd (coreOf cx)
  | some task =>
    let ms := s.fusedSet task
    if ms.getLast? != some cx then s
    else
      let (t, ds) := if ((FMap.find s.tasks task).map Task.fuseUp).getD false then s.setBegins task ms else s.setCycle ms
      ds.foldl (fun t (d : Did) => (t.afterBundle s (coreOf d.1) d.2.1 d.2.2).edgeEnd (coreOf d.1)) t

/-! ## One edge of a core's clock -/

/-- One unswallowed edge of a core's clock. -/
def State.edge (s : State) (core : Nat) : State :=
  let s := s.edgeCounts core
  match s.fusedOn core with
  | some cx => s.fusedEdge cx
  | none => (s.soloEdge core).edgeEnd core

end Sys2Proof.Machine
end

