-- ==== Sys2Proof/Machine/Power.lean ====
section
/-!
DEFINITION. Power: cluster states and the slew limit (R364 to R368), current and thermal limits and the watchdog (R369, R378
to R382), Nightfall and Daybreak (R370 to R372), model update (R383 to R387), and the Dusk save, boot and the Dawn restore
(R357 to R362, R373 to R377, R388).
-/
namespace Sys2Proof.Machine

/-! ## Patterns (R366, R367) -/

def popcount (x : BitVec 16) : Nat := ((List.range 16).filter fun i => x.getLsbD i).length
/-- The order of slots of a ladder. -/
def ladderOrder : List Nat := [0, 8, 4, 12, 2, 10, 6, 14, 1, 9, 5, 13, 3, 11, 7, 15]
/-- ladder(k). -/
def ladder (k : Nat) : BitVec 16 := (ladderOrder.take k).foldl (fun a i => a ||| (1#16 <<< i)) 0

/-- The contexts of a cluster. -/
def clusterCtxs (k : Nat) : List Nat := (List.range 32).map (k * 32 + ·)
/-- A cluster holds a bound strand. -/
def State.holdsStrand (s : State) (k : Nat) : Bool := s.ctxs.any fun e => clusterOf e.1 == k && e.2.task.isSome
/-- A cluster has a context reserved for a dispatch (R289). -/
def State.reservedIn (s : State) (k : Nat) : Bool :=
  s.tasks.any fun e => e.2.phase == .binding && (e.2.place.any fun p => e.2.die * 32 + p.cluster == k)

def State.region (s : State) (die r : Nat) : Therm := FMap.getD s.therm (64 * die + r) {}
/-- A condition holds of the region of a cluster or of its bank group (R378, R380). -/
def State.regionsOf (s : State) (k : Nat) (f : Therm → Bool) : Bool :=
  f (s.region (k / 32) (k % 32)) || f (s.region (k / 32) (32 + k % 32 / 2))
/-- The hard thermal cap and the governor cap of a cluster. -/
def State.hardCap (s : State) (k : Nat) : Bool := s.regionsOf k Therm.hard
def State.govCap (s : State) (k : Nat) : Bool := (s.govmode || s.updPend) && s.regionsOf k Therm.soft

/-- The governed target (R367). -/
def State.governed (s : State) (k : Nat) : BitVec 16 :=
  if !s.holdsStrand k && !s.reservedIn k then 0
  else
    let t := (s.cluster k).target
    let t := if popcount t = 0 then ladder 1 else t
    let c := min (min (if s.hardCap k then 4 else 16) (if s.govCap k then 8 else 16)) (s.die (k / 32)).capCount
    if c < popcount t then ladder c else t

/-- One slew step of a pattern towards another (R368). -/
def slew (eff g : BitVec 16) : BitVec 16 :=
  if eff = g then eff
  else if popcount eff ≤ popcount g then
    match (List.range 16).find? fun i => g.getLsbD i && !eff.getLsbD i with
    | some i => eff ||| (1#16 <<< i)
    | none => eff
  else
    match (List.range 16).find? fun i => eff.getLsbD i && !g.getLsbD i with
    | some i => eff &&& ~~~(1#16 <<< i)
    | none => eff

/-- A cluster whose pattern may move: awake, or let through by the Daybreak controller (R371). -/
def Cluster.slews (c : Cluster) (now : Nat) : Bool :=
  match c.mode with
  | .active => true
  | .doze => c.waking
  | .daybreak => decide (c.timer ≤ now)
  | .night | .nightfall => false

/-- A target of 0 becomes ladder(1) where the cluster holds or awaits a strand (R367). -/
def State.liftTarget (s : State) (k : Nat) : Cluster :=
  let c := s.cluster k
  if c.target = 0 ∧ (s.holdsStrand k ∨ s.reservedIn k) then { c with target := ladder 1 } else c

/-- A cluster has become awake: its cores begin their cycles, so none counts as gated (R274, R365), and the scheduler of its die
decides anew (R293). -/
def State.clusterUp (s : State) (k : Nat) : State :=
  ((List.range 8).foldl (fun s i => s.ungate (8 * k + i)) s).wakeDie (k / 32)

/-- SLEW_STEP: one bit towards the governed target at a multiple of 256 ticks; EFF leaving 0 makes a cluster ACTIVE, and
reaching 0 with nothing bound or reserved makes it DOZE (R365). -/
def execSlewStep (cluster : Nat) (s : State) : Out :=
  .next (
    let c := s.liftTarget cluster
    if s.clock.toNat % 256 ≠ 0 then s
    else if !c.slews s.clock.toNat then s.setCluster cluster c
    else
      let e := slew c.eff (s.governed cluster)
      let mode := if e ≠ 0 then .active
        else if c.mode = .active ∧ !s.holdsStrand cluster ∧ !s.reservedIn cluster then .doze else c.mode
      let s := s.setCluster cluster { c with
        eff := e, mode := mode, waking := c.waking && !e.getLsbD (s.clock.toNat % 16)
        since := if mode = .doze ∧ c.mode ≠ .doze then s.clock.toNat else c.since }
      if mode = .active ∧ c.mode ≠ .active then s.clusterUp cluster else s)

/-! ## Current, temperature, watchdog -/

/-- CURRENT_LIMIT_STEP (R369): the estimate every 64 ticks, the cap every 256. -/
def execCurrentLimitStep (die : Nat) (amps : BitVec 16) (s : State) : Out :=
  .next (
    if s.clock.toNat % 64 ≠ 0 then s
    else s.updDie die fun d =>
      let n :=
        if s.clock.toNat % 256 ≠ 0 then d.capCount
        else if d.ilim < amps then max 1 (d.capCount - 1)
        else if amps.toNat * 16 < 15 * d.ilim.toNat then min 16 (d.capCount + 1)
        else d.capCount
      { d with iest := amps, capCount := n })

/-- The largest k below 2^33 with (2k − 1)^80 ≤ 2^(m + 80), searched from bit `i` down. -/
def damageSearch (m : Nat) : Nat → Nat → Nat
  | 0, k => k
  | i + 1, k => damageSearch m i (if (2 * (k + 2 ^ i) - 1) ^ 80 ≤ 2 ^ m then k + 2 ^ i else k)

/-- round(256 × 2^((T − 85) / 10), RNE) for T in eighths of a degree, limited to 2^33 − 1 (R378). -/
def damage (temp : BitVec 16) : Nat :=
  let m := temp.toInt - 40
  if m ≤ -80 then 0
  else if 2640 ≤ m then 2 ^ 33 - 1
  else damageSearch (m + 80).toNat 33 0

/-- A region that has a sensor (R378). -/
def hasSensor (die r : Nat) : Bool := decide (r < 60) || (r == 60 && decide (die < 2))

/-- SOFT and HARD as D and the budgets make them (R379, R380). -/
def Therm.judge (t : Therm) : Therm :=
  let d := t.d.toNat
  let hb := t.hardb.toNat
  { t with
    soft := decide (t.softb.toNat ≤ d)
    hard := if hb ≤ d then true else if d < hb - hb / 8 then false else t.hard }

/-- A region's integral or a budget has changed. When SOFT rises, the power controller is interrupted and an alert is sent (R379). -/
def State.setTherm (s : State) (k : Nat) (t : Therm) : State :=
  let rises := (Therm.judge t).soft && !(FMap.getD s.therm k {}).soft
  let s := { s with therm := FMap.put s.therm k t.judge }
  if rises then
    { s with mgmtOut := s.mgmtOut ++ [.alert (k / 64) (k % 64)], powerIrqs := s.powerIrqs ++ [(k / 64, k % 64)] }
  else s

/-- THERMAL_SAMPLE (R378 to R380). -/
def execThermalSample (die region : Nat) (temp : BitVec 16) (s : State) : Out :=
  .next (
    if !hasSensor die region then s
    else
      let t := s.region die region
      let d := min (2 ^ 32 - 1) (t.d.toNat + damage temp - t.allow.toNat)
      s.setTherm (64 * die + region) { t with d := BitVec.ofNat 32 d, temp := temp })

/-- WATCHDOG_EXPIRY (R382). -/
def execWatchdogExpiry (s : State) : Out :=
  .next (if s.lastKick + 12500000 ≤ s.clock.toNat then { s with govmode := true } else s)

/-- KICK: the watchdog starts again, and the firmware governs unless UPD is set (R382). Where the power-controller firmware was refused
the hardware governor stays in charge (R402). -/
def execKick (s : State) : Out :=
  .next (if s.boot.powerRefused then s else { s with lastKick := s.clock.toNat, govmode := false })

/-- HARDB_WRITE: the first since reset counts (Table 18-6). -/
def execHardbWrite (die region : Nat) (v : BitVec 32) (s : State) : Out :=
  .next (
    let t := s.region die region
    if t.hardbWritten then s
    else s.setTherm (64 * die + region) { t with hardb := v, hardbWritten := true })

/-! ## Nightfall and Daybreak -/

/-- Ticks before Nightfall; 0 acts as 4,096. -/
def State.nightDelay (s : State) : Nat := if s.nightdly = 0 then 4096 else s.nightdly.toNat

/-- Every core of a cluster has been gated for the delay, and its strands have nothing outstanding (R365). -/
def State.allGated (s : State) (k : Nat) : Bool :=
  ((List.range 8).all fun i =>
    let c := s.core (k * 8 + i)
    c.gated && decide (c.gatedSince + s.nightDelay ≤ s.clock.toNat)) &&
  s.ctxs.all fun e => clusterOf e.1 != k || (e.2.st.pend.isEmpty && !(s.cmds.any fun c => c.cx == e.1))

/-- Bytes of a strand as Nightfall spills them: its save need without the rows that lie in the keep window (R302, R370). -/
def State.strandNeed (s : State) (cx : Nat) : Nat :=
  match s.taskOf cx with
  | none => 0
  | some t =>
    let c := s.ctx cx
    saveNeed 1 (c.rowBase + c.rows - max 512 c.rowBase) t.spill t.acc
def State.spillBytes (s : State) (k : Nat) : Nat :=
  ((clusterCtxs k).map s.strandNeed).foldl (· + ·) 0

/-- Ticks that gating a cluster takes (R370), and the ramp and reload of a wake (Table 18-5). -/
def gateTicks : Nat := 2500
def wakeTicks : Nat := 12750

/-- A scratchpad byte that survives the gating of cluster `k`: one of another cluster, of a keep window, or of a crew's rows (Table
18-1). -/
def State.survives (s : State) (k key : Nat) : Bool :=
  let row := key % 0x100000 / 128
  key / 0x800000 != k || decide (row < 512) || (List.range 4).any fun i =>
    let c := s.ctx (key / 0x100000 * 4 + i)
    c.task.isSome && decide (c.rowBase ≤ row) && decide (row < c.rowBase + c.rows)
/-- The other rows of a gated cluster are lost: they hold zero and are empty (Table 18-1; assumption 23). -/
def State.gateRows (s : State) (k : Nat) : State :=
  { s with loc := s.loc.filter fun e => s.survives k e.1, locFull := s.locFull.filter fun w => s.survives k (8 * w) }

/-- A strand as Nightfall leaves it: dormant, its SEALED buffers lists alone (R225, R370). -/
def Ctx.spill (c : Ctx) : Ctx :=
  { Ctx.dropFetch c with
    dormant := true
    st := { c.st with active := c.st.active.saved, shadow := c.st.shadow.saved, flight := c.st.flight.map Flight.sealedAway } }

/-- NIGHTFALL: a cluster that has rested long enough is spilled and gated, unless a wake is requested or the save store lacks
room (R365, R370, R372); one in progress ends at its tick, and what it leaves free is offered to dispatches again (assumption 79).
EFF is retained. -/
def execNightfall (cluster : Nat) (s : State) : Out :=
  .next (
    let k := cluster
    let c := s.cluster k
    let now := s.clock.toNat
    let asked := c.waking || inSet (s.die (k / 32)).dayQueue k
    match c.mode with
    | .doze =>
      if now % 4096 = 0 ∧ c.since + s.nightDelay ≤ now ∧ !asked then
        s.setCluster k { c with mode := .nightfall, timer := now + gateTicks }
      else s
    | .active =>
      let n := s.spillBytes k
      if now % 4096 = 0 ∧ !asked ∧ s.holdsStrand k ∧ s.allGated k ∧ n ≤ s.saveRoom (k / 32) then
        let s := (s.setCluster k { c with mode := .nightfall, timer := now + (n + 63) / 64 + gateTicks, spilled := n }).updDie
          (k / 32) fun d => { d with saveUsed := d.saveUsed + n }
        (clusterCtxs k).foldl (fun s cx => if (s.ctx cx).task.isSome then s.updCtx cx Ctx.spill else s) s
      else s
    | .nightfall =>
      if c.timer ≤ now then ((s.gateRows k).setCluster k { c with mode := .night }).wakeDie (k / 32) else s
    | .night | .daybreak => s)

/-- The wake condition of a dormant strand has come: a tick that it waits for, a TIMER that becomes pending, its held access, or an
event that would end the gating of its core (R274, R370). -/
def State.wakes (s : State) (cx : Nat) : Bool :=
  let c := s.ctx cx
  let core := coreOf cx
  c.dormant && !c.dawnHeld &&
  (c.st.ctl.alarm == s.clock && c.st.ctl.alarm != 0 || s.coreFlags core != (s.core core).seen ||
    match c.st.mode with
    | .run | .frozen => true
    | .sleep t _ => decide (t ≤ s.clock.toNat)
    | .hold =>
      match c.hold with
      | none => true
      | some h =>
        s.holdMet cx h ||
        (match h.req with
         | some (.fe _ _ _ _ _) => h.got.isNone && decide (h.presented + h.budget ≤ s.clock.toNat)
         | some (.bar k p l) => (s.barEnds k p l).isSome
         | none => false)
    | .wait | .fuseWait | .ended => false)

/-- DORMANT_WAKE_EVENT: the retention logic asks Daybreak for the cluster. -/
def execDormantWakeEvent (cx : Nat) (s : State) : Out :=
  .next (if s.wakes cx then s.requestWake (clusterOf cx) else s)

/-- The wakes in progress on a die. -/
def State.wakesBusy (s : State) (die : Nat) : Nat :=
  ((List.range 32).filter fun i => (s.cluster (die * 32 + i)).waking).length

/-- The dormant strands of a cluster restored: their lists are replayed and their save space is returned (R371). A cluster that the
Dawn woke counts as restored; its strands stay held (R377). -/
def State.restoreStrands (s : State) (k : Nat) : State :=
  let n := (s.cluster k).spilled
  let s := (clusterCtxs k).foldl (fun s cx =>
    if (s.ctx cx).dormant then (s.updCtx cx fun c => { c with dormant := false }).refillStrand cx else s) s
  let s := { s with boot := { s.boot with dawn := s.boot.dawn.filter fun d => d != k } }
  if n = 0 then s
  else (s.updCluster k fun c => { c with spilled := 0 }).updDie (k / 32) fun d => { d with saveUsed := d.saveUsed - n }

/-- DAYBREAK: the next step of waking a cluster. A request that heads the queue takes one of the four places; a wake from NIGHT
restores the strands at its tick, and its pattern rises from 0 under the slew limit; the place is free at the cluster's first cycle
(R371, R372). The tick of the restore is the greatest that Table 18-5 allows (assumption 99). -/
def execDaybreak (cluster : Nat) (s : State) : Out :=
  .next (
    let k := cluster
    let d := k / 32
    let c := s.cluster k
    let now := s.clock.toNat
    if c.waking then
      if c.mode = .daybreak ∧ c.timer ≤ now then s.restoreStrands k
      else if c.mode = .active ∧ c.eff.getLsbD (now % 16) then s.setCluster k { c with waking := false } else s
    else if (s.die d).dayQueue.head? ≠ some k ∨ 4 ≤ s.wakesBusy d then s
    else
      match c.mode with
      | .nightfall => s
      | .night =>
        (s.setCluster k { c with mode := .daybreak, waking := true, eff := 0
                                 timer := now + wakeTicks + (c.spilled + 63) / 64 }).updDie d
          fun x => { x with dayQueue := x.dayQueue.drop 1 }
      | .doze => (s.setCluster k { c with waking := true }).updDie d fun x => { x with dayQueue := x.dayQueue.drop 1 }
      | .active | .daybreak => s.updDie d fun x => { x with dayQueue := x.dayQueue.drop 1 })

/-! ## Model update (R383 to R387) -/

/-- The bank of an MRAM address, and the first address of a bank's journal area. -/
def bankNo (pa : Nat) : Nat := (pa - mramBase) / bankSize
def journalBase (bank : Nat) : Nat := mramBase + bank * bankSize + 0x1FC0000
/-- An address that a model update of a die may write. -/
def updatable (die pa : Nat) : Bool :=
  inMram pa && bankNo pa / 256 == die && decide (pa < journalBase (bankNo pa))

/-- The 256-byte units of a page that `took` picks are written. -/
def State.putUnits (s : State) (page : Nat) (bs : List Byte) (took : Nat → Bool) : State :=
  ((List.range 16).filter took).foldl (fun s u =>
    { s with
      mem := Memory.store s.mem (page * 4096 + 256 * u) ((bs.drop (256 * u)).take 256)
      bad := s.bad.filter fun w => w / 32 != page * 16 + u }) s

/-- The seal tag of a page. -/
def State.putSeal (s : State) (page tag : Nat) : State :=
  { s with seals := if tag = 0 then FMap.del s.seals page else FMap.put s.seals page (BitVec.ofNat 8 tag) }

/-- A wear counter raised by one, saturating. -/
def State.wearUp (s : State) (page : Nat) : State :=
  let w := FMap.getD s.wear page 0
  { s with wear := FMap.put s.wear page (if w = BitVec.allOnes 32 then w else w + 1) }

/-- Attempts of a page write. One that does not read back leaves each 256-byte unit as it was or as it was to be, and the page its
seal tag (R385, R387; assumption 84). -/
def State.tryPage (s : State) (die page : Nat) (bs : List Byte) (tag : Nat) : Nat → Bool × State
  | 0 => (false, s)
  | n + 1 =>
    let (f, s) := s.drawFree
    let ok := Config.pageWriteHolds f
    let s := (s.putUnits page bs fun u => ok || Config.unitWritten (16 * f + u)).wearUp page
    let s := s.updDie die fun d => { d with mu := { d.mu with retries := BitVec.ofNat 8 (8 - n) } }
    if ok then (true, s.putSeal page tag) else s.tryPage die page bs tag n

/-- Write-check-retry of a page: the error code it leaves, 0 for none (Table 18-9). -/
def State.writePage (s : State) (die page : Nat) (bs : List Byte) (tag : Nat) : Nat × State :=
  if (s.die die).mu.wearlim.toNat ≤ (FMap.getD s.wear page 0).toNat then (5, s)
  else
    let (ok, s) := s.tryPage die page bs tag 8
    (if ok then 0 else 2, s)

def State.updMu (s : State) (die : Nat) (f : Mu → Mu) : State := s.updDie die fun d => { d with mu := f d.mu }
/-- ERR set; the state stays (R384, R385). -/
def State.muRefuse (s : State) (die code : Nat) : State := s.updMu die fun m => { m with err := BitVec.ofNat 8 code }

def execMuOpen (die : Nat) (s : State) : Out :=
  .next (
    match (s.die die).mu.mode with
    | .idle | .done =>
      s.updMu die fun m => { m with mode := .opened, stxn := m.txn, staged := 0, err := 0 }
    | .opened | .staging | .committing => s.muRefuse die 1)

/-- A source page as it enters the journal: as it is, or decrypted from the update's key and encrypted for its destination
(R398). -/
def Mu.stageBytes (m : Mu) (key : Option KeySlot) (bs : List Byte) : List Byte :=
  match key with
  | none => bs
  | some k =>
    (List.range 16).flatMap fun u =>
      let x := (bs.drop (256 * u)).take 256
      let plain := xtsUnit false k.k1 k.k2 (m.stxn.toNat * 2 ^ 32 + m.staged.toNat * 16 + u) x
      xtsUnit true k.k1 k.k2 (m.dst.toNat * 16 + u) plain

/-- The free journal page of a bank. -/
def Mu.freePage (m : Mu) (bank : Nat) : Option Nat :=
  let b := journalBase bank / 4096
  ((List.range 64).map (b + ·)).find? fun p => !(m.journal.any fun j => j.page == p)

def execMuStage (die : Nat) (s : State) : Out :=
  .next (
    let m := (s.die die).mu
    if m.mode ≠ .opened ∧ m.mode ≠ .staging then s.muRefuse die 1
    else
      let dst := m.dst.toNat * 4096
      let src := m.src.toNat * 4096
      if !updatable die dst || !inLpddr src then s.muRefuse die 4
      else
        match m.freePage (bankNo dst) with
        | none => s.muRefuse die 3
        | some p =>
          let key := if m.keyslot = 0 then none else some (FMap.getD s.keys m.keyslot.toNat {})
          let bs := m.stageBytes key (s.peek src 4096)
          let (e, s) := s.writePage die p bs m.keyslot.toNat
          if e ≠ 0 then s.muRefuse die e
          else
            s.updMu die fun m =>
              { m with
                mode := .staging, staged := m.staged + 1, err := 0
                journal := m.journal ++ [{ txn := m.stxn.toNat, dest := dst / 4096, page := p, crc := crc32c bs,
                                           sealTag := m.keyslot.toNat }] })

/-- COMMIT: a commit record in every journal that the transaction used; the copy ends later (R384). -/
def execMuCommit (die : Nat) (s : State) : Out :=
  .next (
    if (s.die die).mu.mode ≠ .staging then s.muRefuse die 1
    else
      let (f, s) := s.drawFree
      s.updMu die fun m =>
        { m with
          mode := .committing, err := 0, doneAt := s.clock.toNat + Config.unitDelay f
          journal := m.journal.map fun j => if j.txn = m.stxn.toNat then { j with committed := true } else j })

def execMuAbort (die : Nat) (s : State) : Out :=
  .next (
    let m := (s.die die).mu
    if m.mode ≠ .opened ∧ m.mode ≠ .staging then s.muRefuse die 1
    else s.updMu die fun m => { m with mode := .idle, err := 0, journal := m.journal.filter fun j => j.committed || j.txn != m.stxn.toNat })

/-- Staged pages copied to their destinations in staging order, up to the first error. -/
def State.copyPages (s : State) (die : Nat) : List Journal → Nat × State
  | [] => (0, s)
  | j :: js =>
    let (e, s) := s.writePage die j.dest (Memory.bytes s.mem (j.page * 4096) 4096) j.sealTag
    if e ≠ 0 then (e, s)
    else s.copyPages die js

/-- MU_COMMIT_DONE: the copy of a committing transaction ends. An error leaves the transaction committed but unfinished, for boot to
complete (R385). -/
def execMuCommitDone (die : Nat) (s : State) : Out :=
  .next (
    let m := (s.die die).mu
    if m.mode ≠ .committing ∨ m.failed then s
    else
      let (e, s) := s.copyPages die (m.journal.filter fun j => j.txn == m.stxn.toNat)
      s.updMu die fun m =>
        if e ≠ 0 then { m with err := BitVec.ofNat 8 e, failed := true }
        else { m with mode := .done, journal := m.journal.filter fun j => j.txn != m.stxn.toNat })

/-- The journals of a die settled at boot: uncommitted pages are discarded, committed ones copied again. Those stay in the journal where
a page cannot be written, for the next boot (R386; assumption 84). -/
def State.settleJournal (s : State) (die : Nat) : State :=
  let js := (s.die die).mu.journal.filter Journal.committed
  let (e, s) := s.copyPages die js
  s.updMu die fun m =>
    { m with mode := .idle, journal := if e = 0 then [] else js, staged := 0, stxn := 0, err := BitVec.ofNat 8 e, retries := 0
             failed := false }

/-! ## The Dusk save (R357 to R361, R373 to R376, R381) -/

/-- Sectors that an abandoned command still owes its barrier (R358). -/
def State.owedSectors (s : State) (c : Cmd) : Nat :=
  if c.code ≠ 0 ∨ !c.started then c.sectors
  else
    let rs := s.outReqs.filter fun r => r.cmd == some c.id
    (rs.map fun r => r.sectors).foldl (· + ·) 0 + (rs.flatMap fun r => r.secs).dedup.length

/-- A scratchpad key in a keep window (Table 18-1). -/
def inKeep (k : Nat) : Bool := decide (k % 0x100000 / 128 < 512)

/-- A buffer as the image holds it: one filled by `mpush.w` alone is its list, any other is held whole (R360). -/
def Buffer.imaged (b : Buffer) : Buffer := if b.sealed || (!b.mixed && !b.fills.isEmpty) then { b with rows := [] } else b

/-- An entry of the in-flight table as the image holds it: promised data that has arrived is held, and what has not is an access
(R358). -/
def Flight.imaged (now : Nat) (f : Flight) : Flight :=
  let e := f.sealedAway
  match e.lands with
  | none => e
  | some t =>
    if t ≤ now then { e with again := none, lands := some 0 }
    else match e.op with
      | .push _ _ _ (some _) => { e with again := some { places := [], how := 0 } }
      | _ => e

/-- A strand as the image holds it: what is held is withdrawn, with the limit of a timed `bar.wait`, and a stall abandoned; latches
and results in flight stay (R357, R360). `stops` is whether its task is being suspended; `reqs` are its PEER requests without an
answer. -/
def Ctx.imaged (now : Nat) (stops : Bool) (reqs : List OutReq) (c : Ctx) : Ctx :=
  { Ctx.dropFetch c with
    hold := none, inStall := false, freeze := stops, probe := none, probed := false, dormant := true, dawnHeld := true
    eligFor := 0, cyc := 0, landRegs := [], landLatches := []
    reissue := some (c.reissue.getD reqs)
    st := { c.st with
      active := c.st.active.imaged, shadow := c.st.shadow.imaged
      flight := c.st.flight.map (Flight.imaged now)
      barLimit := c.keptLimit
      mode := match c.st.mode with
        | .hold | .wait => .run
        | .frozen => if stops then .frozen else .run
        | m => m } }

/-- The task is being suspended for a fault. -/
def Task.stops (t : Task) : Bool :=
  match t.phase with
  | .freezing .suspended _ _ _ | .saving .suspended _ _ _ _ => true
  | _ => false

/-- A resident task as the image holds it. A pre-emption or a parking in progress is given up: its strands lie in the image as they
stand. A suspension goes on after the release (assumption 83). -/
def Task.imaged (t : Task) : Task :=
  match t.phase with
  | .freezing .suspended f m y | .saving .suspended _ f m y => { t with phase := .freezing .suspended f m y }
  | _ => { t with phase := .rest, parkWord := none }

/-- What of a die's state survives without power: its journals and nothing else. -/
def Die.off (d : Die) : Die := { mu := { journal := d.mu.journal } }

/-- The Dusk image of the state that the freeze leaves (R360). -/
def State.imageNow (s : State) : Image :=
  let tasks := s.tasks.filter fun e => e.2.state == .resident && e.2.phase != .binding
  let stops (c : Ctx) : Bool := ((c.task.bind fun k => FMap.find s.tasks k).map Task.stops).getD false
  { valid := true, crcOk := true, clock := s.clock, modid := s.boot.modid
    ctxs := (s.ctxs.filter fun e => e.2.task.isSome).map fun e =>
      (e.1, e.2.imaged s.clock.toNat (stops e.2) (s.outReqs.filter fun r => r.cmd.isNone && r.cx == e.1))
    cores := s.cores.map fun e => (e.1, { running := e.2.running, lns := e.2.lns, working := e.2.working })
    tasks := tasks.map fun e => (e.1, e.2.imaged)
    recs := tasks.map fun e => (e.1, Memory.word s.mem e.1, Memory.word s.mem (e.1 + 120))
    loc := s.loc.filter fun e => inKeep e.1
    locFull := s.locFull.filter fun w => inKeep (8 * w)
    locBad := s.locBad.filter fun w => inKeep (8 * w)
    seqs := s.seqs
    owed := (s.cmds.filterMap fun c => c.barrier.map fun k => (k, s.owedSectors c)).filter fun o => inKeep o.1 && o.2 != 0 }

/-- The Dusk save: cores freeze, bundles whose accesses have been performed commit, work in progress is settled, the image is written,
and the module turns off. LPDDR6 and scratchpad rows above the keep windows are lost; before a Dawn release the image stays as it
was (R361). The holdup energy goes to the idle counter (R406). -/
def State.dusk (s : State) : State :=
  if !s.boot.powered then s
  else
    let s := s.ctxs.foldl (fun s e => s.commitWhen e.1 true Hold.commits) s
    let img := if s.boot.held then s.image else some s.imageNow
    let (f, s) := s.drawFree
    { s with
      agenda := [], iss := {}
      mem := s.mem.filter fun e => decide (4 * lpddrSize ≤ e.1)
      full := []
      loc := s.loc.filter fun e => inKeep e.1
      locFull := s.locFull.filter fun w => inKeep (8 * w)
      bad := s.bad.filter fun w => inMram (8 * w)
      locBad := s.locBad.filter fun w => inKeep (8 * w)
      ctxs := [], cores := s.cores.map fun e => (e.1, { working := e.2.working }), clusters := []
      dies := s.dies.map fun d => (d.1, d.2.off)
      therm := [], tasks := [], records := [], cmds := [], reds := [], mix := [], fns := [], funcJob := [], sems := [], tie := 0
      linkUp := [], linkFlit := [], i3cAddr := none, spdm := [], ports := [], outReqs := [], seqs := [], applied := [], replies := [], repliesDue := []
      lostLinks := []
      held := [], idleEnergy := s.idleEnergy + Config.energy f
      nightdly := 12500000, govmode := true, updPend := false, lastKick := 0
      boot := { powered := false, bootAt := none }
      image := img }

/-- OVERTEMP_SHUTDOWN: the Dusk save, after which the module stays off until its input power is removed (R381). -/
def execOvertempShutdown (s : State) : Out :=
  .next (if s.boot.powered then { s.dusk with boot := { s.dusk.boot with locked := true } } else s)

/-- POWER_FAIL: the Dusk save; of a module that is off, the removal of its input power. -/
def execPowerFail (s : State) : Out :=
  .next (if s.boot.powered then s.dusk else { s with boot := { s.boot with locked := false } })

/-! ## Boot and the Dawn restore (R362, R376, R377, R386, R388) -/

/-- The state of a valid image written back: its strands, if it has any, held until the release, its clusters queued for Daybreak in ascending
order. A crew that is still to be suspended holds its save need (R302). -/
def State.dawn (s : State) (img : Image) : State :=
  let ks := (img.ctxs.map fun e => clusterOf e.1).dedup
  let s := { s with
    clock := img.clock, ctxs := img.ctxs, cores := img.cores, tasks := img.tasks
    loc := img.loc, locFull := img.locFull, locBad := img.locBad, seqs := img.seqs
    lastKick := img.clock.toNat
    boot := { s.boot with modid := img.modid, image := 1, held := !img.ctxs.isEmpty, dawn := ks } }
  let s := (img.tasks.filter fun e => e.2.leaving).foldl (fun s e =>
    s.updDie e.2.die fun d => { d with saveUsed := d.saveUsed + e.2.need }) s
  ks.foldl State.requestWake s

/-- Boot: the journals settle, a valid image is restored, and READY is set; boot or management firmware that the root of
trust refuses stops it, and power-controller firmware that it refuses is not run (R402). -/
def State.bootUp (s : State) : State :=
  let s := { s with boot := { s.boot with powered := true, bootAt := none } }
  let (f, s) := s.drawFree
  let s := { s with boot := { s.boot with fw := f, powerRefused := !fwAccepted f 2 } }
  if !(fwAccepted f 0 && fwAccepted f 1) then s
  else
    let s := [0, 1, 2, 3].foldl State.settleJournal s
    let s := match s.image with
      | none => { s with boot := { s.boot with image := 0 } }
      | some img =>
        if img.valid && img.crcOk then s.dawn img
        else { s with image := none, boot := { s.boot with image := 2 } }
    { s with boot := { s.boot with ready := true } }

/-- POWER_ON_BOOT: of a module that is off and not locked, or that has been reset and not booted. `%clock` counts from 0 at module
reset (Table 04-4), unless an image holds its tick (R361). -/
def execPowerOnBoot (s : State) : Out :=
  .next (
    if s.boot.powered then (if s.boot.bootAt.isSome then s.bootUp else s)
    else if s.boot.locked then s
    else { s with clock := 0 }.bootUp)

/-- The Dawn release: every restored strand may issue, once the last restore has ended (R362, R377). The scheduler writes back the
words W0 and W15 that it holds, and the sectors that abandoned commands owed settle ABORTED (R358). A cluster that Nightfall has gated
meanwhile wakes as for any dormant strand. -/
def State.dawnRelease (s : State) : State :=
  if s.boot.held && s.boot.releaseReq && s.boot.dawn.isEmpty then
    let s := { s with boot := { s.boot with held := false, releaseReq := false } }
    let s := ((s.image.map Image.recs).getD []).foldl (fun s r => (s.schedWord r.1 r.2.1).setLink r.1 r.2.2) s
    let s := ((s.image.map Image.owed).getD []).foldl (fun s o => s.settle (some o.1) o.2 6) s
    s.ctxs.foldl (fun s e =>
      if e.2.dawnHeld then (s.ungate (coreOf e.1)).updCtx e.1 fun c => { c with dawnHeld := false } else s) s
  else s

/-- RELEASE: kept until every cluster has been restored. -/
def execRelease (s : State) : Out :=
  .next (if s.boot.held then { s with boot := { s.boot with releaseReq := true } }.dawnRelease else s)

/-- DISCARD: every restored context is freed and its cluster returns to NIGHT, unless a dispatch has asked for it as well (R371); the
keep windows stay (R377). -/
def execDiscard (s : State) : Out :=
  .next (
    if !s.boot.held then s
    else
      let gone := s.ctxs.filter fun e => e.2.dawnHeld
      let ks := (gone.map fun e => clusterOf e.1).dedup
      let keys := gone.filterMap fun e => e.2.task
      let s := { s with
        ctxs := s.ctxs.filter fun e => !e.2.dawnHeld
        tasks := s.tasks.filter fun e => !keys.contains e.1
        cores := s.cores.map fun e => (e.1, if ks.contains (e.1 / 8) then { e.2 with lns := e.2.lns.release } else e.2)
        dies := s.dies.map fun d => (d.1, { d.2 with
          dayQueue := d.2.dayQueue.filter fun k => !ks.contains k || s.reservedIn k
          saveUsed := d.2.saveUsed - ((ks.filter fun k => k / 32 == d.1).map fun k => (s.cluster k).spilled).foldl (· + ·) 0
            - ((s.tasks.filter fun e => keys.contains e.1 && e.2.die == d.1 && e.2.leaving).map fun e => e.2.need).foldl (· + ·) 0 })
        boot := { s.boot with held := false, releaseReq := false, dawn := [], image := 3 } }
      (ks.filter fun k => !s.holdsStrand k && !s.reservedIn k).foldl (fun s k =>
        s.updCluster k fun c => { c with mode := .night, waking := false, spilled := 0 }) s)

end Sys2Proof.Machine
end

