-- ==== Sys2Proof/Machine/Links.lean ====
section
/-!
DEFINITION. Links: shards between modules (R323 to R326, R394, R395), scale-up ports (R396), tamper alarms (R401), energy and
the counters' clears (R393, R406, R407).
-/
namespace Sys2Proof.Machine

def State.port (s : State) (p : Nat) : Port := FMap.getD s.ports p {}
def State.updPort (s : State) (p : Nat) (f : Port → Port) : State := { s with ports := FMap.put s.ports p (f (s.port p)) }
/-- A 32-bit counter raised by `n`, saturating. -/
def satAdd (x : BitVec 32) (n : Nat) : BitVec 32 := BitVec.ofNat 32 (min (2 ^ 32 - 1) (x.toNat + n))

/-! ## Requests that arrive (R325, R394) -/

/-- A request carries a tag of the filter: all but loads. -/
def ShardOp.writes : ShardOp → Bool
  | .load _ _ => false
  | .store _ _ _ | .atomic _ _ _ _ | .reduce _ _ _ _ _ | .addElems _ _ _ => true

/-- The bytes that a request moves. -/
def ShardOp.size : ShardOp → Nat
  | .load _ n => n
  | .store _ d _ => d.length
  | .atomic _ _ _ _ => 8
  | .reduce _ _ _ _ _ => 128
  | .addElems _ _ d => d.length

/-- Sequence number `a` is older than `b`, modulo 2^21. -/
def olderSeq (a b : Nat) : Bool := let d := (b + 2 ^ 21 - a) % 2 ^ 21; decide (0 < d) && decide (d < 2 ^ 20)

/-- A tag of the filter that a home keeps for the source module and die of a tag. -/
def Applied.inFilter (a : Applied) (t : Tag) (home : Nat) : Bool := a.tag.mod == t.mod && a.tag.die == t.die && a.home == home
/-- That filter, oldest tag first. -/
def State.filterOf (s : State) (t : Tag) (home : Nat) : List Applied := s.applied.filter fun a => a.inFilter t home
/-- A tag applied with its result; the filter keeps the last 4,096. -/
def State.noteApplied (s : State) (t : Tag) (home : Nat) (v : BitVec 1024) : State :=
  let old := s.filterOf t home
  let rest := s.applied.filter fun a => !a.inFilter t home
  let new : Applied := { tag := t, home := home, result := v }
  { s with applied := rest ++ (old ++ [new]).drop (old.length + 1 - 4096) }
/-- An answer sent, with its CRC; one that no port can carry waits at its source (R394, R396). -/
def State.reply (s : State) (t : Tag) (code : Option Byte) (v : BitVec 1024) : State :=
  let a : Answer := { tag := t, code := code, value := v, crc := answerCrc t code v }
  if (List.range 9).any s.carries then { s with replies := s.replies ++ [a] } else { s with repliesDue := s.repliesDue ++ [a] }

/-- A good request performed at this module, by a home where its address translates. One that waits for a reduction counter is tried
again in the next tick. -/
def State.applyShard (s : State) (sh : Shard) (home : Option Nat) : State :=
  match s.homeApply (sh.port % 4) sh.asn sh.op with
  | (.done, v, s') =>
    (match home with
      | some h => if ShardOp.writes sh.op then s'.noteApplied sh.tag h v else s'
      | none => s').reply sh.tag (some 0) v
  | (.waits, _, _) => { s with inputs := s.inputs ++ [(s.clock.toNat + 1, .step (.shardReceive sh))] }
  | (e, _, s') => s'.reply sh.tag (some (BitVec.ofNat 8 e.code)) 0

/-- A good writing request at its home: one in the filter is answered with the stored result, one older than all of a full filter is
discarded (R325). -/
def State.filterShard (s : State) (sh : Shard) (home : Nat) : State :=
  let f := s.filterOf sh.tag home
  match f.find? fun a => a.tag == sh.tag with
  | some a => s.reply sh.tag (some 0) a.result
  | none => if 4096 ≤ f.length ∧ f.all (fun a => olderSeq sh.tag.seq a.tag.seq) then s else s.applyShard sh (some home)

/-- The check of a request's CRC (R394). -/
def Shard.crcOk (sh : Shard) : Bool := sh.crc == shardCrc sh.tag sh.asn sh.op

/-- SHARD_RECEIVE: the CRC check, the tag filter of the home, and the request. A port that is down or retrains brings none (R396). -/
def execShardReceive (sh : Shard) (s : State) : Out :=
  .next (
    if !s.carries sh.port then s
    else if !Shard.crcOk sh then
      let s := s.updPort sh.port fun p => { p with crcdrop := satAdd p.crcdrop 1 }
      if sh.headerOk then s.reply sh.tag none 0 else s
    else
      match s.homeOfOp (sh.port % 4) sh.asn sh.op with
      | some h => if ShardOp.writes sh.op then s.filterShard sh h else s.applyShard sh (some h)
      | none => s.applyShard sh none)

/-! ## Requests that were sent (R326, R395) -/

/-- The shard of an outstanding request, as each of its transmissions carries it through its port (R394, R395). -/
def State.shardOf (s : State) (r : OutReq) : Shard :=
  let asn := s.pasnOf r.cx
  { tag := r.tag, asn := asn, op := r.op, port := r.port, crc := shardCrc r.tag asn r.op, headerOk := true }

/-- A strand's load met an uncorrectable error at its home: RES, or every bit of a vector's lanes in k15 (Table 19-3). -/
def State.loadEcc (s : State) (cx : Nat) (vec : Bool) : State :=
  (s.count cx .eccu 1).updCtx cx fun c =>
    let lanes := c.st.putK 15 (c.st.getK 15 ||| BitVec.ofNat 256 (2 ^ 128 - 1))
    let flag : Strand := { c.st with ctl := c.st.ctl.update .resFlag }
    { c with st := if vec then lanes else flag }

/-- A strand's request ends: its answer lands; one in error lands as zero (R180, R392). -/
def State.endStrandReq (s : State) (r : OutReq) (code : Nat) (v : BitVec 1024) : State :=
  let vec := (((s.ctx r.cx).st.pend.find? fun p => some p.id == r.pend).map Pend.vec).getD false
  let s := if code = 0 then s.count r.cx .peer (ShardOp.moved r.op v.toNat)
    else if code = 1 then (if ShardOp.isLoad r.op then s.loadEcc r.cx vec else s.count r.cx .eccu 1) else s.remFail r.cx
  match r.pend with
  | none => s
  | some id => s.landPeer r.cx id (if code = 0 then v else 0)

/-- A piece that an answer brought is written, and counted on both sides; the code it ends with. -/
def State.landPiece (s : State) (cx id : Nat) (p : Piece) (bs : List Byte) : Nat × State :=
  let n := s.wroteAt cx p.dst p.n
  let (code, s) := s.writePlace cx p.dst bs
  (code,
    if code ≠ 0 then s.blur cx p.dst bs
    else ((s.updCmd id fun c => { c with written := c.written ++ [p] }).countPlace cx p.src p.n).countPlace cx p.dst n)

/-- The pieces that answers brought for a sector whose answers are all there: they are written, and words that the command has now
written whole are full (R240, R242). A sector that met an uncorrectable error is not written; after another error a piece that failed
may have left some bytes (R389). The answer is the code that the sector settles with. -/
def State.landSector (s : State) (cx id : Nat) (k : Nat × Nat) (code : Nat) : Nat × State :=
  let arrived := ((s.cmds.find? fun c => c.id == id).map Cmd.arrived).getD []
  let mine := arrived.filter fun e => e.1.dst.sector == k
  let s := s.updCmd id fun c => { c with arrived := c.arrived.filter fun e => e.1.dst.sector != k }
  if code = 1 then (1, s)
  else
    let (code, s) := mine.foldl (fun acc e =>
      match e.2 with
      | some bs => let (c, s) := acc.2.landPiece cx id e.1 bs; (worse acc.1 c, s)
      | none => let (bs, s) := acc.2.freeBytes e.1.n; (acc.1, s.blur cx e.1.dst bs)) (code, s)
    let done := ((s.cmds.find? fun c => c.id == id).map Cmd.written).getD []
    (code, ((mine.flatMap fun e => e.1.words).filter fun w => covered done w 8).foldl (fun s w => s.setPlaceFull cx w true) s)

/-- The sectors in which a command's request has its part: each is settled once no other request of the command may still fail it,
with the lowest code that any of them met (R322, R390), and what they brought is written first. -/
def State.endSectors (s : State) (r : OutReq) (c : Cmd) (code : Nat) : State :=
  r.secs.foldl (fun s k =>
    let before := (((s.cmds.find? fun d => d.id == c.id).map Cmd.errs).getD []).foldl
      (fun e x => if x.1 = k then worse e x.2 else e) 0
    if s.outReqs.any (fun q => q.cmd == some c.id && q.secs.contains k) then
      (if code = 0 then s else s.updCmd c.id fun (d : Cmd) => { d with errs := d.errs ++ [(k, code)] })
    else
      let (code, s) := s.landSector r.cx c.id k (worse before code)
      s.settle c.barrier 1 code) s

/-- The bytes of adjacent pieces, each piece with its own. -/
def pieceBytes : List Piece → List Byte → List (Piece × List Byte)
  | [], _ => []
  | p :: ps, bs => (p, bs.take p.n) :: pieceBytes ps (bs.drop p.n)

/-- A command's request ends, and with it the sectors that it alone settles and its part in the others. -/
def State.endCmdReq (s : State) (r : OutReq) (c : Cmd) (code : Nat) (v : BitVec 1024) : State :=
  let n := ShardOp.size r.op
  let s := if code = 1 then s.count r.cx .eccu 1 else if code ≠ 0 then s.remFail r.cx else s
  let s := match r.dst with
    | some p =>
      let cells := cutSectors [{ src := .peer r.mod 0, dst := p, n := n, dfe := r.dfe }]
      let brought : List (Piece × Option (List Byte)) :=
        if code = 0 then (pieceBytes cells (leBytes n v.toNat)).map fun (x : Piece × List Byte) => (x.1, some x.2)
        else cells.map fun x => (x, none)
      s.updCmd c.id fun c => { c with arrived := c.arrived ++ brought }
    | none => if code = 0 then s.count r.cx .peer n else s
  (s.settle c.barrier r.sectors code).endSectors r c code

/-- A request ends, with a code of Table 19-1: what it brought lands, and requests that it held back are sent (R323). -/
def State.endReq (s : State) (r : OutReq) (code : Nat) (v : BitVec 1024) : State :=
  let s := ({ s with outReqs := s.outReqs.filter fun q => q.tag != r.tag } : State).ungate (coreOf r.cx)
  let s := match r.cmd with
    | none => s.endStrandReq r code v
    | some id =>
      match s.cmds.find? fun (c : Cmd) => c.id == id with
      | none => s
      | some c => s.endCmdReq r c code v
  s.sendHeld

def State.reqOf (s : State) (t : Tag) : Option OutReq := s.outReqs.find? fun r => r.tag == t

/-- Sent again, or ended in LINK_LOST after the third retransmission. A transmission that no port can carry stays at its source and
counts on no port (R396). -/
def State.resend (s : State) (r : OutReq) : State :=
  if r.tries < 3 then
    let (f, s) := s.drawFree
    let p := s.sendPort f
    let s : State := { s with outReqs := s.outReqs.map fun (q : OutReq) =>
      if q.tag = r.tag then { q with tries := q.tries + 1, sent := s.clock.toNat, port := p } else q }
    if s.carries p then s.updPort p fun x => { x with retx := satAdd x.retx 1 } else s
  else (s.updPort r.port fun x => { x with lost := satAdd x.lost 1 }).endReq r 2 0

/-- SHARD_NAK. -/
def execShardNak (n : PortNak) (s : State) : Out :=
  .next (
    if !s.carries n.port then s
    else match s.reqOf n.tag with
    | none => s
    | some r => s.resend r)

/-- RETRANSMIT_TIMEOUT: no answer within 50,000 ticks of the last transmission. -/
def execRetransmitTimeout (tag : Tag) (s : State) : Out :=
  .next (
    match s.reqOf tag with
    | none => s
    | some r => if r.sent + 50000 ≤ s.clock.toNat then s.resend r else s)

/-- SHARD_ACK: the destination's answer, with a code of Table 19-1 and a value. One that fails its CRC is dropped and counted (R394), and
the request is sent again when its time has come (R395). -/
def execShardAck (tag : Tag) (code : Byte) (v : PortAnswer) (s : State) : Out :=
  .next (
    if !s.carries v.port then s
    else if v.crc ≠ answerCrc tag (some code) v.value then s.updPort v.port fun p => { p with crcdrop := satAdd p.crcdrop 1 }
    else match s.reqOf tag with
    | none => s
    | some r => s.endReq r code.toNat v.value)

/-! ## Scale-up ports (R396) -/

/-- A rate change: the port retrains, unless it has gone down. -/
def State.stepPort (s : State) (p : Nat) (rate : BitVec 2) : State :=
  let (f, s) := s.drawFree
  s.updPort p fun x =>
    { x with
      rate := rate, steps := satAdd x.steps 1, low := 0, highSince := none
      retrain := if rate = 3 then none else some (s.clock.toNat + Config.unitDelay f % 25001) }

/-- EYE_MARGIN_SAMPLE. -/
def execEyeMarginSample (p : Nat) (margins : List Byte) (s : State) : Out :=
  .next (
    let m := (margins.map (·.toNat)).foldl min 255
    let x := s.port p
    let low := if m < x.dnth.toNat then x.low + 1 else 0
    let high := if x.upth.toNat ≤ m then some (x.highSince.getD s.clock.toNat) else none
    let s := s.updPort p fun x => { x with minmarg := BitVec.ofNat 8 m, low := low, highSince := high }
    if x.rate = 3 then s
    else if 16 ≤ low then s.stepPort p (x.rate + 1)
    else if x.autoup ∧ x.rate ≠ 0 ∧ (high.map fun t => decide (t + 2 ^ 30 ≤ s.clock.toNat)).getD false then
      s.stepPort p (x.rate - 1)
    else s)

/-- The answers that waited for a port are sent. -/
def State.sendReplies (s : State) : State :=
  if (List.range 9).any s.carries then { s with replies := s.replies ++ s.repliesDue, repliesDue := [] } else s
/-- PORT_RETRAIN_END. -/
def execPortRetrainEnd (p : Nat) (s : State) : Out := .next (s.updPort p fun x => { x with retrain := none }).sendReplies
/-- PORT_UP: one rate up, or a down port at the lowest rate. -/
def execPortUp (p : Nat) (s : State) : Out :=
  .next (if (s.port p).rate = 0 then s else s.stepPort p ((s.port p).rate - 1))

/-! ## Tamper alarms (R401) -/

/-- The cause bits of TAMPER (Table 19-6). -/
def Tamper.bit : Tamper → BitVec 5
  | .volt => 1
  | .clock => 2
  | .temp => 4
  | .mesh => 8

/-- A SEALED buffer cleared. -/
def Buffer.erase (b : Buffer) : Buffer := if b.sealed then {} else b

/-- A sealed `mpush.w` in flight, whose rows a tamper alarm clears with the buffer that they are for. -/
def FlightOp.isSealed : FlightOp → Bool
  | .push _ _ sl _ => sl
  | _ => false

/-- TAMPER_ALARM: every key slot erased, every SEALED buffer cleared, with what is on its way to one. -/
def execTamperAlarm (cause : Tamper) (s : State) : Out :=
  .next { s with
    keys := []
    tamper := s.tamper ||| 16 ||| Tamper.bit cause
    ctxs := s.ctxs.map fun e => (e.1, { e.2 with
      st := { e.2.st with active := e.2.st.active.erase, shadow := e.2.st.shadow.erase
                          flight := e.2.st.flight.filter fun f => !f.op.isSealed } }) }

/-! ## Counters (R393, R406, R407) -/

/-- ERRCNT_CLR. -/
def execErrcntClr (die : Nat) (s : State) : Out :=
  .next (s.updDie die fun d => { d with corr := 0, uncorr := 0, lastPa := 0 })
/-- SLOTCLR. -/
def execSlotclr (slot : Byte) (s : State) : Out :=
  .next { s with acct := s.acct.filter fun e => e.1 / 16 != slot.toNat }

/-- ENERGY_INTERVAL: `energy` nanojoules divided by the context-ticks that each slot held in the cluster, the remainder of each
slot's microjoules kept. -/
def execEnergyInterval (cluster energy : Nat) (s : State) : Out :=
  .next (
    let mine := s.held.filter fun e => e.1 / 256 == cluster
    let total := (mine.map (·.2)).foldl (· + ·) 0
    let s := { s with held := s.held.filter fun e => e.1 / 256 != cluster }
    if total = 0 then { s with idleEnergy := s.idleEnergy + energy }
    else mine.foldl (fun s e =>
      let slot := e.1 % 256
      let nj := FMap.getD s.energyRem slot 0 + energy * e.2 / total
      ({ s with energyRem := FMap.put s.energyRem slot (nj % 1000) }).countSlot slot .energy (nj / 1000)) s)

end Sys2Proof.Machine
end

