-- ==== Sys2Proof/Machine/Stream.lean ====
section
/-!
DEFINITION. Stream: the semaphores, FUNC_JOB and stream-head registers, Function Level Reset, and the command front end with
its packets (R13 to R45).
-/
namespace Sys2Proof.Machine

/-! ## FUNC_JOB and the semaphores (R14, R16 to R18) -/

def State.head (s : State) (st : StreamId) : StreamHead := FMap.getD (s.fn st.port st.fn).heads st.head {}
def State.setHead (s : State) (st : StreamId) (h : StreamHead) : State :=
  s.updFn st.port st.fn fun f => { f with heads := FMap.put f.heads st.head h }
def State.updHead (s : State) (st : StreamId) (f : StreamHead → StreamHead) : State := s.setHead st (f (s.head st))

/-- SH_STATUS.BUSY (Table 01-9). The model counts a packet as in progress while it waits after its decoding; between two body
packets of a level-0 pk.loop, while a pk.launch waits for READY and while a pk.loop waits for WPTR, BUSY reads 0 (assumption
29). -/
def StreamHead.busy (h : StreamHead) : Bool := h.wait != .none || !h.levels.isEmpty

/-- FUNC_JOB_WRITE: ignored while a stream head of the VF has EN or BUSY set. -/
def execFuncJobWrite (port vf : Nat) (v : Word) (s : State) : Out :=
  .next (
    if (List.range 4).any fun i => let h := s.head ⟨port, vf + 1, i⟩; h.en || h.busy then s
    else { s with funcJob := FMap.put s.funcJob (port * 64 + vf) (v &&& 0x80000FFF#64) })

/-- One write of a semaphore under Table 01-4: the owner and the tick of the last claim after it. -/
def semWrite (own : BitVec 2 × Nat) (port : Nat) (code : BitVec 2) (now : Nat) : BitVec 2 × Nat :=
  let me : BitVec 2 := BitVec.ofNat 2 (port + 1)
  if code = me then (if own.1 = 0 ∨ own.1 = me then (me, now) else own)
  else if code = 0 then (if own.1 = me then (0, own.2) else own)
  else if code = 3 then (if own.1 ≠ 0 ∧ own.1 ≠ me ∧ own.2 + 1250000000 ≤ now then (0, own.2) else own)
  else own

/-- Writes of both ports to one semaphore in one cycle (R18): the state they leave, and the tie bit. -/
def semBoth (own : BitVec 2 × Nat) (tie : Nat) (c0 c1 : BitVec 2) (now : Nat) : (BitVec 2 × Nat) × Nat :=
  if own.1 = 0 then
    if c0 = 1 ∧ c1 = 2 then ((BitVec.ofNat 2 (tie + 1), now), 1 - tie)
    else if c0 = 1 then ((1, now), tie)
    else if c1 = 2 then ((2, now), tie)
    else (own, tie)
  else if own.1 = 1 then (semWrite (semWrite own 0 c0 now) 1 c1 now, tie)
  else (semWrite (semWrite own 1 c1 now) 0 c0 now, tie)

/-- A write of SEM_n by a port. The second port's write of a cycle is settled together with the first. -/
def State.semaphore (s : State) (port n : Nat) (code : BitVec 2) : State :=
  let x := FMap.getD s.sems n {}
  let now := s.clock.toNat
  if x.cycle = some now ∧ x.firstPort ≠ port then
    let own := (x.owner0, x.since0)
    let (r, tie) := if port = 0 then semBoth own s.tie code x.firstCode now else semBoth own s.tie x.firstCode code now
    { s with sems := FMap.put s.sems n { x with owner := r.1, since := r.2 }, tie := tie }
  else
    let r := semWrite (x.owner, x.since) port code now
    let y : Sem := { owner := r.1, since := r.2, cycle := some now, owner0 := x.owner, since0 := x.since, firstPort := port
                     firstCode := code }
    { s with sems := FMap.put s.sems n y }

def execSemClaim (port n : Nat) (s : State) : Out := .next (s.semaphore port n (BitVec.ofNat 2 (port + 1)))
def execSemRelease (port n : Nat) (s : State) : Out := .next (s.semaphore port n 0)
def execSemForcedRelease (port n : Nat) (s : State) : Out := .next (s.semaphore port n 3)

/-- The read view of SEM_n (Table 01-3). -/
def State.semRead (s : State) (n : Nat) : BitVec 32 :=
  let x := FMap.getD s.sems n {}
  if x.owner = 0 then 0
  else BitVec.ofNat 32 (min 255 ((s.clock.toNat - x.since) / 2 ^ 24) * 2 ^ 24 + x.owner.toNat)

/-! ## Stream positions (R20, R21, R32, R33, R44) -/

def StreamHead.size (h : StreamHead) : Nat := 2 ^ h.log2
/-- The level that packets are read from. -/
def StreamHead.depth (h : StreamHead) : Nat := h.levels.length
/-- The offset in the ring, or the address in the buffer, of the packet at hand. -/
def StreamHead.pos (h : StreamHead) : Nat :=
  match h.levels with
  | [] => h.rptr
  | l :: _ => l.pos
def StreamHead.setPos (h : StreamHead) (p : Nat) : StreamHead :=
  match h.levels with
  | [] => { h with rptr := p % h.size }
  | l :: r => { h with levels := { l with pos := p } :: r }
/-- The current level's predicate. -/
def StreamHead.pred (h : StreamHead) : Bool :=
  match h.levels with
  | [] => h.pred0
  | l :: _ => l.pred
def StreamHead.setPred (h : StreamHead) (b : Bool) : StreamHead :=
  match h.levels with
  | [] => { h with pred0 := b }
  | l :: r => { h with levels := { l with pred := b } :: r }
/-- The loop that is active at the current level. -/
def StreamHead.inLoop (h : StreamHead) : Option LoopState := h.loop.bind fun l => if l.level = h.depth then some l else none

/-- A packet counts in SH_DONE (R44). -/
def StreamHead.count (h : StreamHead) : StreamHead := { h with done := h.done + 1 }

/-- The level moves past `n` bytes. At the end of a loop body the next pass starts; after the last, the pk.loop retires. -/
def StreamHead.advance (h : StreamHead) (n : Nat) : StreamHead :=
  match h.inLoop with
  | none => h.setPos (h.pos + n)
  | some l =>
    let k := l.at_ + n
    if k < l.body.length then { h with loop := some { l with at_ := k } }.setPos (l.start + k)
    else if 1 < l.left then { h with loop := some { l with at_ := 0, left := l.left - 1 } }.setPos l.start
    else ({ h with loop := none }.setPos (l.start + l.body.length)).count

/-- The packet at hand, of `n` bytes, retires. -/
def StreamHead.retire (h : StreamHead) (n : Nat) : StreamHead := { h.count with wait := .none }.advance n

/-- The innermost level closes (R33): the caller goes on after its pk.call, which retires. -/
def StreamHead.close (h : StreamHead) : StreamHead := ({ h with levels := h.levels.drop 1, window := none }.count).advance 24

/-- Levels above 0, the loop buffer, the window and a wait are discarded; the level-0 predicate is true (R23, R26, R28). -/
def StreamHead.discard (h : StreamHead) : StreamHead :=
  { h with levels := [], loop := none, window := none, wait := .none, pred0 := true }

/-- Bytes that the ring holds from `p` (R21), none while `p` lies in a body that WPTR does not cover yet (R32). -/
def StreamHead.ahead (h : StreamHead) (p : Nat) : Nat :=
  let n := h.size
  match h.skipFrom with
  | none => (h.wptr + n - p % n) % n
  | some a => (h.wptr + n - a % n) % n - (p + n - a % n) % n

/-- The space and the address of the packet at an offset of the current level. -/
def StreamHead.place (h : StreamHead) (p : Nat) : PkSpace × Nat :=
  match h.levels with
  | [] => (if h.base.getLsbD 0 then .dev else .host, h.base.toNat / 4096 * 4096 + p)
  | l :: _ => (l.sp, p)

/-! ## Stream errors, jobs and memory (R25, R26) -/

/-- A stream error at the packet at hand (R26). -/
def State.streamError (s : State) (st : StreamId) (e : StreamErr) : State :=
  let h := s.head st
  let s := s.setHead st { h with
    err := e.code, level := h.depth, erraddr := BitVec.ofNat 64 (h.place h.pos).2, halted := true, wait := .none }
  if h.errirq then s.raiseIrq st.port st.fn h.errvec.toNat else s

/-- SH_JOB as it reads (Table 01-11). -/
def State.headJob (s : State) (st : StreamId) : Nat :=
  if st.fn = 0 then (s.head st).job.toNat
  else
    let v := (FMap.getD s.funcJob (st.port * 64 + (st.fn - 1)) 0xFFF).toNat
    if bit v 31 then v % 4096 else 0xFFF

/-- The job record of the stream's job, read by the die that serves the port. -/
def State.headRec (s : State) (st : StreamId) : Option (List Word) × State := s.jobRec st.port (s.headJob st)
/-- The account slot of the stream's job; none for 0xFFF. -/
def State.headSlot (s : State) (st : StreamId) : Option Nat := (s.headRec st).1.map fun j => bits (jword j 0) 47 40

/-- The physical pieces of `n` bytes at a virtual address, under a permission; none where a piece has no leaf, lacks the
permission, or lies on a sealed or compute-only page. -/
def State.leafSpan (s : State) (die asn : Nat) (ok : Leaf → Bool) : Nat → Nat → Nat → Option (List (Place × Nat)) × State
  | 0, _, _ => (some [], s)
  | fuel + 1, va, n =>
    if n = 0 then (some [], s)
    else
      let (l, s) := s.translate die asn va
      match l with
      | none => (none, s)
      | some l =>
        let pa := l.paOf va
        if l.isSealed || s.sealTag pa != 0 || l.co || !ok l then (none, s)
        else
          let k := min n ((if inMram pa then min (l.va + l.size) (va / 4096 * 4096 + 4096) else l.va + l.size) - va)
          let (r, s) := s.leafSpan die asn ok fuel (va + k) (n - k)
          (r.map fun ps => (.dev pa, k) :: ps, s)

/-- The places of a packet's address range, with the first error that applies. -/
def State.span (s : State) (st : StreamId) (sp : PkSpace) (addr n : Nat) (ok : Leaf → Bool) :
    Except StreamErr (List (Place × Nat)) × State :=
  match sp with
  | .host => (.ok (if n = 0 then [] else [(.host st.port addr, n)]), s)
  | .dev =>
    let (j, s) := s.headRec st
    match j with
    | none => (.error .badJob, s)
    | some j =>
      let (ps, s) := s.leafSpan st.port (bits (jword j 0) 15 0) ok (n / 4096 + 2) addr n
      match ps with
      | none => (.error .xlat, s)
      | some ps => (.ok ps, s)

def leafReads (l : Leaf) : Bool := l.r
def leafWrites (l : Leaf) : Bool := l.w
def leafForces (l : Leaf) : Bool := l.w && l.fe
def leafMoves (l : Leaf) : Bool := l.r && l.w

/-- A HOST access of the front end completes without UR or CA (assumption 8). -/
def State.hostAnswers (s : State) (port : Nat) : Bool × State :=
  let (f, s) := s.drawFree
  (FMap.getD s.linkUp port false && !Config.hostFails f, s)

/-- Bytes of device memory as a stream reads them; no byte of a word that carries an uncorrectable error is known. -/
def State.devBytes (s : State) (slot : Option Nat) (pa n : Nat) : List (Option Byte) × State :=
  if s.spoiled pa n then
    let u := if inMram pa then 256 else 8
    ((s.peek pa n).zipIdx.map fun b => if s.spoiled ((pa + b.2) / u * u) u then none else some b.1, s.eccMet pa n slot)
  else ((s.peek pa n).map some, s)

/-- The bytes of a span, or HOST_ABORT. -/
def State.spanBytes (s : State) (slot : Option Nat) : List (Place × Nat) → Except StreamErr (List (Option Byte)) × State
  | [] => (.ok [], s)
  | (p, n) :: r =>
    match p with
    | .host port addr =>
      let (ok, s) := s.hostAnswers port
      if ok then
        let bs := (Memory.bytes (s.hostMem port) addr n).map some
        let (x, s) := s.spanBytes slot r
        (x.map (bs ++ ·), s)
      else (.error .hostAbort, s)
    | .dev pa =>
      let (bs, s) := s.devBytes slot pa n
      let (x, s) := s.spanBytes slot r
      (x.map (bs ++ ·), s)
    | .loc _ | .clu _ | .peer _ _ | .zero => s.spanBytes slot r

/-- Bytes read as data: one that is not known is a free value (assumption 21). -/
def State.known (s : State) (bs : List (Option Byte)) : List Byte × State :=
  if bs.all Option.isSome then (bs.map fun b => b.getD 0, s)
  else
    let (f, s) := s.drawFree
    (bs.zipIdx.map fun b => b.1.getD (Config.outsideByte ((f + 1) * 2 ^ 32 + b.2)), s)

/-- Words of a span set full. -/
def State.fullSpan (s : State) : List (Place × Nat) → State
  | [] => s
  | (p, n) :: r =>
    match p with
    | .dev pa => (s.fillWords pa (n / 8)).fullSpan r
    | .loc _ | .clu _ | .peer _ _ | .host _ _ | .zero => s.fullSpan r

/-- Bytes stored over the device pieces of a span. -/
def State.putDev (s : State) (slot : Option Nat) : List (Place × Nat) → List Byte → State
  | [], _ => s
  | (p, n) :: r, bs =>
    match p with
    | .dev pa => (s.poke slot pa (bs.take n)).putDev slot r (bs.drop n)
    | .loc _ | .clu _ | .peer _ _ | .host _ _ | .zero => s.putDev slot r (bs.drop n)

/-- The packet at hand retires. -/
def State.pkDone (s : State) (h : PkH) : State := s.updHead h.st fun x => x.retire (8 * h.len.toNat)

/-- A packet ends in an error, or goes on. -/
def State.orError {α : Type} (s : State) (st : StreamId) (x : Except StreamErr α) (f : α → State) : State :=
  match x with
  | .error e => s.streamError st e
  | .ok a => f a

/-- A store of a stream to a span that has passed its checks. In DEVICE it is performed and the packet retires. A HOST store is
posted, and the packet waits for the completion of its flushing read, which may fail though the write has not; a FetchAdd
(`posted` false) waits for its own completion (R43). -/
def State.streamStore (s : State) (h : PkH) (ps : List (Place × Nat)) (bs : List Byte) (full posted : Bool) : State :=
  match ps with
  | (.host port addr, _) :: _ =>
    let (ok, s) := s.hostAnswers port
    let (flushed, s) := if posted then s.hostAnswers port else (true, s)
    let (f, s) := s.drawFree
    let s := if ok then s.setHost port (Memory.store (s.hostMem port) addr bs) else s
    s.updHead h.st fun x => { x with wait := .hostWrite h (s.clock.toNat + 1 + Config.accessDelay f) (ok && flushed) }
  | _ =>
    let s := s.putDev (s.headSlot h.st) ps bs
    (if full then s.fullSpan ps else s).pkDone h

/-- A packet under its predicate (R28): one that is skipped retires without an effect. -/
def packet (h : PkH) (f : State → State) (s : State) : Out :=
  .next (if h.pe && !(s.head h.st).pred then s.pkDone h else f s)

/-! ## Registers that start and stop a stream (R21 to R23, R26) -/

/-- DOORBELL: WPTR, bits 19:3 of the value. -/
def execDoorbell (st : StreamId) (v : Word) (s : State) : Out :=
  .next (s.updHead st fun h => { h with wptr := bits v.toNat 19 3 * 8 })

/-- A ring that the front end refuses (Tables 01-5 and 01-8). -/
def StreamHead.badRing (h : StreamHead) : Bool := decide (h.log2 < 12) || decide (20 < h.log2) || h.base.getLsbD 1

/-- BAD_RING at enable: the error names level 0, and SH_ERRADDR the ring address of RPTR, since no packet causes it
(assumption 29). -/
def State.checkRing (s : State) (st : StreamId) : State :=
  let h := s.head st
  if h.en && h.badRing then (s.setHead st { h with levels := [] }).streamError st .badRing else s

def execStreamEnable (st : StreamId) (s : State) : Out :=
  .next (if (s.head st).en then s else (s.updHead st fun h => { h with en := true }).checkRing st)
def execStreamPause (st : StreamId) (s : State) : Out := .next (s.updHead st fun h => { h with en := false })

/-- What ABORT does to a head (R23). A pk.call whose level it closes, and a packet whose wait it ends, do not retire and do not
count in SH_DONE (assumption 29). -/
def StreamHead.aborted (h : StreamHead) : StreamHead :=
  { h.discard with rptr := h.wptr, halted := false, err := 0, skipFrom := none }
def execAbort (st : StreamId) (s : State) : Out := .next (s.updHead st StreamHead.aborted)

/-- CLRERR: the stream restarts at RPTR. BAD_RING arises at enable alone (R26). -/
def execClrerr (st : StreamId) (s : State) : Out := .next (s.updHead st fun h => { h.discard with halted := false, err := 0 })

/-! ## Function Level Reset and link-down (R15) -/

/-- One function's stream heads and MSI-X state return to reset; the tasks that its streams launched stay theirs (R15, R35). -/
def State.resetFn (s : State) (port fn : Nat) : State := { s with fns := FMap.del s.fns (port * 65 + fn) }

/-- Function Level Reset; that of a PF covers its VFs and releases the port's semaphores. -/
def State.flr (s : State) (port fn : Nat) : State :=
  if fn ≠ 0 then s.resetFn port fn
  else
    let s := (List.range 65).foldl (fun s f => s.resetFn port f) s
    { s with sems := s.sems.map fun e =>
        (e.1, if e.2.owner.toNat = port + 1 then { e.2 with owner := 0, cycle := none } else e.2) }

def execFunctionLevelReset (port fn : Nat) (s : State) : Out := .next (s.flr port fn)
def execLinkDown (port : Nat) (s : State) : Out :=
  .next ({ s with linkUp := FMap.put s.linkUp port false }.flr port 0)

/-- PCIE_LINK_UP: a port trains; without FLIT mode, at Gen5 or below (R11). -/
def execPcieLinkUp (port : Nat) (flit : Bool) (s : State) : Out :=
  .next { s with linkUp := FMap.put s.linkUp port true, linkFlit := FMap.put s.linkFlit port flit }

/-! ## Packets (R28 to R37) -/

def execPkNop (h : PkH) (s : State) : Out := packet h (fun s => s.pkDone h) s

def execPkWriteStore (h : PkH) (sp : PkSpace) (addr : Word) (data : List Word) (s : State) : Out :=
  packet h (fun s =>
    let bs := data.flatMap fun w => leBytes 8 w.toNat
    let (x, s) := s.span h.st sp addr.toNat bs.length leafWrites
    s.orError h.st x fun ps => s.streamStore h ps bs false true) s

/-- pk.write ADD: one atomic addition at the home, or a PCIe FetchAdd, complete when its completion returns (R43). An
uncorrectable word is not written (Table 19-3). -/
def execPkWriteAdd (h : PkH) (sp : PkSpace) (addr v : Word) (s : State) : Out :=
  packet h (fun s =>
    let (x, s) := s.span h.st sp addr.toNat 8 leafMoves
    s.orError h.st x fun ps =>
      match ps with
      | (.dev pa, _) :: _ =>
        if s.spoiled pa 8 then (s.eccMet pa 8 (s.headSlot h.st)).pkDone h
        else s.streamStore h ps (leBytes 8 (leValue (s.peek pa 8) + v.toNat)) false false
      | (.host port a, _) :: _ => s.streamStore h ps (leBytes 8 (Memory.num (s.hostMem port) a 8 + v.toNat)) false false
      | _ => s.pkDone h) s

def execPkWriteForce (h : PkH) (addr : Word) (data : List Word) (s : State) : Out :=
  packet h (fun s =>
    let bs := data.flatMap fun w => leBytes 8 w.toNat
    let (x, s) := s.span h.st .dev addr.toNat bs.length leafForces
    s.orError h.st x fun ps => s.streamStore h ps bs true true) s

/-- The place of byte `i` of a span. -/
def placeAt : List (Place × Nat) → Nat → Option Place
  | [], _ => none
  | (p, n) :: r, i =>
    if i < n then
      some (match p with
        | .dev pa => .dev (pa + i)
        | .host q a => .host q (a + i)
        | .loc k => .loc (k + i)
        | .clu k => .clu (k + i)
        | .peer m a => .peer m (a + i)
        | .zero => .zero)
    else placeAt r (i - n)

/-- Two pieces share a byte. -/
def piecesMeet (a b : Place × Nat) : Bool :=
  match a.1, b.1 with
  | .dev x, .dev y => decide (x < y + b.2) && decide (y < x + a.2)
  | .host p x, .host q y => p == q && decide (x < y + b.2) && decide (y < x + a.2)
  | _, _ => false

/-- A destination byte that the source overlaps takes the old source byte or the new one (R30; assumption 7). `i` counts the
bytes that are left, `k` gives each its turn. -/
def State.overlapBytes (s : State) (src : List (Place × Nat)) (old : List Byte) (f : Nat) (turn : Nat → Nat)
    (dst : List (Place × Nat)) (now : List Byte) : Nat → List Byte
  | 0 => now
  | i + 1 =>
    let k := turn i
    let live := (List.range old.length).find? fun j => (placeAt dst j).isSome && placeAt dst j == placeAt src k
    let v := match live with
      | some j => if Config.choice ((f + 1) * 2 ^ 32 + k) % 2 = 0 then old.getD k 0 else now.getD j (old.getD k 0)
      | none => old.getD k 0
    s.overlapBytes src old f turn dst (now.set k v) i

/-- pk.copy. Both addresses are checked before any byte moves; a count of 0 moves nothing and translates nothing. -/
def execPkCopy (h : PkH) (ssp : PkSpace) (src : Word) (dsp : PkSpace) (dst : Word) (n : BitVec 32) (s : State) : Out :=
  packet h (fun s =>
    if n = 0 then s.pkDone h
    else
      let (x, s) := s.span h.st ssp src.toNat n.toNat leafReads
      s.orError h.st x fun ps =>
        let (y, s) := s.span h.st dsp dst.toNat n.toNat leafWrites
        s.orError h.st y fun qs =>
          let (z, s) := s.spanBytes (s.headSlot h.st) ps
          s.orError h.st z fun bs =>
            let (bs, s) := s.known bs
            if ps.any fun p => qs.any fun q => piecesMeet p q then
              let (f, s) := s.drawFree
              let m := bs.length
              let up := Config.choice f % 2 = 0
              -- a place keeps its old byte until the turn of its own byte comes
              let was := (List.range m).map fun j =>
                match (List.range m).find? fun k => (placeAt ps k).isSome && placeAt ps k == placeAt qs j with
                | some k => bs.getD k 0
                | none => 0
              let out := s.overlapBytes ps bs f (fun i => if up then m - 1 - i else i) qs was m
              s.streamStore h qs out false true
            else s.streamStore h qs bs false true) s

/-- (mem & mask) CMP (value & mask) (R31). -/
def pkCompare (cmp : PkCmp) (mem mask value : Word) : Bool :=
  let a := mem &&& mask
  let b := value &&& mask
  match cmp with
  | .eq => a == b
  | .ne => a != b
  | .geu => decide (b.toNat ≤ a.toNat)
  | .ltu => decide (a.toNat < b.toNat)

/-- The comparison of a word in memory. -/
def State.pkTest (s : State) (st : StreamId) (sp : PkSpace) (cmp : PkCmp) (addr mask value : Word) :
    Except StreamErr Bool × State :=
  let (x, s) := s.span st sp addr.toNat 8 leafReads
  match x with
  | .error e => (.error e, s)
  | .ok ps =>
    let (y, s) := s.spanBytes (s.headSlot st) ps
    match y with
    | .error e => (.error e, s)
    | .ok bs =>
      let (bs, s) := s.known bs
      (.ok (pkCompare cmp (BitVec.ofNat 64 (leValue bs)) mask value), s)

def execPkPred (h : PkH) (sp : PkSpace) (cmp : PkCmp) (addr mask value : Word) (s : State) : Out :=
  packet h (fun s =>
    let (x, s) := s.pkTest h.st sp cmp addr mask value
    s.orError h.st x fun b => (s.updHead h.st fun k => k.setPred b).pkDone h) s

/-! ### The fetch window (R39) -/

/-- The byte that the loop buffer or the window holds at a position of the current level. -/
def StreamHead.heldAt (h : StreamHead) (p : Nat) : Option (Option Byte) :=
  let at_ (w : Nat) (bs : List (Option Byte)) : Option (Option Byte) :=
    match h.levels with
    | [] => bs[(p + h.size - w % h.size) % h.size]?
    | _ :: _ => if p < w then none else bs[p - w]?
  match h.inLoop.bind fun l => at_ l.start l.body with
  | some b => some b
  | none => h.window.bind fun w => at_ w.1 w.2

/-- Bytes of the current level from `p` on that lie before the level's end. -/
def StreamHead.left (h : StreamHead) (p : Nat) : Nat :=
  match h.levels with
  | [] => h.ahead p
  | l :: _ => l.stop - p
/-- Bytes from `p` to the ring's end or the buffer's end. -/
def StreamHead.fits (h : StreamHead) (p : Nat) : Nat :=
  match h.levels with
  | [] => h.size - p % h.size
  | l :: _ => l.stop - p

/-- The 8-byte words of the window from `p`, read where the window does not hold them. It ends before a word that cannot be
read; that word's error is kept. -/
def State.fillWindow (s : State) (st : StreamId) : Nat → Nat → List (Option Byte) × Option StreamErr × State
  | 0, _ => ([], none, s)
  | k + 1, p =>
    let h := s.head st
    let held := (List.range 8).map fun i => h.heldAt (p + i)
    if held.all Option.isSome then
      let (r, e, s) := s.fillWindow st k (p + 8)
      (held.map (fun b => b.getD none) ++ r, e, s)
    else
      let q := match h.levels with
        | [] => p % h.size
        | _ :: _ => p
      let (sp, a) := h.place q
      let (x, s) := s.span st sp a 8 leafReads
      match x with
      | .error e => ([], some e, s)
      | .ok ps =>
        let (y, s) := s.spanBytes (s.headSlot st) ps
        match y with
        | .error e => ([], some e, s)
        | .ok bs =>
          let (r, e, s) := s.fillWindow st k (p + 8)
          (bs ++ r, e, s)

/-- The window filled for the packet at hand, at least to `n` bytes: the error met, if the bytes ran out before them. -/
def State.fillTo (s : State) (st : StreamId) (n : Nat) : Option StreamErr × State :=
  let h := s.head st
  let (bs, e, s) := s.fillWindow st (min (max 512 n) (h.left h.pos) / 8) h.pos
  (if bs.length < n then e else none, s.updHead st fun k => { k with window := some (h.pos, bs) })

/-- The bytes at hand: of a loop body, followed by what the window holds after them, or of the window. -/
def StreamHead.bytes (h : StreamHead) (n : Nat) : List (Option Byte) :=
  let w := (h.window.map Prod.snd).getD []
  match h.inLoop with
  | none => w.take n
  | some l =>
    let b := l.body.drop l.at_
    (b ++ w.drop b.length).take n

/-! ### Loops and levels -/

/-- pk.loop (R32): skipped or with COUNT 0, its body is passed over; otherwise the body is read into the loop buffer, once
WPTR covers it. -/
def execPkLoop (h : PkH) (count : BitVec 16) (body : BitVec 10) (s : State) : Out :=
  .next (
    let k := s.head h.st
    let n := 16 + body.toNat
    let skipped := h.pe && !k.pred
    let past := (k.inLoop.map fun l => decide (l.body.length < l.at_ + n)).getD false
    if skipped && past then s.streamError h.st .loopBody
    else if !skipped && k.loop.isSome then s.streamError h.st .loopNest
    else if skipped || count = 0 then
      s.updHead h.st fun x =>
        let y := x.retire n
        if x.levels.isEmpty && x.inLoop.isNone && decide (x.left x.pos < n) then { y with skipFrom := some x.pos } else y
    else if k.left k.pos < n then s
    else
      let (e, s) := s.fillTo h.st n
      match e with
      | some e => s.streamError h.st e
      | none => s.updHead h.st fun x =>
          { x with loop := some { level := x.depth, start := x.pos + 16, body := (x.bytes n).drop 16, left := count.toNat
                                  at_ := 0 } }.setPos (x.pos + 16))

/-- pk.call (R25, R33): its buffer is checked as any DEVICE operand is; then the next level opens with its predicate true, and the
caller's window is discarded. -/
def execPkCall (h : PkH) (sp : PkSpace) (addr : Word) (n : BitVec 24) (s : State) : Out :=
  packet h (fun s =>
    if 2 ≤ (s.head h.st).depth then s.streamError h.st .callDepth
    else
      let (x, s) := s.span h.st sp addr.toNat n.toNat leafReads
      s.orError h.st x fun _ => s.updHead h.st fun k => { k with
        levels := { sp := sp, pos := addr.toNat, stop := addr.toNat + n.toNat } :: k.levels, window := none }) s

/-- pk.ret (R32, R33): the packet retires, then a loop of its level, then the pk.call. -/
def execPkRet (h : PkH) (s : State) : Out :=
  packet h (fun s =>
    let k := s.head h.st
    if k.levels.isEmpty then s.streamError h.st .retLevel0
    else
      let k := k.count
      let k := if k.inLoop.isSome then { k with loop := none }.count else k
      s.setHead h.st k.close) s

/-- BUFFER_END: the end of an indirect buffer closes its level (R33). -/
def execBufferEnd (st : StreamId) (s : State) : Out :=
  .next (
    match (s.head st).levels with
    | [] => s
    | l :: _ => if l.pos = l.stop then s.updHead st StreamHead.close else s)

/-- pk.ffence (R40): earlier stream writes are complete when it is performed; the window is discarded. -/
def execPkFfence (h : PkH) (s : State) : Out :=
  packet h (fun s =>
    if (s.head h.st).inLoop.isSome then s.streamError h.st .loopBody
    else (s.updHead h.st fun k => { k with window := none }).pkDone h) s

/-! ### Waits, launches, signals (R31, R34, R35) -/

def execPkWaitmem (h : PkH) (sp : PkSpace) (cmp : PkCmp) (addr mask value : Word) (tlim : BitVec 24) (s : State) : Out :=
  packet h (fun s =>
    let (x, s) := s.pkTest h.st sp cmp addr mask value
    s.orError h.st x fun b =>
      if b then s.pkDone h
      else
        let t := s.clock.toNat
        s.updHead h.st fun k => { k with
          wait := .waitmem h sp cmp addr mask value (t + 4096) (if tlim = 0 then none else some (t + tlim.toNat * 65536)) }) s

/-- WAITMEM_READ: a waiting pk.waitmem reads its word again. -/
def execWaitmemRead (st : StreamId) (s : State) : Out :=
  .next (
    match (s.head st).wait with
    | .waitmem h sp cmp addr mask value next limit =>
      let (x, s) := s.pkTest st sp cmp addr mask value
      s.orError st x fun b =>
        if b then s.pkDone h
        else if (limit.map fun t => decide (t ≤ s.clock.toNat)).getD false then s.streamError st .waitTimeout
        else s.updHead st fun k => { k with wait := .waitmem h sp cmp addr mask value (next + 4096) limit }
    | .none | .signal _ _ _ _ _ | .hostWrite _ _ _ => s)

/-- The record that a pk.launch names, or its error (R34, R284). -/
def State.launchRec (s : State) (st : StreamId) (die : Nat) (va : Nat) :
    Except StreamErr (Nat × List Nat × List Word) × State :=
  let (j, s) := s.headRec st
  match j with
  | none => (.error .badJob, s)
  | some j =>
    let asn := bits (jword j 0) 15 0
    let (p, s) := s.jobRead st.port asn va 128 (s.headSlot st)
    match p with
    | none => (.error .xlat, s)
    | some pa =>
      let w := wordsOf (s.peek pa 128)
      let job := bits (w.getD 1 0) 63 52
      let (jr, s) := s.jobRec die job
      match jr with
      | none => (.error .badJob, s)
      | some jr =>
        if job ≠ s.headJob st then (.error .jobMismatch, s)
        else
          let readable (a : Nat) : Bool := ((s.translate die asn a).1.map Leaf.r).getD false
          if recIdle w && recOk w readable (s.boot.savesz.toNat * 0x100000) then (.ok (pa, w, jr), s)
          else (.error .xlat, s)

/-- pk.launch: the record goes to the scheduler of die DIE, which accepts it (R34, R286). It waits while boot has not completed
(R388). -/
def execPkLaunch (h : PkH) (die : BitVec 2) (addr : Word) (s : State) : Out :=
  packet h (fun s =>
    if !s.boot.ready then s
    else
      let (x, s) := s.launchRec h.st die.toNat addr.toNat
      s.orError h.st x fun r => (s.accept die.toNat r.1 addr.toNat r.2.1 r.2.2 (some h.st)).pkDone h) s

/-- The space of a signal's word, as its checks need it. -/
def State.signalSpan (s : State) (st : StreamId) (sp : PkSpace) (force : Bool) (addr : Word) :
    Except StreamErr (List (Place × Nat)) × State :=
  s.span st sp addr.toNat 8 (if force then leafForces else leafWrites)

/-- pk.signal (R35): its address is checked, and it waits for the tasks launched before it. -/
def execPkSignal (h : PkH) (sp : PkSpace) (force : Bool) (addr value : Word) (s : State) : Out :=
  packet h (fun s =>
    let (x, s) := s.signalSpan h.st sp force addr
    s.orError h.st x fun _ => s.updHead h.st fun k => { k with wait := .signal h sp force addr value }) s

/-- Every task that the stream has launched has ended (R35, R309). -/
def State.launchesEnded (s : State) (st : StreamId) : Bool :=
  s.tasks.all fun t => t.2.stream != some st || t.2.state == .ended

/-- PK_SIGNAL_STORE: once its tasks have ended, a waiting pk.signal stores its value. -/
def execPkSignalStore (st : StreamId) (s : State) : Out :=
  .next (
    match (s.head st).wait with
    | .signal h sp force addr value =>
      if s.launchesEnded st then
        let (x, s) := s.signalSpan st sp force addr
        s.orError st x fun ps => s.streamStore h ps (leBytes 8 value.toNat) force true
      else s
    | .none | .waitmem _ _ _ _ _ _ _ _ | .hostWrite _ _ _ => s)

def execPkJob (h : PkH) (job : BitVec 12) (s : State) : Out :=
  packet h (fun s =>
    if h.st.fn ≠ 0 then s.streamError h.st .priv
    else
      let (j, s) := s.jobRec h.st.port job.toNat
      match j with
      | none => s.streamError h.st .badJob
      | some _ => (s.updHead h.st fun k => { k with job := job }).pkDone h) s

def execPkIrq (h : PkH) (vec : BitVec 11) (s : State) : Out :=
  packet h (fun s =>
    if vectors h.st.fn ≤ vec.toNat then s.streamError h.st .badVec
    else (s.raiseIrq h.st.port h.st.fn vec.toNat).pkDone h) s

/-- HOST_WRITE_COMPLETE: the HOST write of the packet at hand is complete, or ends its packet in HOST_ABORT (R43). -/
def execHostWriteComplete (st : StreamId) (ok : Bool) (s : State) : Out :=
  .next (
    match (s.head st).wait with
    | .hostWrite h _ _ => if ok then s.pkDone h else s.streamError st .hostAbort
    | .none | .waitmem _ _ _ _ _ _ _ _ | .signal _ _ _ _ _ => s)

/-! ## The front end's turn (R21, R22, R28) -/

/-- What the front end does next for a stream. -/
inductive Turn where
  | idle
  | perform (i : Instr)
  | error (e : StreamErr)
deriving DecidableEq, Repr

/-- The packet at hand, read and checked (R24 to R28). A packet that WPTR does not cover yet waits, whatever its header holds
(R21). -/
def State.fetchPacket (s : State) (st : StreamId) : Turn × State :=
  let p := (s.head st).pos
  let (e, s) := s.fillTo st 8
  let hd := (s.head st).bytes 8
  if hd.length < 8 then (match e with | some e => .error e | none => .idle, s)
  else
    let w0 := leValue (hd.map fun b => b.getD 0)
    let n := 8 * bits w0 15 8
    let h := s.head st
    if h.levels.isEmpty && decide (h.left h.pos < n) then (.idle, s)
    else
    let (e, s) := s.fillTo st n
    let h := s.head st
    let bs := h.bytes (max 8 n)
    if bs.any Option.isNone then (.error .ecc, s)
    else
      match packetHeaderError w0 (h.fits p) with
      | some k => (.error k, s)
      | none =>
        if bs.length < n then (match e with | some e => .error e | none => .idle, s)
        else
          let ws := (wordsOf (bs.map fun b => b.getD 0)).map (BitVec.ofNat 64)
          match decodePacket st ws (h.fits p) (h.inLoop.map fun l => l.body.length - l.at_) with
          | .error k => (.error k, s)
          | .ok i => (.perform i, s)

/-- WPTR has come to cover the body that RPTR has passed over (R32). -/
def StreamHead.settleSkip (h : StreamHead) : StreamHead :=
  match h.skipFrom with
  | none => h
  | some a =>
    if (h.rptr + h.size - a % h.size) % h.size ≤ (h.wptr + h.size - a % h.size) % h.size then { h with skipFrom := none } else h

/-- A stream's turn: nothing while it is paused, halted or waiting, or over a ring that it refused at enable (assumption 29); the
end of a buffer; or the packet at hand. -/
def State.streamTurn (s : State) (st : StreamId) : Turn × State :=
  let s := s.updHead st StreamHead.settleSkip
  let h := s.head st
  if h.wait != .none || !h.en || h.halted || h.badRing then (.idle, s)
  else if h.inLoop.isSome then s.fetchPacket st
  else
    match h.levels with
    | l :: _ => if l.pos = l.stop then (.perform (.bufferEnd st), s) else s.fetchPacket st
    | [] => if h.ahead h.rptr = 0 then (.idle, s) else s.fetchPacket st

end Sys2Proof.Machine
end

