-- ==== Sys2Proof/Machine/Mgmt.lean ====
section
/-!
DEFINITION. Mgmt: register reads and writes of BAR 0 and of the management window (R5, R6, R13, R19, R363, R388), and the
messages of the management port (R19, R402).
-/
namespace Sys2Proof.Machine

/-! ## BAR 0 (Table 01-1) -/

/-- The stream head and the register offset that a BAR 0 offset names. -/
def headAt (port fn off : Nat) : Option (StreamId × Nat) :=
  if 0x1000 ≤ off ∧ off < 0x1100 then some (⟨port, fn, (off - 0x1000) / 0x40⟩, off % 0x40 / 8 * 8) else none

/-- The MSI-X word that a BAR 0 offset names. -/
def msixAt (fn off : Nat) : Option Nat := if 0x3000 ≤ off ∧ off < 0x3000 + 16 * vectors fn then some ((off - 0x3000) / 4) else none

/-- A word of the MSI-X table written; a vector that is unmasked while it is pending is sent. -/
def State.msixWrite (s : State) (port fn i : Nat) (v : BitVec 32) : State :=
  let v := if i % 4 = 3 then v &&& 1 else v
  let s := s.updFn port fn fun f => { f with msix := FMap.put f.msix i v }
  if i % 4 = 3 ∧ v = 0 ∧ (s.fn port fn).pending.getLsbD (i / 4) then
    (s.updFn port fn fun f => { f with pending := f.pending &&& ~~~(1#64 <<< (i / 4)) }).raiseIrq port fn (i / 4)
  else s

/-- RW fields of SH_BASE and SH_CTL (Tables 01-5 and 01-8). BASE, SP and LOG2SIZE are written while EN is clear. -/
def StreamHead.writeReg (h : StreamHead) (r : Nat) (v : Word) : StreamHead :=
  if r = 0x00 then (if h.en then h else { h with base := v &&& 0xFFFFFFFFFFFFF003#64 })
  else if r = 0x18 then
    { h with errirq := v.getLsbD 16, errvec := v.extractLsb' 8 8, log2 := if h.en then h.log2 else bits v.toNat 23 19 }
  else h

/-- A write of BAR 0 to a register without a row of its own. -/
def State.barField (s : State) (port fn off : Nat) (v : Word) : State :=
  match headAt port fn off with
  | some (st, r) => s.updHead st fun h => h.writeReg r v
  | none =>
    match msixAt fn off with
    | some i => s.msixWrite port fn i (v.setWidth 32)
    | none => s

/-- Bytes of the account window (Table 19-9). -/
def State.acctRead (s : State) (off : Nat) : Word :=
  if 0x80000 ≤ off ∧ off < 0x100000 ∧ off % 0x800 < 0x80 then FMap.getD s.acct ((off - 0x80000) / 0x800 * 16 + off % 0x800 / 8) 0
  else 0

/-- SH registers as they read. -/
def State.headRead (s : State) (st : StreamId) (r : Nat) : Word :=
  let h := s.head st
  let b (x : Bool) (n : Nat) : Nat := if x then 2 ^ n else 0
  if r = 0x00 then h.base
  else if r = 0x08 then BitVec.ofNat 64 h.wptr
  else if r = 0x10 then BitVec.ofNat 64 h.rptr
  else if r = 0x18 then BitVec.ofNat 64 (h.log2 * 2 ^ 19 + b h.errirq 16 + h.errvec.toNat * 256 + b h.en 0)
  else if r = 0x20 then BitVec.ofNat 64 (h.level * 2 ^ 14 + b h.halted 13 + b h.busy 12 + h.err)
  else if r = 0x28 then h.erraddr
  else if r = 0x30 then BitVec.ofNat 64 (s.headJob st)
  else h.done.setWidth 64

/-- A read of BAR 0: an offset that Table 01-1 does not list for the function reads zero (R13). SEM and MSI-X words are 32 bits. -/
def State.barRead (s : State) (port fn off : Nat) : Word :=
  match headAt port fn off with
  | some (st, r) => s.headRead st r
  | none =>
    match msixAt fn off with
    | some i => (FMap.getD (s.fn port fn).msix i (if i % 4 = 3 then 1 else 0)).setWidth 64
    | none =>
      if 0x3800 ≤ off ∧ off < 0x3808 then (s.fn port fn).pending
      else if fn ≠ 0 then 0
      else if 0x2000 ≤ off ∧ off < 0x2080 then (s.semRead ((off - 0x2000) / 4)).setWidth 64
      else if 0x4000 ≤ off ∧ off < 0x4200 then FMap.getD s.funcJob (port * 64 + (off - 0x4000) / 8) 0xFFF
      else s.acctRead off

/-- What a write of BAR 0 causes, in order (R14, R16, R17, R20 to R23, R26). Of one write of SH_CTL the fields act first, then
ABORT, then CLRERR, then EN: the model's order (assumption 29). -/
def barEvents (s : State) (port fn off : Nat) (v : Word) : List Instr :=
  match headAt port fn off with
  | some (st, r) =>
    if r = 0x08 then [.doorbell st v]
    else if r = 0x18 then
      [.registerWrite (.bar port fn) off v] ++ (if v.getLsbD 2 then [.abort st] else []) ++
      (if v.getLsbD 1 then [.clrerr st] else []) ++
      (if v.getLsbD 0 = (s.head st).en then [] else if v.getLsbD 0 then [.streamEnable st] else [.streamPause st])
    else [.registerWrite (.bar port fn) off v]
  | none =>
    if fn ≠ 0 then [.registerWrite (.bar port fn) off v]
    else if 0x2000 ≤ off ∧ off < 0x2080 then
      let n := (off - 0x2000) / 4
      let c := v.toNat % 4
      if c = port + 1 then [.semClaim port n] else if c = 0 then [.semRelease port n]
      else if c = 3 then [.semForcedRelease port n] else []
    else if 0x4000 ≤ off ∧ off < 0x4200 then [.funcJobWrite port ((off - 0x4000) / 8) v]
    else [.registerWrite (.bar port fn) off v]

/-- The semaphores and the MSI-X table lie in 32-bit words. -/
def narrowAt (fn off : Nat) : Bool := (fn = 0 && decide (0x2000 ≤ off) && decide (off < 0x2080)) || (msixAt fn off).isSome

/-- The 64 bits that a FetchAdd reads at an offset of BAR 0: two words where words are 32 bits. -/
def State.barRead64 (s : State) (port fn off : Nat) : Word :=
  if narrowAt fn off then
    BitVec.ofNat 64 ((s.barRead port fn off).toNat + (s.barRead port fn (off + 4)).toNat * 2 ^ 32)
  else s.barRead port fn off

/-- A read of BAR 0 completes with its data. -/
def State.complete (s : State) (port fn off : Nat) : State :=
  { s with completions := s.completions ++ [{ port := port, fn := fn, off := off, data := s.barRead64 port fn off }] }

/-- What a 64-bit FetchAdd at an offset of BAR 0 writes (R12): the sum, as one write or as one for each 32-bit word (assumption
31). -/
def barAddEvents (s : State) (port fn off : Nat) (v : Word) : List Instr :=
  let w := s.barRead64 port fn off + v
  if narrowAt fn off then
    barEvents s port fn off (w &&& 0xFFFFFFFF#64) ++ barEvents s port fn (off + 4) (w >>> 32)
  else barEvents s port fn off w

/-! ## The management window (R363, Tables 18-3 to 18-10 and 19-4 to 19-6) -/

def Cluster.code : ClusterMode → Nat
  | .active => 0 | .doze => 1 | .night => 2 | .nightfall => 3 | .daybreak => 4
def MuMode.code : MuMode → Nat
  | .idle => 0 | .opened => 1 | .staging => 2 | .committing => 3 | .done => 4

/-- A write of the window to the RW and W1C fields without a row of their own. -/
def State.mgmtField (s : State) (off : Nat) (v : Word) : State :=
  let x := v.toNat
  let b := s.boot
  if off = 0x0010 then (if b.ready then { s with boot := { b with jobtab := bits x 55 6 * 64 } } else s)
  else if off = 0x0018 then (if b.ready then { s with boot := { b with asntab := bits x 55 4 * 16 } } else s)
  else if off = 0x0020 then
    (if b.ready && !b.dispatched then { s with boot := { b with savesz := v.setWidth 16 } } else s)
  else if off = 0x0028 then
    (if b.ready && !b.dispatched && decide (bits x 8 0 ≤ 287) then { s with boot := { b with modid := v.setWidth 9 } } else s)
  else if off = 0x0040 then { s with nightdly := v.extractLsb' 32 32 }
  else if off = 0x0048 then { s with updPend := v.getLsbD 8 }
  else if 0x0050 ≤ off ∧ off < 0x0070 ∧ off % 8 = 0 then
    s.updDie ((off - 0x50) / 8) fun d => { d with ilim := v.setWidth 16 }
  else if 0x1000 ≤ off ∧ off < 0x1400 ∧ off % 8 = 0 then
    let k := (off - 0x1000) / 8
    let s := s.updCluster k fun c => { c with target := v.extractLsb' 16 16 }
    s.setCluster k (s.liftTarget k)
  else if 0x2000 ≤ off ∧ off < 0x3000 ∧ off % 8 = 0 then
    let k := (off - 0x2000) / 16
    let t := FMap.getD s.therm k {}
    let t := if off % 16 = 0 then { t with allow := v.extractLsb' 4 12 } else { t with softb := v.setWidth 32 }
    s.setTherm k t
  else if 0x4000 ≤ off ∧ off < 0x4100 then
    let d := (off - 0x4000) / 0x40
    let r := off % 0x40
    s.updMu d fun m =>
      if r = 0x00 then { m with txn := v.extractLsb' 48 16, keyslot := v.extractLsb' 40 8 }
      else if r = 0x08 then { m with src := v.extractLsb' 12 36 }
      else if r = 0x10 then { m with dst := v.extractLsb' 12 36 }
      else if r = 0x20 then { m with wearlim := v.setWidth 32 }
      else m
  else if 0x5000 ≤ off ∧ off < 0x5120 ∧ off % 0x20 = 0 then
    s.updPort ((off - 0x5000) / 0x20) fun p =>
      { p with dnth := v.extractLsb' 48 8, upth := v.extractLsb' 40 8, autoup := v.getLsbD 9 }
  else if off = 0x6000 then { s with tamper := s.tamper &&& ~~~(v.setWidth 5) }
  else s

/-- The steps of their own that a write of the window causes. -/
def mgmtEvents (off : Nat) (v : Word) : List Instr :=
  let x := v.toNat
  if off = 0x0008 then (if bit x 0 then [.release] else []) ++ (if bit x 1 then [.discard] else [])
  else if off = 0x0048 then (if x % 256 = 0xA5 then [.kick] else [])
  else if 0x2000 ≤ off ∧ off < 0x3000 ∧ off % 16 = 8 then
    let k := (off - 0x2000) / 16
    [.hardbWrite (k / 64) (k % 64) (v.extractLsb' 32 32)]
  else if 0x4000 ≤ off ∧ off < 0x4100 ∧ off % 0x40 = 0 then
    let d := (off - 0x4000) / 0x40
    if x % 8 = 1 then [.muOpen d] else if x % 8 = 2 then [.muStage d] else if x % 8 = 3 then [.muCommit d]
    else if x % 8 = 4 then [.muAbort d] else []
  else if 0x5000 ≤ off ∧ off < 0x5120 ∧ off % 0x20 = 0 then (if bit x 8 then [.portUp ((off - 0x5000) / 0x20)] else [])
  else if off = 0x7000 then [.slotclr (v.setWidth 8)]
  else if 0x7100 ≤ off ∧ off < 0x7180 ∧ off % 0x20 = 0x18 then (if bit x 0 then [.errcntClr ((off - 0x7100) / 0x20)] else [])
  else []

/-- A step that a write of the window causes, performed. -/
def State.mgmtEvent (s : State) : Instr → State
  | .release => stateOf s (execRelease s)
  | .discard => stateOf s (execDiscard s)
  | .kick => stateOf s (execKick s)
  | .hardbWrite d r v => stateOf s (execHardbWrite d r v s)
  | .muOpen d => stateOf s (execMuOpen d s)
  | .muStage d => stateOf s (execMuStage d s)
  | .muCommit d => stateOf s (execMuCommit d s)
  | .muAbort d => stateOf s (execMuAbort d s)
  | .portUp p => stateOf s (execPortUp p s)
  | .slotclr n => stateOf s (execSlotclr n s)
  | .errcntClr d => stateOf s (execErrcntClr d s)
  | _ => s

/-- A register of the window as it reads; an offset that no table lists reads zero. -/
def State.mgmtRead (s : State) (off : Nat) : Word :=
  let b (x : Bool) (n : Nat) : Nat := if x then 2 ^ n else 0
  let w (n : Nat) : Word := BitVec.ofNat 64 n
  if off % 8 ≠ 0 then 0
  else if off = 0x0000 then w (s.boot.image.toNat * 64 + b s.boot.held 5 + b s.boot.ready 4)
  else if off = 0x0010 then w s.boot.jobtab
  else if off = 0x0018 then w s.boot.asntab
  else if off = 0x0020 then s.boot.savesz.setWidth 64
  else if off = 0x0028 then s.boot.modid.setWidth 64
  else if off = 0x0040 then w (s.nightdly.toNat * 2 ^ 32)
  else if off = 0x0048 then w (b (s.govmode || s.updPend) 9 + b s.updPend 8)
  else if 0x0050 ≤ off ∧ off < 0x0070 then
    let d := s.die ((off - 0x50) / 8)
    w (d.iest.toNat * 2 ^ 16 + d.ilim.toNat)
  else if 0x1000 ≤ off ∧ off < 0x1400 then
    let k := (off - 0x1000) / 8
    let c := s.liftTarget k
    w (c.eff.toNat * 2 ^ 48 + (s.governed k).toNat * 2 ^ 32 + c.target.toNat * 2 ^ 16 + b (s.govCap k) 10 +
      b (decide ((s.die (k / 32)).capCount < 16)) 9 + b (s.hardCap k) 8 + Cluster.code c.mode)
  else if 0x2000 ≤ off ∧ off < 0x3000 then
    let t := FMap.getD s.therm ((off - 0x2000) / 16) {}
    if off % 16 = 0 then w (t.d.toNat * 2 ^ 32 + t.temp.toNat * 2 ^ 16 + t.allow.toNat * 16 + b t.hard 1 + b t.soft 0)
    else w (t.hardb.toNat * 2 ^ 32 + t.softb.toNat)
  else if 0x4000 ≤ off ∧ off < 0x4100 then
    let m := (s.die ((off - 0x4000) / 0x40)).mu
    let r := off % 0x40
    if r = 0x00 then w (m.txn.toNat * 2 ^ 48 + m.keyslot.toNat * 2 ^ 40)
    else if r = 0x08 then w (m.src.toNat * 4096)
    else if r = 0x10 then w (m.dst.toNat * 4096)
    else if r = 0x18 then
      w (m.stxn.toNat * 2 ^ 48 + m.err.toNat * 2 ^ 40 + m.retries.toNat * 2 ^ 32 + m.staged.toNat * 2 ^ 16 + MuMode.code m.mode)
    else if r = 0x20 then w ((FMap.getD s.wear m.dst.toNat 0).toNat * 2 ^ 32 + m.wearlim.toNat)
    else 0
  else if 0x5000 ≤ off ∧ off < 0x5120 then
    let p := s.port ((off - 0x5000) / 0x20)
    let r := off % 0x20
    if r = 0x00 then
      w (p.minmarg.toNat * 2 ^ 56 + p.dnth.toNat * 2 ^ 48 + p.upth.toNat * 2 ^ 40 + b p.autoup 9 + p.rate.toNat)
    else if r = 0x08 then w (p.feccorr.toNat * 2 ^ 32 + p.fecunc.toNat)
    else if r = 0x10 then w (p.crcdrop.toNat * 2 ^ 32 + p.retx.toNat)
    else w (p.lost.toNat * 2 ^ 32 + p.steps.toNat)
  else if off = 0x6000 then s.tamper.setWidth 64
  else if 0x6108 ≤ off ∧ off < 0x6900 then
    let k := FMap.getD s.keys ((off - 0x6100) / 8) {}
    w (b k.loaded 63 + k.asn.toNat)
  else if 0x7100 ≤ off ∧ off < 0x7180 then
    let d := s.die ((off - 0x7100) / 0x20)
    let r := off % 0x20
    if r = 0x00 then d.corr else if r = 0x08 then d.uncorr else if r = 0x10 then d.lastPa.setWidth 64 else 0
  else s.acctRead off

/-- REGISTER_WRITE: RW fields are set, W1C bits cleared, RO and reserved fields left (R5, R6). -/
def execRegisterWrite (w : RegWindow) (off : Nat) (v : Word) (s : State) : Out :=
  .next (
    match w with
    | .bar port fn => s.barField port fn off v
    | .mgmt => s.mgmtField off v)

/-! ## The management port (R19, R402) -/

/-- A message of the management port. -/
def State.say (s : State) (m : MgmtMsg) : State := { s with mgmtOut := s.mgmtOut ++ [m] }
/-- Register accesses are answered: boot firmware that was refused leaves SPDM alone (R402). -/
def State.mgmtUp (s : State) : Bool := s.boot.powered && (s.boot.ready || s.boot.bootAt.isSome)

def execI3cDynamicAddress (a : BitVec 7) (s : State) : Out := .next { s with i3cAddr := some a }
def execMctpControl (cmd : Byte) (s : State) : Out := .next (if s.mgmtUp then s.say (.mctp cmd) else s)
/-- Where the model's register-read message reaches the semaphores (R16): SEM_n lies 4 × n bytes from this offset, above every
register of the window (assumption 33). -/
def semWindow : Nat := 0x100000000
/-- VDM_REGISTER_READ: a register of the window, or a semaphore. -/
def execVdmRegisterRead (off : Nat) (s : State) : Out :=
  .next (
    if !s.mgmtUp then s
    else
      let n := (off - semWindow) / 4
      let v := if semWindow ≤ off ∧ n < 32 ∧ off % 4 = 0 then (s.semRead n).setWidth 64 else s.mgmtRead off
      s.say (.readData off v))
def execVdmRegisterWrite (off : Nat) (v : Word) (s : State) : Out :=
  .next (if s.mgmtUp then ((mgmtEvents off v).foldl State.mgmtEvent (s.mgmtField off v)).say (.writeDone off) else s)

end Sys2Proof.Machine
end

