-- ==== Sys2Proof/Machine/Spdm.lean ====
section
/-!
DEFINITION. Spdm: the SPDM responder of the management port and of each PF's Data Object Exchange capability (R403, R404), and the key
store (R399). The layouts of messages, transcripts and secured records, and the order of requests, are those of DSP0274 and DSP0277
(assumption 22).
-/
namespace Sys2Proof.Machine

/-! ## Messages and transcripts -/

/-- The responder of a channel. -/
def State.spdmAt (s : State) (ch : Nat) : Spdm := FMap.getD s.spdm ch {}
def State.updSpdm (s : State) (ch : Nat) (f : Spdm → Spdm) : State := { s with spdm := FMap.put s.spdm ch (f (s.spdmAt ch)) }

/-- A message: the version, a code, two parameters and a body. -/
def spdmBytes (code p1 p2 : Byte) (body : List Byte) : List Byte := [0x13, code, p1, p2] ++ body

/-- `n` random bytes of the root of trust. -/
def rootBytes (k n : Nat) : List Byte := (List.range n).map (Config.spdmByte k)

/-- The bytes of a text. -/
def textBytes (t : String) : List Byte := t.toList.map fun c => BitVec.ofNat 8 c.toNat

/-- A signature of the device key over a transcript, for a purpose: over the versions, the purpose and the transcript's hash. -/
def spdmSign (purpose : String) (transcript : List Byte) : List Byte :=
  let p := textBytes purpose
  edSign Config.deviceKey ((List.replicate 4 (textBytes "dmtf-spdm-v1.3.*")).flatten ++ List.replicate (36 - p.length) 0 ++ p ++ sha3 transcript)

/-- The digest of the certificate chain of slot 0. -/
def certDigest : List Byte := sha3 Config.certChain

/-! ## Measurements (Table 19-8) -/

/-- The image that the root of trust refused, the first in the order boot, management, power controller; boot firmware if none. -/
def failedImage (f : Nat) : Nat :=
  if !fwAccepted f 0 then 0 else if !fwAccepted f 1 then 1 else if !fwAccepted f 2 then 2 else 0

def State.measure (s : State) (index : Nat) : List Byte :=
  let image (k : Nat) : List Byte := sha3 (Config.fwImage (3 * s.boot.fw + k))
  match index with
  | 1 => sha3 Config.romImage
  | 2 => image (failedImage s.boot.fw)
  | 3 => image 2
  | 4 => image 1
  | 5 => (List.range 3).flatMap (fun k => leBytes 8 (Config.fusedVersion k)) ++
      ((List.range 4).filter Config.keyRevoked).flatMap Config.fusedHash ++ [if Config.debugDisabled then 1 else 0]
  | 6 => (List.range 255).flatMap fun i => leBytes 8 (s.mgmtRead (0x6108 + 8 * i)).toNat
  | 7 => leBytes 8 s.tamper.toNat
  | _ => []

/-- A block as a message holds it: its index, DMTF's format, and the value with its type and length. -/
def State.measureBlock (s : State) (index : Nat) : List Byte :=
  let v := s.measure index
  [BitVec.ofNat 8 index, 1] ++ leBytes 2 (v.length + 3) ++ [BitVec.ofNat 8 (index - 1)] ++ leBytes 2 v.length ++ v
/-- Every block. -/
def State.measureAll (s : State) : List Byte := (List.range 7).flatMap fun i => s.measureBlock (i + 1)
/-- The summary that a request may ask for. -/
def State.measureSummary (s : State) (kind : Byte) : List Byte := if kind = 0 then [] else sha3 s.measureAll

/-! ## Secured sessions (DSP0277) -/

/-- A value derived from a secret: its length, a label and a transcript's hash. -/
def spdmDerive (secret : List Byte) (label : String) (hash : List Byte) (n : Nat) : List Byte :=
  hkdf secret (leBytes 2 n ++ textBytes ("spdm1.3 " ++ label) ++ hash) n

/-- What a record of a direction is encrypted and checked with: the key, the nonce of its number, and its header. -/
def sessionKey (secret : List Byte) : List Byte := spdmDerive secret "key" [] 32
def sessionNonce (secret : List Byte) (seq : Nat) : List Byte := xor8 (spdmDerive secret "iv" [] 12) (leBytes 12 seq)
def sessionHead (ch : Nat) (id : List Byte) (seq n : Nat) : List Byte :=
  id ++ (if ch = 0 then leBytes 2 seq else []) ++ leBytes 2 (n + 16)
/-- The plaintext of a record: its length, and the message, which MCTP marks by its type. -/
def sessionPlain (ch : Nat) (m : List Byte) : List Byte :=
  let m := (if ch = 0 then [5] else []) ++ m
  leBytes 2 m.length ++ m

/-- A message as a record of a direction: header, ciphertext and tag. -/
def sessionSeal (ch : Nat) (id secret : List Byte) (seq : Nat) (m : List Byte) : List Byte × List Byte :=
  let c := gcmCrypt (sessionKey secret) (sessionNonce secret seq) (sessionPlain ch m)
  let h := sessionHead ch id seq c.length
  (h ++ c, gcmTag (sessionKey secret) (sessionNonce secret seq) h c)

/-! ## Requests and answers -/

/-- A channel carries messages: the management port always, a PF's capability while its port's link is up. -/
def State.channelUp (s : State) (ch : Nat) : Bool :=
  s.boot.powered && (ch == 0 || (decide (ch ≤ 2) && FMap.getD s.linkUp (ch - 1) false))

/-- A message sent as its request came: plainly, or as the session's next record. -/
def State.spdmSay (s : State) (via : SpdmVia) (m : List Byte) : State :=
  if via.tag.isSome then
    let x := s.spdmAt via.ch
    let (r, g) := sessionSeal via.ch x.id x.resSecret x.resSeq m
    (s.updSpdm via.ch fun x => { x with resSeq := x.resSeq + 1 }).say (.secured via.ch (r ++ g))
  else s.say (.spdm via.ch m)

/-- ERROR. -/
def State.spdmError (s : State) (via : SpdmVia) (code : Byte) : State := s.spdmSay via (spdmBytes 0x7F code 0 [])

/-- A request taken: nothing on a channel that is down; ERROR where its record's tag is wrong or it comes out of order; the answer
otherwise. A record that is right counts. -/
def State.spdmTake (s : State) (via : SpdmVia) (req : List Byte) (ok : Spdm → Bool) (f : State → State) : Out :=
  .next (
    let x := s.spdmAt via.ch
    if !s.channelUp via.ch then s
    else match via.tag with
      | none => if ok x then f s else s.spdmError via 4
      | some g =>
        if (x.exchanging || x.session) && (sessionSeal via.ch x.id x.reqSecret x.reqSeq req).2 == leBytes 16 g.toNat then
          let s := s.updSpdm via.ch fun x => { x with reqSeq := x.reqSeq + 1 }
          if ok x then f s else s.spdmError via 4
        else s.spdmError { via with tag := none } 6)

/-- A request of the open session. -/
def State.sessionTake (s : State) (via : SpdmVia) (req : List Byte) (f : State → State) : Out :=
  s.spdmTake via req (fun x => x.session && via.tag.isSome) f

/-- GET_VERSION: version 1.3; the responder begins anew. -/
def execGetVersion (s : State) : Out :=
  let via := s.mail
  let req : List Byte := [0x10, 0x84, 0, 0]
  s.spdmTake via req (fun _ => true) fun s =>
    let rsp : List Byte := [0x10, 0x04, 0, 0, 0, 1, 0, 0x13]
    (s.updSpdm via.ch fun _ => { versioned := true, vca := req ++ rsp }).spdmSay { via with tag := none } rsp

/-- GET_CAPABILITIES: certificates, challenges, signed measurements, encryption, message authentication, key exchange, heartbeats and
key updates. -/
def execGetCapabilities (s : State) : Out :=
  let via := s.mail
  let req := spdmBytes 0xE1 via.p1 via.p2 via.body
  s.spdmTake via req Spdm.versioned fun s =>
    let rsp := spdmBytes 0x61 0 0 ([0] ++ rootBytes 0 1 ++ [0, 0] ++ leBytes 4 0x62D6 ++ leBytes 8 (leValue (rootBytes 1 8)))
    (s.updSpdm via.ch fun x => { x with capable := true, vca := x.vca ++ req ++ rsp }).spdmSay via rsp

/-- The algorithms of R403: Ed448, SHA3-512, P-384 and AES-256-GCM. -/
def execNegotiateAlgorithms (s : State) : Out :=
  let via := s.mail
  let req := spdmBytes 0xE3 via.p1 via.p2 via.body
  s.spdmTake via req Spdm.capable fun s =>
    let rsp := spdmBytes 0x63 3 0 (leBytes 2 48 ++ [1, 2] ++ leBytes 4 0x40 ++ leBytes 4 0x800 ++ leBytes 4 0x20 ++ List.replicate 16 0 ++
      [2, 0x20, 0x10, 0] ++ [3, 0x20, 2, 0] ++ [5, 0x20, 1, 0])
    (s.updSpdm via.ch fun x => { x with negotiated := true, vca := x.vca ++ req ++ rsp }).spdmSay via rsp

/-- GET_DIGESTS: slot 0 alone holds a chain. -/
def execGetDigests (s : State) : Out :=
  let via := s.mail
  let req := spdmBytes 0x81 0 0 []
  s.spdmTake via req Spdm.negotiated fun s =>
    let rsp := spdmBytes 0x01 1 1 certDigest
    (s.updSpdm via.ch fun x => { x with certs := x.certs ++ req ++ rsp }).spdmSay via rsp

/-- GET_CERTIFICATE: a portion of the chain, and how much follows it. -/
def execGetCertificate (slot : Byte) (off len : BitVec 16) (s : State) : Out :=
  let via := s.mail
  let req := spdmBytes 0x82 slot 0 (leBytes 2 off.toNat ++ leBytes 2 len.toNat)
  s.spdmTake via req Spdm.negotiated fun s =>
    if slot ≠ 0 ∨ Config.certChain.length ≤ off.toNat then s.spdmError via 1
    else
      let part := (Config.certChain.drop off.toNat).take len.toNat
      let rsp := spdmBytes 0x02 0 0 (leBytes 2 part.length ++ leBytes 2 (Config.certChain.length - off.toNat - part.length) ++ part)
      (s.updSpdm via.ch fun x => { x with certs := x.certs ++ req ++ rsp }).spdmSay via rsp

/-- CHALLENGE: the chain's digest, a nonce and the measurement summary, signed with the transcript. -/
def execChallenge (q : SpdmChallenge) (s : State) : Out :=
  let via := s.mail
  let req := spdmBytes 0x83 q.slot q.summary (leBytes 32 q.nonce.toNat ++ leBytes 8 q.ctx.toNat)
  s.spdmTake via req Spdm.negotiated fun s =>
    if q.slot ≠ 0 then s.spdmError via 1
    else
      let (n, s) := s.drawFree
      let x := s.spdmAt via.ch
      let rsp := spdmBytes 0x03 0 1 (certDigest ++ rootBytes (n + 2) 32 ++ s.measureSummary q.summary ++ leBytes 2 0 ++ leBytes 8 q.ctx.toNat)
      (s.updSpdm via.ch fun x => { x with certs := [] }).spdmSay via
        (rsp ++ spdmSign "responder-challenge_auth signing" (x.vca ++ x.certs ++ req ++ rsp))

/-- GET_MEASUREMENTS: index 0 asks for the number of blocks, 255 for all; with a nonce, the transcript is signed. -/
def execGetMeasurements (q : SpdmMeasure) (s : State) : Out :=
  let via := s.mail
  let n := q.block.toNat
  let req := spdmBytes 0xE0 (if q.nonce.isSome then 1 else 0) q.block ((match q.nonce with
    | some v => leBytes 32 v.toNat ++ [0]
    | none => []) ++ leBytes 8 q.ctx.toNat)
  s.spdmTake via req Spdm.negotiated fun s =>
    if 7 < n ∧ n < 255 then s.spdmError via 1
    else
      let blocks := if n = 0 then [] else if n = 255 then s.measureAll else s.measureBlock n
      let count : Byte := if n = 0 then 0 else if n = 255 then 7 else 1
      let (f, s) := s.drawFree
      let rsp := spdmBytes 0x60 (if n = 0 then 7 else 0) 0 ([count] ++ leBytes 3 blocks.length ++ blocks ++ rootBytes (f + 2) 32 ++
        leBytes 2 0 ++ leBytes 8 q.ctx.toNat)
      let m := (s.spdmAt via.ch).measured ++ req ++ rsp
      if q.nonce.isSome then
        (s.updSpdm via.ch fun x => { x with measured := [] }).spdmSay via
          (rsp ++ spdmSign "responder-measurements signing" ((s.spdmAt via.ch).vca ++ m))
      else (s.updSpdm via.ch fun x => { x with measured := m }).spdmSay via rsp

/-- The secrets of the handshake: the exchange's, its two directions', and the key of a direction's verify data. -/
def handshakeSecret (shared : Nat) : List Byte := hmac (List.replicate 64 0) (beBytes 48 shared)
def finishedMac (secret th : List Byte) : List Byte := hmac (spdmDerive secret "finished" [] 64) (sha3 th)

/-- KEY_EXCHANGE: the responder's point and a signature over the transcript; the handshake's secrets follow from the shared point. A
point off the curve is refused. -/
def execKeyExchange (e : SpdmExchange) (s : State) : Out :=
  let via := s.mail
  let point := leBytes 96 e.point.toNat
  let q := (beValue (point.take 48), beValue (point.drop 48))
  let req := spdmBytes 0xE4 e.summary e.slot (leBytes 2 e.session.toNat ++ [e.policy, 0] ++ leBytes 32 e.random.toNat ++ point ++
    leBytes 2 e.extra.length ++ e.extra)
  s.spdmTake via req (fun x => x.negotiated && via.tag.isNone) fun s =>
    let (f, s) := s.drawFree
    let d := Config.ephemeral f % (ecN - 1) + 1
    match ecMul ecBase d 384, ecMul q d 384 with
    | some mine, some shared =>
      if e.slot ≠ 0 ∨ !ecOn q then s.spdmError via 1
      else
        let x := s.spdmAt via.ch
        let rsp := spdmBytes 0x64 0 0 (leBytes 2 f ++ [0, 0] ++ rootBytes (f + 2) 32 ++ beBytes 48 mine.1 ++ beBytes 48 mine.2 ++
          s.measureSummary e.summary ++ leBytes 2 0)
        let th := x.vca ++ certDigest ++ req ++ rsp
        let th := th ++ spdmSign "responder-key_exchange_rsp signing" th
        let hs := handshakeSecret shared.1
        let res := spdmDerive hs "rsp hs data" (sha3 th) 64
        let mac := finishedMac res th
        (s.updSpdm via.ch fun x => { x with
          exchanging := true, session := false, th := th ++ mac, handshake := hs
          id := leBytes 2 e.session.toNat ++ leBytes 2 f
          reqSecret := spdmDerive hs "req hs data" (sha3 th) 64, resSecret := res, reqSeq := 0, resSeq := 0 }).spdmSay via
          (th.drop (x.vca ++ certDigest ++ req).length ++ mac)
    | _, _ => s.spdmError via 1

/-- FINISH: in the handshake's records, with the requester's verify data; the answer is the handshake's last record, and the session's
secrets follow. -/
def execFinish (verify : BitVec 512) (s : State) : Out :=
  let via := s.mail
  let head := spdmBytes 0xE5 0 0 []
  let req := head ++ leBytes 64 verify.toNat
  s.spdmTake via req (fun x => x.exchanging && via.tag.isSome) fun s =>
    let x := s.spdmAt via.ch
    if finishedMac x.reqSecret (x.th ++ head) ≠ leBytes 64 verify.toNat then s.spdmError via 6
    else
      let rsp := spdmBytes 0x65 0 0 []
      let s := s.spdmSay via rsp
      let master := hmac (spdmDerive x.handshake "derived" [] 64) (List.replicate 64 0)
      let h := sha3 (x.th ++ req ++ rsp)
      s.updSpdm via.ch fun x => { x with
        exchanging := false, session := true, th := [], handshake := [], reqSeq := 0, resSeq := 0
        reqSecret := spdmDerive master "req app data" h 64, resSecret := spdmDerive master "rsp app data" h 64 }

/-- HEARTBEAT. -/
def execHeartbeat (s : State) : Out :=
  let via := s.mail
  s.sessionTake via (spdmBytes 0xE8 0 0 []) fun s => s.spdmSay via (spdmBytes 0x68 0 0 [])

/-- KEY_UPDATE: new keys of the requester's direction (1) or of both (2), or a check of them (3). -/
def execKeyUpdate (s : State) : Out :=
  let via := s.mail
  let op := via.p1
  let next (k : List Byte) : List Byte := spdmDerive k "traffic upd" [] 64
  s.sessionTake via (spdmBytes 0xE9 op via.p2 []) fun s =>
    if op = 0 ∨ 3 < op.toNat then s.spdmError via 1
    else
      let s := s.updSpdm via.ch fun x => if op = 3 then x else { x with reqSecret := next x.reqSecret, reqSeq := 0 }
      let s := s.updSpdm via.ch fun x => if op = 2 then { x with resSecret := next x.resSecret, resSeq := 0 } else x
      s.spdmSay via (spdmBytes 0x69 op via.p2 [])

/-- END_SESSION. -/
def execEndSession (s : State) : Out :=
  let via := s.mail
  s.sessionTake via (spdmBytes 0xEC via.p1 0 []) fun s =>
    (s.spdmSay via (spdmBytes 0x6C 0 0 [])).updSpdm via.ch fun x => { x with session := false, id := [], reqSecret := [], resSecret := [] }

/-! ## The key store (R399) -/

/-- A vendor-defined message. -/
def vendorBytes (code : Byte) (body : List Byte) : List Byte := spdmBytes code 0 0 (leBytes 2 body.length ++ body)

/-- KEY_SET: refused outside a secured session, for slot 0, and where the keys are equal. -/
def execKeySet (slot : Byte) (asn : BitVec 16) (k1 k2 : BitVec 256) (s : State) : Out :=
  let via := s.mail
  s.sessionTake via (vendorBytes 0xFE ([0, slot] ++ leBytes 2 asn.toNat ++ leBytes 32 k1.toNat ++ leBytes 32 k2.toNat)) fun s =>
    if slot = 0 ∨ k1 = k2 then s.spdmError via 1
    else
      let k : KeySlot := { loaded := true, asn := asn, k1 := k1, k2 := k2 }
      { s with keys := FMap.put s.keys slot.toNat k }.spdmSay via (vendorBytes 0x7E [0])
/-- KEY_CLEAR. -/
def execKeyClear (slot : Byte) (s : State) : Out :=
  let via := s.mail
  s.sessionTake via (vendorBytes 0xFE [1, slot]) fun s =>
    if slot = 0 then s.spdmError via 1
    else { s with keys := FMap.del s.keys slot.toNat }.spdmSay via (vendorBytes 0x7E [1])

end Sys2Proof.Machine
end

