-- ==== Sys2Proof/Machine/Dispatch.lean ====
section
/-!
DEFINITION. Dispatch: the meaning of every step of the part, one arm per constructor of `Instr`.
-/
namespace Sys2Proof.Machine

def exec (i : Instr) (s : State) : Host.Outcome State Fault Refusal :=
  match i with
  | .funcJobWrite port vf v => Sys2Proof.Machine.execFuncJobWrite port vf v s
  | .semClaim port n => Sys2Proof.Machine.execSemClaim port n s
  | .semRelease port n => Sys2Proof.Machine.execSemRelease port n s
  | .semForcedRelease port n => Sys2Proof.Machine.execSemForcedRelease port n s
  | .doorbell st v => Sys2Proof.Machine.execDoorbell st v s
  | .streamEnable st => Sys2Proof.Machine.execStreamEnable st s
  | .streamPause st => Sys2Proof.Machine.execStreamPause st s
  | .abort st => Sys2Proof.Machine.execAbort st s
  | .clrerr st => Sys2Proof.Machine.execClrerr st s
  | .functionLevelReset port fn => Sys2Proof.Machine.execFunctionLevelReset port fn s
  | .linkDown port => Sys2Proof.Machine.execLinkDown port s
  | .pkNop h => Sys2Proof.Machine.execPkNop h s
  | .pkWriteStore h sp addr data => Sys2Proof.Machine.execPkWriteStore h sp addr data s
  | .pkWriteAdd h sp addr v => Sys2Proof.Machine.execPkWriteAdd h sp addr v s
  | .pkWriteForce h addr data => Sys2Proof.Machine.execPkWriteForce h addr data s
  | .pkCopy h ssp src dsp dst n => Sys2Proof.Machine.execPkCopy h ssp src dsp dst n s
  | .pkPred h sp cmp addr mask value => Sys2Proof.Machine.execPkPred h sp cmp addr mask value s
  | .pkLoop h count body => Sys2Proof.Machine.execPkLoop h count body s
  | .pkCall h sp addr n => Sys2Proof.Machine.execPkCall h sp addr n s
  | .pkRet h => Sys2Proof.Machine.execPkRet h s
  | .bufferEnd st => Sys2Proof.Machine.execBufferEnd st s
  | .pkFfence h => Sys2Proof.Machine.execPkFfence h s
  | .pkWaitmem h sp cmp addr mask value tlim => Sys2Proof.Machine.execPkWaitmem h sp cmp addr mask value tlim s
  | .waitmemRead st => Sys2Proof.Machine.execWaitmemRead st s
  | .pkLaunch h die addr => Sys2Proof.Machine.execPkLaunch h die addr s
  | .pkSignal h sp force addr value => Sys2Proof.Machine.execPkSignal h sp force addr value s
  | .pkSignalStore st => Sys2Proof.Machine.execPkSignalStore st s
  | .pkJob h job => Sys2Proof.Machine.execPkJob h job s
  | .pkIrq h vec => Sys2Proof.Machine.execPkIrq h vec s
  | .hostWriteComplete st ok => Sys2Proof.Machine.execHostWriteComplete st ok s
  | .registerWrite w off v => Sys2Proof.Machine.execRegisterWrite w off v s
  | .i3cDynamicAddress a => Sys2Proof.Machine.execI3cDynamicAddress a s
  | .mctpControl cmd => Sys2Proof.Machine.execMctpControl cmd s
  | .vdmRegisterRead off => Sys2Proof.Machine.execVdmRegisterRead off s
  | .vdmRegisterWrite off v => Sys2Proof.Machine.execVdmRegisterWrite off v s
  | .getVersion => Sys2Proof.Machine.execGetVersion s
  | .getCapabilities => Sys2Proof.Machine.execGetCapabilities s
  | .negotiateAlgorithms => Sys2Proof.Machine.execNegotiateAlgorithms s
  | .getDigests => Sys2Proof.Machine.execGetDigests s
  | .getCertificate slot off len => Sys2Proof.Machine.execGetCertificate slot off len s
  | .challenge q => Sys2Proof.Machine.execChallenge q s
  | .getMeasurements q => Sys2Proof.Machine.execGetMeasurements q s
  | .keyExchange q => Sys2Proof.Machine.execKeyExchange q s
  | .finish verify => Sys2Proof.Machine.execFinish verify s
  | .heartbeat => Sys2Proof.Machine.execHeartbeat s
  | .keyUpdate => Sys2Proof.Machine.execKeyUpdate s
  | .endSession => Sys2Proof.Machine.execEndSession s
  | .keySet slot asn k1 k2 => Sys2Proof.Machine.execKeySet slot asn k1 k2 s
  | .keyClear slot => Sys2Proof.Machine.execKeyClear slot s
  | .kick => Sys2Proof.Machine.execKick s
  | .hardbWrite die region v => Sys2Proof.Machine.execHardbWrite die region v s
  | .muOpen die => Sys2Proof.Machine.execMuOpen die s
  | .muStage die => Sys2Proof.Machine.execMuStage die s
  | .muCommit die => Sys2Proof.Machine.execMuCommit die s
  | .muAbort die => Sys2Proof.Machine.execMuAbort die s
  | .release => Sys2Proof.Machine.execRelease s
  | .discard => Sys2Proof.Machine.execDiscard s
  | .errcntClr die => Sys2Proof.Machine.execErrcntClr die s
  | .slotclr slot => Sys2Proof.Machine.execSlotclr slot s
  | .portUp p => Sys2Proof.Machine.execPortUp p s
  | .timerPending cx => Sys2Proof.Machine.execTimerPending cx s
  | .timer cx => Sys2Proof.Machine.execTimer cx s
  | .mkatCompareEnd cx => Sys2Proof.Machine.execMkatCompareEnd cx s
  | .katMismatch cx => Sys2Proof.Machine.execKatMismatch cx s
  | .sleepWake cx => Sys2Proof.Machine.execSleepWake cx s
  | .holdingBundlePresent cx => Sys2Proof.Machine.execHoldingBundlePresent cx s
  | .feHomeTry cx => Sys2Proof.Machine.execFeHomeTry cx s
  | .holdCommit cx => Sys2Proof.Machine.execHoldCommit cx s
  | .feBudgetSpent cx => Sys2Proof.Machine.execFeBudgetSpent cx s
  | .parkSaveComplete task => Sys2Proof.Machine.execParkSaveComplete task s
  | .parkedTaskRequeue word => Sys2Proof.Machine.execParkedTaskRequeue word s
  | .barWaitTimeout cx => Sys2Proof.Machine.execBarWaitTimeout cx s
  | .sectorLand core row slot => Sys2Proof.Machine.execSectorLand core row slot s
  | .sectorSettleError core row slot code => Sys2Proof.Machine.execSectorSettleError core row slot code s
  | .commandComplete cx queue => Sys2Proof.Machine.execCommandComplete cx queue s
  | .rotCluMatch task => Sys2Proof.Machine.execRotCluMatch task s
  | .redAddContribution cx => Sys2Proof.Machine.execRedAddContribution cx s
  | .interlockedResultLand cx id v => Sys2Proof.Machine.execInterlockedResultLand cx id v s
  | .promiseStall cx => Sys2Proof.Machine.execPromiseStall cx s
  | .promisedDataLand cx id => Sys2Proof.Machine.execPromisedDataLand cx id s
  | .resultReadable cx => Sys2Proof.Machine.execResultReadable cx s
  | .dividerFree core => Sys2Proof.Machine.execDividerFree core s
  | .quantumExpiry core => Sys2Proof.Machine.execQuantumExpiry core s
  | .coreUngate core => Sys2Proof.Machine.execCoreUngate core s
  | .fetchLineArrive cx => Sys2Proof.Machine.execFetchLineArrive cx s
  | .fuseLineRise task => Sys2Proof.Machine.execFuseLineRise task s
  | .lnsTemplateIssue core => Sys2Proof.Machine.execLnsTemplateIssue core s
  | .lnsFaultTaken cx => Sys2Proof.Machine.execLnsFaultTaken cx s
  | .pageinWalkEnd cx id => Sys2Proof.Machine.execPageinWalkEnd cx id s
  | .asnSweepEnd asn => Sys2Proof.Machine.execAsnSweepEnd asn s
  | .mixsizeProbeAnswer cx => Sys2Proof.Machine.execMixsizeProbeAnswer cx s
  | .dispatchDecision die => Sys2Proof.Machine.execDispatchDecision die s
  | .preemption task => Sys2Proof.Machine.execPreemption task s
  | .crewBind task => Sys2Proof.Machine.execCrewBind task s
  | .faultRecordDelivery job => Sys2Proof.Machine.execFaultRecordDelivery job s
  | .agingStep task => Sys2Proof.Machine.execAgingStep task s
  | .slewStep cluster => Sys2Proof.Machine.execSlewStep cluster s
  | .currentLimitStep die amps => Sys2Proof.Machine.execCurrentLimitStep die amps s
  | .thermalSample die region temp => Sys2Proof.Machine.execThermalSample die region temp s
  | .overtempShutdown => Sys2Proof.Machine.execOvertempShutdown s
  | .watchdogExpiry => Sys2Proof.Machine.execWatchdogExpiry s
  | .nightfall cluster => Sys2Proof.Machine.execNightfall cluster s
  | .dormantWakeEvent cx => Sys2Proof.Machine.execDormantWakeEvent cx s
  | .daybreak cluster => Sys2Proof.Machine.execDaybreak cluster s
  | .powerFail => Sys2Proof.Machine.execPowerFail s
  | .powerOnBoot => Sys2Proof.Machine.execPowerOnBoot s
  | .tamperAlarm cause => Sys2Proof.Machine.execTamperAlarm cause s
  | .eyeMarginSample p margins => Sys2Proof.Machine.execEyeMarginSample p margins s
  | .portRetrainEnd p => Sys2Proof.Machine.execPortRetrainEnd p s
  | .shardReceive sh => Sys2Proof.Machine.execShardReceive sh s
  | .shardNak n => Sys2Proof.Machine.execShardNak n s
  | .retransmitTimeout tag => Sys2Proof.Machine.execRetransmitTimeout tag s
  | .shardAck tag code v => Sys2Proof.Machine.execShardAck tag code v s
  | .energyInterval cluster energy => Sys2Proof.Machine.execEnergyInterval cluster energy s
  | .waitSet fold wflag => Sys2Proof.Machine.execWaitSet fold wflag s
  | .waitClr fold wflag => Sys2Proof.Machine.execWaitClr fold wflag s
  | .waitDue fold wflag => Sys2Proof.Machine.execWaitDue fold wflag s
  | .pcieLinkUp port flit => Sys2Proof.Machine.execPcieLinkUp port flit s
  | .emptyBundle fold stop => Sys2Proof.Machine.execEmptyBundle fold stop s
  | .fetchFault cx => Sys2Proof.Machine.execFetchFault cx s
  | .flagsDueRise cx => Sys2Proof.Machine.execFlagsDueRise cx s
  | .muCommitDone die => Sys2Proof.Machine.execMuCommitDone die s
  | .nop o => Sys2Proof.Machine.execNop o s
  | .add o => Sys2Proof.Machine.execAdd o s
  | .sub o => Sys2Proof.Machine.execSub o s
  | .mul o => Sys2Proof.Machine.execMul o s
  | .mulhS64 o => Sys2Proof.Machine.execMulhS64 o s
  | .mulhZ64 o => Sys2Proof.Machine.execMulhZ64 o s
  | .divS64 o => Sys2Proof.Machine.execDivS64 o s
  | .divZ64 o => Sys2Proof.Machine.execDivZ64 o s
  | .remS64 o => Sys2Proof.Machine.execRemS64 o s
  | .remZ64 o => Sys2Proof.Machine.execRemZ64 o s
  | .minS64 o => Sys2Proof.Machine.execMinS64 o s
  | .minZ64 o => Sys2Proof.Machine.execMinZ64 o s
  | .maxS64 o => Sys2Proof.Machine.execMaxS64 o s
  | .maxZ64 o => Sys2Proof.Machine.execMaxZ64 o s
  | .addImm o => Sys2Proof.Machine.execAddImm o s
  | .subImm o => Sys2Proof.Machine.execSubImm o s
  | .mulImm o => Sys2Proof.Machine.execMulImm o s
  | .mulhS64Imm o => Sys2Proof.Machine.execMulhS64Imm o s
  | .mulhZ64Imm o => Sys2Proof.Machine.execMulhZ64Imm o s
  | .divS64Imm o => Sys2Proof.Machine.execDivS64Imm o s
  | .divZ64Imm o => Sys2Proof.Machine.execDivZ64Imm o s
  | .remS64Imm o => Sys2Proof.Machine.execRemS64Imm o s
  | .remZ64Imm o => Sys2Proof.Machine.execRemZ64Imm o s
  | .minS64Imm o => Sys2Proof.Machine.execMinS64Imm o s
  | .minZ64Imm o => Sys2Proof.Machine.execMinZ64Imm o s
  | .maxS64Imm o => Sys2Proof.Machine.execMaxS64Imm o s
  | .maxZ64Imm o => Sys2Proof.Machine.execMaxZ64Imm o s
  | .and o => Sys2Proof.Machine.execAnd o s
  | .or o => Sys2Proof.Machine.execOr o s
  | .xor o => Sys2Proof.Machine.execXor o s
  | .andn o => Sys2Proof.Machine.execAndn o s
  | .shl o => Sys2Proof.Machine.execShl o s
  | .shrZ64 o => Sys2Proof.Machine.execShrZ64 o s
  | .shrS64 o => Sys2Proof.Machine.execShrS64 o s
  | .rot o => Sys2Proof.Machine.execRot o s
  | .andImm o => Sys2Proof.Machine.execAndImm o s
  | .orImm o => Sys2Proof.Machine.execOrImm o s
  | .xorImm o => Sys2Proof.Machine.execXorImm o s
  | .andnImm o => Sys2Proof.Machine.execAndnImm o s
  | .shlImm o => Sys2Proof.Machine.execShlImm o s
  | .shrZ64Imm o => Sys2Proof.Machine.execShrZ64Imm o s
  | .shrS64Imm o => Sys2Proof.Machine.execShrS64Imm o s
  | .rotImm o => Sys2Proof.Machine.execRotImm o s
  | .popc o => Sys2Proof.Machine.execPopc o s
  | .clz o => Sys2Proof.Machine.execClz o s
  | .ctz o => Sys2Proof.Machine.execCtz o s
  | .bext o => Sys2Proof.Machine.execBext o s
  | .bins o => Sys2Proof.Machine.execBins o s
  | .sext o => Sys2Proof.Machine.execSext o s
  | .cmpEq o => Sys2Proof.Machine.execCmpEq o s
  | .cmpNe o => Sys2Proof.Machine.execCmpNe o s
  | .cmpLtS64 o => Sys2Proof.Machine.execCmpLtS64 o s
  | .cmpLtZ64 o => Sys2Proof.Machine.execCmpLtZ64 o s
  | .cmpLeS64 o => Sys2Proof.Machine.execCmpLeS64 o s
  | .cmpLeZ64 o => Sys2Proof.Machine.execCmpLeZ64 o s
  | .cmpEqQ o => Sys2Proof.Machine.execCmpEqQ o s
  | .cmpNeQ o => Sys2Proof.Machine.execCmpNeQ o s
  | .cmpLtS64Q o => Sys2Proof.Machine.execCmpLtS64Q o s
  | .cmpLtZ64Q o => Sys2Proof.Machine.execCmpLtZ64Q o s
  | .cmpLeS64Q o => Sys2Proof.Machine.execCmpLeS64Q o s
  | .cmpLeZ64Q o => Sys2Proof.Machine.execCmpLeZ64Q o s
  | .cmpEqImm o => Sys2Proof.Machine.execCmpEqImm o s
  | .cmpNeImm o => Sys2Proof.Machine.execCmpNeImm o s
  | .cmpLtS64Imm o => Sys2Proof.Machine.execCmpLtS64Imm o s
  | .cmpLtZ64Imm o => Sys2Proof.Machine.execCmpLtZ64Imm o s
  | .cmpLeS64Imm o => Sys2Proof.Machine.execCmpLeS64Imm o s
  | .cmpLeZ64Imm o => Sys2Proof.Machine.execCmpLeZ64Imm o s
  | .cmpEqQImm o => Sys2Proof.Machine.execCmpEqQImm o s
  | .cmpNeQImm o => Sys2Proof.Machine.execCmpNeQImm o s
  | .cmpLtS64QImm o => Sys2Proof.Machine.execCmpLtS64QImm o s
  | .cmpLtZ64QImm o => Sys2Proof.Machine.execCmpLtZ64QImm o s
  | .cmpLeS64QImm o => Sys2Proof.Machine.execCmpLeS64QImm o s
  | .cmpLeZ64QImm o => Sys2Proof.Machine.execCmpLeZ64QImm o s
  | .sel o => Sys2Proof.Machine.execSel o s
  | .li o => Sys2Proof.Machine.execLi o s
  | .lih o => Sys2Proof.Machine.execLih o s
  | .movFromCr o => Sys2Proof.Machine.execMovFromCr o s
  | .movToCr o => Sys2Proof.Machine.execMovToCr o s
  | .evtSet o => Sys2Proof.Machine.execEvtSet o s
  | .evtClr o => Sys2Proof.Machine.execEvtClr o s
  | .faddF o => Sys2Proof.Machine.execFaddF o s
  | .fsubF o => Sys2Proof.Machine.execFsubF o s
  | .fmulF o => Sys2Proof.Machine.execFmulF o s
  | .fmaF o => Sys2Proof.Machine.execFmaF o s
  | .fminF o => Sys2Proof.Machine.execFminF o s
  | .fmaxF o => Sys2Proof.Machine.execFmaxF o s
  | .cvt o => Sys2Proof.Machine.execCvt o s
  | .pagein o => Sys2Proof.Machine.execPagein o s
  | .ldLoc o => Sys2Proof.Machine.execLdLoc o s
  | .stLoc o => Sys2Proof.Machine.execStLoc o s
  | .ldClu o => Sys2Proof.Machine.execLdClu o s
  | .stClu o => Sys2Proof.Machine.execStClu o s
  | .ldDev o => Sys2Proof.Machine.execLdDev o s
  | .stDev o => Sys2Proof.Machine.execStDev o s
  | .ldPeer o => Sys2Proof.Machine.execLdPeer o s
  | .stPeer o => Sys2Proof.Machine.execStPeer o s
  | .ldHost o => Sys2Proof.Machine.execLdHost o s
  | .stHost o => Sys2Proof.Machine.execStHost o s
  | .spLd o => Sys2Proof.Machine.execSpLd o s
  | .spSt o => Sys2Proof.Machine.execSpSt o s
  | .spVld o => Sys2Proof.Machine.execSpVld o s
  | .spVst o => Sys2Proof.Machine.execSpVst o s
  | .atomAddLoc o => Sys2Proof.Machine.execAtomAddLoc o s
  | .atomAndLoc o => Sys2Proof.Machine.execAtomAndLoc o s
  | .atomOrLoc o => Sys2Proof.Machine.execAtomOrLoc o s
  | .atomXorLoc o => Sys2Proof.Machine.execAtomXorLoc o s
  | .atomMinsLoc o => Sys2Proof.Machine.execAtomMinsLoc o s
  | .atomMinzLoc o => Sys2Proof.Machine.execAtomMinzLoc o s
  | .atomMaxsLoc o => Sys2Proof.Machine.execAtomMaxsLoc o s
  | .atomMaxzLoc o => Sys2Proof.Machine.execAtomMaxzLoc o s
  | .atomSwapLoc o => Sys2Proof.Machine.execAtomSwapLoc o s
  | .atomCasLoc o => Sys2Proof.Machine.execAtomCasLoc o s
  | .atomAddClu o => Sys2Proof.Machine.execAtomAddClu o s
  | .atomAndClu o => Sys2Proof.Machine.execAtomAndClu o s
  | .atomOrClu o => Sys2Proof.Machine.execAtomOrClu o s
  | .atomXorClu o => Sys2Proof.Machine.execAtomXorClu o s
  | .atomMinsClu o => Sys2Proof.Machine.execAtomMinsClu o s
  | .atomMinzClu o => Sys2Proof.Machine.execAtomMinzClu o s
  | .atomMaxsClu o => Sys2Proof.Machine.execAtomMaxsClu o s
  | .atomMaxzClu o => Sys2Proof.Machine.execAtomMaxzClu o s
  | .atomSwapClu o => Sys2Proof.Machine.execAtomSwapClu o s
  | .atomCasClu o => Sys2Proof.Machine.execAtomCasClu o s
  | .atomAddDev o => Sys2Proof.Machine.execAtomAddDev o s
  | .atomAndDev o => Sys2Proof.Machine.execAtomAndDev o s
  | .atomOrDev o => Sys2Proof.Machine.execAtomOrDev o s
  | .atomXorDev o => Sys2Proof.Machine.execAtomXorDev o s
  | .atomMinsDev o => Sys2Proof.Machine.execAtomMinsDev o s
  | .atomMinzDev o => Sys2Proof.Machine.execAtomMinzDev o s
  | .atomMaxsDev o => Sys2Proof.Machine.execAtomMaxsDev o s
  | .atomMaxzDev o => Sys2Proof.Machine.execAtomMaxzDev o s
  | .atomSwapDev o => Sys2Proof.Machine.execAtomSwapDev o s
  | .atomCasDev o => Sys2Proof.Machine.execAtomCasDev o s
  | .atomAddPeer o => Sys2Proof.Machine.execAtomAddPeer o s
  | .atomAndPeer o => Sys2Proof.Machine.execAtomAndPeer o s
  | .atomOrPeer o => Sys2Proof.Machine.execAtomOrPeer o s
  | .atomXorPeer o => Sys2Proof.Machine.execAtomXorPeer o s
  | .atomMinsPeer o => Sys2Proof.Machine.execAtomMinsPeer o s
  | .atomMinzPeer o => Sys2Proof.Machine.execAtomMinzPeer o s
  | .atomMaxsPeer o => Sys2Proof.Machine.execAtomMaxsPeer o s
  | .atomMaxzPeer o => Sys2Proof.Machine.execAtomMaxzPeer o s
  | .atomSwapPeer o => Sys2Proof.Machine.execAtomSwapPeer o s
  | .atomCasPeer o => Sys2Proof.Machine.execAtomCasPeer o s
  | .barInit o => Sys2Proof.Machine.execBarInit o s
  | .barArrive o => Sys2Proof.Machine.execBarArrive o s
  | .barWait o => Sys2Proof.Machine.execBarWait o s
  | .barTest o => Sys2Proof.Machine.execBarTest o s
  | .vnop o => Sys2Proof.Machine.execVnop o s
  | .vadd o => Sys2Proof.Machine.execVadd o s
  | .vsub o => Sys2Proof.Machine.execVsub o s
  | .vmul o => Sys2Proof.Machine.execVmul o s
  | .vmulh o => Sys2Proof.Machine.execVmulh o s
  | .vmin o => Sys2Proof.Machine.execVmin o s
  | .vmax o => Sys2Proof.Machine.execVmax o s
  | .vadds o => Sys2Proof.Machine.execVadds o s
  | .vsubs o => Sys2Proof.Machine.execVsubs o s
  | .vavg o => Sys2Proof.Machine.execVavg o s
  | .vabs o => Sys2Proof.Machine.execVabs o s
  | .vneg o => Sys2Proof.Machine.execVneg o s
  | .vmov o => Sys2Proof.Machine.execVmov o s
  | .vand o => Sys2Proof.Machine.execVand o s
  | .vor o => Sys2Proof.Machine.execVor o s
  | .vxor o => Sys2Proof.Machine.execVxor o s
  | .vandn o => Sys2Proof.Machine.execVandn o s
  | .vnot o => Sys2Proof.Machine.execVnot o s
  | .vshl o => Sys2Proof.Machine.execVshl o s
  | .vshr o => Sys2Proof.Machine.execVshr o s
  | .vshrr o => Sys2Proof.Machine.execVshrr o s
  | .vshlImm o => Sys2Proof.Machine.execVshlImm o s
  | .vshrImm o => Sys2Proof.Machine.execVshrImm o s
  | .vshrrImm o => Sys2Proof.Machine.execVshrrImm o s
  | .vfadd o => Sys2Proof.Machine.execVfadd o s
  | .vfsub o => Sys2Proof.Machine.execVfsub o s
  | .vfmul o => Sys2Proof.Machine.execVfmul o s
  | .vfma o => Sys2Proof.Machine.execVfma o s
  | .vfmin o => Sys2Proof.Machine.execVfmin o s
  | .vfmax o => Sys2Proof.Machine.execVfmax o s
  | .vfabs o => Sys2Proof.Machine.execVfabs o s
  | .vfneg o => Sys2Proof.Machine.execVfneg o s
  | .vexp2 o => Sys2Proof.Machine.execVexp2 o s
  | .vrcp o => Sys2Proof.Machine.execVrcp o s
  | .vcmpEq o => Sys2Proof.Machine.execVcmpEq o s
  | .vcmpNe o => Sys2Proof.Machine.execVcmpNe o s
  | .vcmpLt o => Sys2Proof.Machine.execVcmpLt o s
  | .vcmpLe o => Sys2Proof.Machine.execVcmpLe o s
  | .kand o => Sys2Proof.Machine.execKand o s
  | .kor o => Sys2Proof.Machine.execKor o s
  | .kxor o => Sys2Proof.Machine.execKxor o s
  | .kandn o => Sys2Proof.Machine.execKandn o s
  | .knot o => Sys2Proof.Machine.execKnot o s
  | .vsel o => Sys2Proof.Machine.execVsel o s
  | .vperm o => Sys2Proof.Machine.execVperm o s
  | .vbcast o => Sys2Proof.Machine.execVbcast o s
  | .vbcastG o => Sys2Proof.Machine.execVbcastG o s
  | .vslideUp o => Sys2Proof.Machine.execVslideUp o s
  | .vslideDn o => Sys2Proof.Machine.execVslideDn o s
  | .vrotm o => Sys2Proof.Machine.execVrotm o s
  | .vsplat o => Sys2Proof.Machine.execVsplat o s
  | .vredsum o => Sys2Proof.Machine.execVredsum o s
  | .vredmax o => Sys2Proof.Machine.execVredmax o s
  | .vredmin o => Sys2Proof.Machine.execVredmin o s
  | .vcvt o => Sys2Proof.Machine.execVcvt o s
  | .vcvtW o => Sys2Proof.Machine.execVcvtW o s
  | .vcvtN o => Sys2Proof.Machine.execVcvtN o s
  | .vkpack o => Sys2Proof.Machine.execVkpack o s
  | .vkunpk o => Sys2Proof.Machine.execVkunpk o s
  | .vrq o => Sys2Proof.Machine.execVrq o s
  | .mnop o => Sys2Proof.Machine.execMnop o s
  | .mpushV o => Sys2Proof.Machine.execMpushV o s
  | .mpushSp o => Sys2Proof.Machine.execMpushSp o s
  | .mpushW o => Sys2Proof.Machine.execMpushW o s
  | .mswap o => Sys2Proof.Machine.execMswap o s
  | .maccV o => Sys2Proof.Machine.execMaccV o s
  | .maccSp o => Sys2Proof.Machine.execMaccSp o s
  | .mshift o => Sys2Proof.Machine.execMshift o s
  | .mzero o => Sys2Proof.Machine.execMzero o s
  | .mdrain o => Sys2Proof.Machine.execMdrain o s
  | .mdrainCp o => Sys2Proof.Machine.execMdrainCp o s
  | .mkat o => Sys2Proof.Machine.execMkat o s
  | .cnop o => Sys2Proof.Machine.execCnop o s
  | .vldLoc o => Sys2Proof.Machine.execVldLoc o s
  | .vstLoc o => Sys2Proof.Machine.execVstLoc o s
  | .vldClu o => Sys2Proof.Machine.execVldClu o s
  | .vstClu o => Sys2Proof.Machine.execVstClu o s
  | .vldDev o => Sys2Proof.Machine.execVldDev o s
  | .vstDev o => Sys2Proof.Machine.execVstDev o s
  | .vldPeer o => Sys2Proof.Machine.execVldPeer o s
  | .vstPeer o => Sys2Proof.Machine.execVstPeer o s
  | .vldHost o => Sys2Proof.Machine.execVldHost o s
  | .vstHost o => Sys2Proof.Machine.execVstHost o s
  | .vldKv o => Sys2Proof.Machine.execVldKv o s
  | .vstKv o => Sys2Proof.Machine.execVstKv o s
  | .cpGo o => Sys2Proof.Machine.execCpGo o s
  | .cpAdv o => Sys2Proof.Machine.execCpAdv o s
  | .cp o => Sys2Proof.Machine.execCp o s
  | .cpTsr o => Sys2Proof.Machine.execCpTsr o s
  | .gathKv o => Sys2Proof.Machine.execGathKv o s
  | .rotClu o => Sys2Proof.Machine.execRotClu o s
  | .redAdd o => Sys2Proof.Machine.execRedAdd o s
  | .kvBind o => Sys2Proof.Machine.execKvBind o s
  | .pfxHash o => Sys2Proof.Machine.execPfxHash o s
  | .pfxLook o => Sys2Proof.Machine.execPfxLook o s
  | .pfxCmp o => Sys2Proof.Machine.execPfxCmp o s
  | .pfxIns o => Sys2Proof.Machine.execPfxIns o s
  | .pfxPin o => Sys2Proof.Machine.execPfxPin o s
  | .pfxUnpin o => Sys2Proof.Machine.execPfxUnpin o s
  | .lnop o => Sys2Proof.Machine.execLnop o s
  | .br o => Sys2Proof.Machine.execBr o s
  | .call o => Sys2Proof.Machine.execCall o s
  | .jmp o => Sys2Proof.Machine.execJmp o s
  | .callR o => Sys2Proof.Machine.execCallR o s
  | .loop o => Sys2Proof.Machine.execLoop o s
  | .loopMod o => Sys2Proof.Machine.execLoopMod o s
  | .sleepDue o => Sys2Proof.Machine.execSleepDue o s
  | .sleepN o => Sys2Proof.Machine.execSleepN o s
  | .fuse o => Sys2Proof.Machine.execFuse o s
  | .decouple o => Sys2Proof.Machine.execDecouple o s
  | .rejoin o => Sys2Proof.Machine.execRejoin o s
  | .brk o => Sys2Proof.Machine.execBrk o s
  | .sys o => Sys2Proof.Machine.execSys o s
  | .eret o => Sys2Proof.Machine.execEret o s
  | .taskSpawn o => Sys2Proof.Machine.execTaskSpawn o s
  | .taskSig o => Sys2Proof.Machine.execTaskSig o s
  | .taskYield o => Sys2Proof.Machine.execTaskYield o s
  | .taskEnd o => Sys2Proof.Machine.execTaskEnd o s
  | .crewSync o => Sys2Proof.Machine.execCrewSync o s
  | .asnRetire o => Sys2Proof.Machine.execAsnRetire o s
  | .fenceQ o => Sys2Proof.Machine.execFenceQ o s
  | .fencePeer o => Sys2Proof.Machine.execFencePeer o s
  | .fenceHost o => Sys2Proof.Machine.execFenceHost o s
  | .lnsTmpl o => Sys2Proof.Machine.execLnsTmpl o s
  | .lnsLvl o => Sys2Proof.Machine.execLnsLvl o s
  | .lnsRun o => Sys2Proof.Machine.execLnsRun o s
  | .lnsResume o => Sys2Proof.Machine.execLnsResume o s
  | .lnsAbort o => Sys2Proof.Machine.execLnsAbort o s

end Sys2Proof.Machine
end

