-- ==== Sys2Proof/Machine/Tick.lean ====
section
/-!
DEFINITION. Tick: what each tick of `%clock` brings, in order: power and boot, landings, traps and wakes, the scheduler, the
edges of the cores that are awake, what arrives from outside, the commands that are due, the streams, and last the tries of held
accesses (R1, R176, R183, R275, R277, R366).
-/
namespace Sys2Proof.Machine

/-! ## Inputs -/

/-- Steps that the outside world causes: those of the host, the management port, the power supply, the package and the links. -/
def fromOutside : Instr → Bool
  | .funcJobWrite _ _ _ | .semClaim _ _ | .semRelease _ _ | .semForcedRelease _ _ | .doorbell _ _ | .streamEnable _
  | .streamPause _ | .abort _ | .clrerr _ | .functionLevelReset _ _ | .linkDown _ | .pcieLinkUp _ _ | .registerWrite _ _ _
  | .i3cDynamicAddress _ | .mctpControl _ | .vdmRegisterRead _ | .vdmRegisterWrite _ _ | .kick | .hardbWrite _ _ _ | .muOpen _
  | .muStage _ | .muCommit _ | .muAbort _ | .release | .discard | .errcntClr _ | .slotclr _ | .portUp _ | .overtempShutdown
  | .powerFail | .powerOnBoot | .tamperAlarm _ | .shardReceive _ | .shardNak _ | .shardAck _ _ _ => true
  | _ => false

/-- The messages of the SPDM responder (R399, R403, R404). -/
def isSpdm : Instr → Bool
  | .getVersion | .getCapabilities | .negotiateAlgorithms | .getDigests | .getCertificate _ _ _ | .challenge _ | .getMeasurements _
  | .keyExchange _ | .finish _ | .heartbeat | .keyUpdate | .endSession | .keySet _ _ _ _ | .keyClear _ => true
  | _ => false

/-- A 32-bit counter raised by `n`, saturating. -/
def satBy (v : BitVec 32) (n : Nat) : BitVec 32 := BitVec.ofNat 32 (min (2 ^ 32 - 1) (v.toNat + n))

/-- An input lands. -/
def State.takeInput (s : State) : Input → State
  | .step i => if fromOutside i then { s with agenda := .ev i :: s.agenda } else s
  | .message via i => if isSpdm i then { s with mail := via, agenda := .ev i :: s.agenda } else s
  | .hostStore port a bs => s.setHost port (Memory.store (s.hostMem port) a bs)
  | .barWrite port fn off v => { s with agenda := (barEvents s port fn off v).map Agent.ev ++ s.agenda }
  | .barRead port fn off => s.complete port fn off
  | .barAdd port fn off v =>
    let s' := s.complete port fn off
    { s' with agenda := (barAddEvents s port fn off v).map Agent.ev ++ s'.agenda }
  | .hostDma pa bs => s.poke none pa bs
  | .stuckWord pa => s.spoil pa
  | .stuckRowWord k => { s.setLocFull k false with locBad := addSet s.locBad (k / 8) }
  | .stuckSpillWord cx k =>
    s.updCtx cx fun c => { c with st := { c.st with spill := FMap.put c.st.spill k { c.st.spillWord k with bad := true } } }
  | .stuckTileWord cx k => s.updCtx cx fun c => { c with st := { c.st with accBad := addSet c.st.accBad k } }
  | .stuckBufferWord cx shadow k => s.updCtx cx fun c => { c with st :=
      if shadow then { c.st with shadow := { c.st.shadow with bad := addSet c.st.shadow.bad k } }
      else { c.st with active := { c.st.active with bad := addSet c.st.active.bad k } } }
  | .stuckSave key => s.updTask key fun t => { t with savedBad := t.saved.isSome }
  | .dieLink a b lost => { s with lostLinks := putSet s.lostLinks (4 * min a b + max a b) lost }
  | .corrected d => s.updDie d fun x => { x with corr := if x.corr = BitVec.allOnes 64 then x.corr else x.corr + 1 }
  | .fec p corrected lost => s.updPort p fun x => { x with feccorr := satBy x.feccorr corrected, fecunc := satBy x.fecunc lost }

/-! ## Power and boot -/

/-- Contexts that hold a strand. -/
def State.bound (s : State) : List Nat := (s.ctxs.filter fun e => e.2.task.isSome).map (·.1)

/-- The estimate of a die's current, every 64 ticks (R369; assumption 9). -/
def State.currents (s : State) : List Agent × State :=
  if s.clock.toNat % 64 ≠ 0 then ([], s)
  else
    let (f, s) := s.drawFree
    ((List.range 4).map fun d => .ev (.currentLimitStep d (Config.railCurrent (4 * f + d))), s)

/-- The samples of every sensor, every 2^20 ticks, with the shutdown and the alarm that they may cause (R378, R381, R401). -/
def State.samples (s : State) : List Agent × State :=
  if s.clock.toNat % 2 ^ 20 ≠ 0 then ([], s)
  else
    let (f, s) := s.drawFree
    let rs := ((List.range 4).flatMap fun d => (List.range 61).map fun r => (d, r)).filter fun p => hasSensor p.1 p.2
    (rs.flatMap fun p =>
      let t := Config.sensor (256 * f + 64 * p.1 + p.2)
      [.ev (.thermalSample p.1 p.2 t)] ++ (if 1080 ≤ t.toInt then [.ev .overtempShutdown] else []) ++
      (if t.toInt < -320 then [.ev (.tamperAlarm .temp)] else []), s)

/-- The energy of every cluster, every 2^20 ticks (R406). -/
def State.energies (s : State) : List Agent × State :=
  if s.clock.toNat % 2 ^ 20 ≠ 0 then ([], s)
  else
    let (f, s) := s.drawFree
    ((List.range 128).map fun k => .ev (.energyInterval k (Config.energy (128 * f + k))), s)

/-- The eye margins of every port's lanes, every 65,536 ticks (R396). -/
def State.margins (s : State) : List Agent × State :=
  if s.clock.toNat % 65536 ≠ 0 then ([], s)
  else
    let (f, s) := s.drawFree
    ((List.range 9).map fun p => .ev (.eyeMarginSample p ((List.range 8).map fun l => Config.eyeMargin (128 * f + 8 * p + l))), s)

/-- Steps of power, boot and links that are due. -/
def State.powerStage (s : State) : List Agent × State :=
  let now := s.clock.toNat
  let boot := match s.boot.bootAt with
    | some t => if t + Config.unitDelay 0 ≤ now then [.ev .powerOnBoot] else []
    | none => []
  let dawn := if s.boot.held && s.boot.releaseReq then [.ev .release] else []
  let watch := if !s.govmode && decide (s.lastKick + 12500000 ≤ now) then [.ev .watchdogExpiry] else []
  let days := ((s.dies.filterMap fun d => d.2.dayQueue.head?) ++
    ((s.clusters.filter fun c => c.2.waking).map (·.1))).dedup.map fun k => .ev (.daybreak k)
  let slews := if now % 256 = 0 then (s.clusters.map fun c => .ev (.slewStep c.1)) else []
  let nights := (s.clusters.filter fun c => c.2.mode == .nightfall || decide (now % 4096 = 0)).map fun c => .ev (.nightfall c.1)
  let mus := (s.dies.filter fun d => d.2.mu.mode == .committing && decide (d.2.mu.doneAt ≤ now) && !d.2.mu.failed).map fun d =>
    .ev (.muCommitDone d.1)
  let ports := (s.ports.filter fun p => (p.2.retrain.map fun t => decide (t ≤ now)).getD false).map fun p =>
    .ev (.portRetrainEnd p.1)
  let (a, s) := s.currents
  let (b, s) := s.samples
  let (c, s) := s.energies
  let (d, s) := s.margins
  (boot ++ dawn ++ watch ++ a ++ b ++ c ++ days ++ slews ++ nights ++ mus ++ ports ++ d, s)

/-! ## Engines, landings, traps -/

/-- An interlocked result whose tick has come, or what it waits for. -/
def State.pendEvent (s : State) (cx : Nat) (p : Pend) : List Agent :=
  let now := s.clock.toNat
  match p.kind with
  | .later _ _ _ _ _ =>
    if s.outReqs.any fun r => r.cx == cx && r.cmd.isNone && decide (r.id < p.id) then []
    else [.ev (.interlockedResultLand cx p.id 0)]
  | .value _ _ t => if t ≤ now then [.ev (.interlockedResultLand cx p.id 0)] else []
  | .walk _ t => if t ≤ now then [.ev (.pageinWalkEnd cx p.id)] else []
  | .sweep a t => if t ≤ now then [.ev (.asnSweepEnd a)] else []
  | .cycles _ _ _ | .peer _ => []

/-- The commands that head their queues. -/
def State.heads (s : State) : List Cmd := s.cmds.filter fun c => (s.headCmd (coreOf c.cx) c.queue).map Cmd.id == some c.id

/-- Landings, walks and fetched lines. A strand that is to issue its accesses again lands nothing before (R362). -/
def State.landStage (s : State) : List Agent :=
  let now := s.clock.toNat
  let live := s.ctxs.filter fun e => !e.2.dawnHeld && e.2.reissue.isNone
  let lands := live.flatMap fun e => e.2.st.pend.flatMap (s.pendEvent e.1)
  let datas := live.flatMap fun e => e.2.st.flight.zipIdx.filterMap fun f =>
    if f.1.lands = some now then some (.ev (.promisedDataLand e.1 f.2)) else none
  let lines := (s.ctxs.filter fun e => (e.2.fetchAt.map fun t => decide (t ≤ now)).getD false).map fun e =>
    .ev (.fetchLineArrive e.1)
  lands ++ datas ++ lines

/-- What a command that heads its queue comes to: it is due to be performed, or it has been and its requests have been answered. -/
def State.cmdEvent (s : State) (c : Cmd) : Option Agent :=
  if c.started then (if s.answered c then some (.ev (.commandComplete c.cx c.queue)) else none)
  else if s.clock.toNat < c.doneAt then none
  else
    match c.kind, (s.ctx c.cx).task with
    | .rotate _ _ _ _, some t => some (.ev (.rotCluMatch t))
    | .rotate _ _ _ _, none => none
    | .reduce _ _ _ _ _, _ => some (.ev (.redAddContribution c.cx))
    | _, _ => some (.ev (.commandComplete c.cx c.queue))

/-- The commands that are due, and the requests without an answer, in the order in which they were issued. They follow the bundles of
their tick, so that a sector is settled after an arrival of the same tick (R183), whatever its code (R390). -/
def State.cmdStage (s : State) : List Agent :=
  let cmds := s.heads.filterMap fun c => (s.cmdEvent c).map fun a => (c.id, a)
  let lost := (s.outReqs.filter fun r => !r.waiting && decide (r.sent + 50000 ≤ s.clock.toNat)).map fun r =>
    (r.cmd.getD r.id, Agent.ev (.retransmitTimeout r.tag))
  ((cmds ++ lost).insertionSort fun a b => a.1 ≤ b.1).map (·.2)

/-- What a context may wake or trap for. TIMER comes before KAT_MISMATCH (R91, R234), and a template fault after the wake from a sleep
(R346). -/
def State.ctxWakes (s : State) (cx : Nat) : List Agent :=
  let c := s.ctx cx
  let now := s.clock.toNat
  (match c.st.mode with
    | .sleep t _ => if t ≤ now then [.ev (.sleepWake cx)] else []
    | .wait => if s.flagsOf cx != c.waitFlags then [.ev (.flagsDueRise cx)] else []
    | .run | .hold | .fuseWait | .frozen | .ended => []) ++
  (if s.timerPending cx then [.ev (.timerPending cx), .ev (.timer cx)] else []) ++
  (if c.st.kat.isSome then [.ev (.katMismatch cx)] else []) ++
  (if s.lnsFaultDue cx then [.ev (.lnsFaultTaken cx)] else []) ++
  (if (c.probe.map fun t => decide (t ≤ now)).getD false then [.ev (.mixsizeProbeAnswer cx)] else [])

/-- Wakes, traps and lock-step lines that are due, the wakes of dormant strands, and cores that leave gating. -/
def State.wakeStage (s : State) : List Agent :=
  let lines := (s.tasks.filter fun t => s.lineHigh t.1).map fun t => .ev (.fuseLineRise t.1)
  let gates := (s.cores.filter fun k => k.2.gated && (s.cluster (k.1 / 8)).mode == .active).map fun k => .ev (.coreUngate k.1)
  let wakes := (s.bound.filter s.wakes).map fun cx => .ev (.dormantWakeEvent cx)
  wakes ++ ((s.bound.filter fun cx => !(s.ctx cx).dormant && !(s.ctx cx).dawnHeld).flatMap s.ctxWakes) ++ lines ++ gates

/-! ## The scheduler -/

/-- Steps of the scheduler that are due. None is taken before boot has completed (R388). -/
def State.schedStage (s : State) : List Agent :=
  if !s.boot.ready then []
  else
    let records := (s.records.filter fun r => !r.2.isEmpty).map fun r => .ev (.faultRecordDelivery r.1)
    let ages := (s.tasks.filter fun t => t.2.state == .ready && decide (t.2.level < s.effLevel t.2)).map fun t =>
      .ev (.agingStep t.1)
    let saves := s.tasks.filterMap fun t =>
      match t.2.phase with
      | .saving .parked _ _ _ _ => some (.ev (.parkSaveComplete t.1))
      | .freezing _ _ _ _ | .saving _ _ _ _ _ => some (.ev (.preemption t.1))
      | .rest | .binding => none
    let words := s.dies.flatMap fun d => d.2.waking.map fun w => .ev (.parkedTaskRequeue w)
    let binds := (s.tasks.filter fun t => t.2.phase == .binding && s.bindable t.2).map fun t => .ev (.crewBind t.1)
    let picks := (s.dies.filter fun d => d.2.decide).map fun d => .ev (.dispatchDecision d.1)
    records ++ ages ++ saves ++ words ++ binds ++ picks

/-! ## Cores, streams, held accesses -/

/-- The cores that receive an edge in this tick (R366). -/
def State.coreStage (s : State) : List Agent :=
  (s.clusters.filter fun c => c.2.mode == .active && c.2.eff.getLsbD (s.clock.toNat % 16)).flatMap fun c =>
    (List.range 8).map fun i => .core (c.1 * 8 + i)

/-- The streams in the order of R34; a waiting packet has its event once that is due. -/
def State.streamStage (s : State) : List Agent :=
  s.fns.flatMap fun f => f.2.heads.flatMap fun h =>
    let st : StreamId := ⟨f.1 / 65, f.1 % 65, h.1⟩
    match h.2.wait with
    | .none => [.stream st]
    | .waitmem _ _ _ _ _ _ next _ => if next ≤ s.clock.toNat then [.ev (.waitmemRead st)] else []
    | .signal _ _ _ _ _ => if s.launchesEnded st then [.ev (.pkSignalStore st)] else []
    | .hostWrite _ due ok => if due ≤ s.clock.toNat then [.ev (.hostWriteComplete st ok)] else []

/-- Held accesses tried at their homes: the first in order of arrival that can be performed, and then all of them anew, since it may
have changed a bit (R177); after the last, barrier waits, and the limits that come after those tries (R176, R184). The holds whose
conditions are met end at an edge of their core. -/
def State.holdStage (s : State) : List Agent :=
  match s.holders.find? s.formReady with
  | some cx => [.ev (.feHomeTry cx), .stage 7]
  | none => s.holders.map (fun cx => .ev (.feHomeTry cx)) ++ s.holders.map (fun cx => .ev (.barWaitTimeout cx)) ++
      s.holders.map fun cx => .ev (.feBudgetSpent cx)

/-- A group of what a tick brings. -/
def State.stage (s : State) (n : Nat) : List Agent × State :=
  match n with
  | 0 => s.powerStage
  | 1 => (s.landStage, s)
  | 2 => (s.wakeStage, s)
  | 3 => (s.schedStage, s)
  | 4 => (s.coreStage, s)
  | 5 => (s.cmdStage, s)
  | 6 => (s.streamStage, s)
  | _ => let s := s.markSyncs; (s.holdStage, s)

/-! ## The tick -/

/-- A tick of every strand that is held in a cluster, for its account slot's share of the energy (R406). -/
def State.countHeld (s : State) : State :=
  s.bound.foldl (fun s cx =>
    match s.slotOf cx with
    | none => s
    | some n => let k := clusterOf cx * 256 + n; { s with held := FMap.put s.held k (FMap.getD s.held k 0 + 1) }) s

/-- Inputs that may land now, and those that may not yet. -/
def dueInputs (now : Nat) (xs : List (Nat × Input)) : List Input × List (Nat × Input) :=
  ((xs.filter fun x => decide (x.1 ≤ now)).map (·.2), xs.filter fun x => !decide (x.1 ≤ now))

/-- Fetch buffers fill ahead on the cores that are not gated (R272, R274). -/
def State.fillAll (s : State) : State :=
  s.bound.foldl (fun s cx =>
    if (s.ctx cx).dormant || (s.ctx cx).dawnHeld || (s.core (coreOf cx)).gated then s else s.fillAhead cx) s

/-- The clock ticks: fetch buffers fill ahead, and what the tick brings is laid out; what comes from outside lands after the bundles of
the tick (R183). A module without power does not tick: it takes its next input. -/
def State.tick (s : State) : State :=
  if !s.boot.powered then
    match s.inputs with
    | [] => s
    | x :: xs => { s with inputs := xs, agenda := [.input x.2] }
  else
    let s := ({ s with clock := s.clock + 1 } : State).countHeld.fillAll
    let (now, later) := dueInputs s.clock.toNat s.inputs
    { s with inputs := later
             agenda := [.stage 0, .stage 1, .stage 2, .stage 3, .stage 4] ++ now.map Agent.input ++ [.stage 5, .stage 6, .stage 7] }

end Sys2Proof.Machine
end

