-- ==== Sys2Proof/Machine/Step.lean ====
section
/-!
DEFINITION. Step: one move of the machine, and the placing of one bundle where a core fetches its next.
-/
namespace Sys2Proof.Machine

/-- The front end's turn: a packet is performed by its meaning (R21, R28). -/
def State.streamMove (s : State) (st : StreamId) : Host.Outcome State Fault Refusal :=
  match s.streamTurn st with
  | (.idle, s) => .next s
  | (.perform i, s) => exec i s
  | (.error e, s) => .next (s.streamError st e)

/-- What moves next moves. -/
def State.move (s : State) (a : Agent) : Host.Outcome State Fault Refusal :=
  match a with
  | .ev i => exec i s
  | .core c => .next (s.edge c)
  | .stream st => s.streamMove st
  | .input x => .next (s.takeInput x)
  | .stage n => .next { (s.stage n).2 with agenda := (s.stage n).1 ++ (s.stage n).2.agenda }

/-- One step: what is due in this tick moves, one after another; then the clock ticks. -/
def step (s : State) : Host.Outcome State Fault Refusal :=
  match s.agenda with
  | a :: rest => State.move { s with agenda := rest } a
  | [] => .next s.tick

/-- The address at which `withFetchWord` lays its bundle. -/
def fetchWordAt : Nat := 0x10000

/-- `s` with the bundle whose bits are `w` at the PC of a strand that is bound to context 0 and heads its core's next edge:
the bytes in memory, in a resident page that may be executed, and in the fetch buffer. -/
def State.withFetchWord (s : State) (nbits w : Nat) : State :=
  let bs := leBytes 64 (w % 2 ^ nbits)
  let run : Run := { va := fetchWordAt, size := 4096, pa := fetchWordAt, resident := true, r := true, x := true }
  let c : Ctx := { task := some 0, st := { pc := BitVec.ofNat 56 fetchWordAt }, runs := [run], fetchBase := fetchWordAt, fetchBuf := bs }
  let s := (s.setCtx 0 c).updCore 0 fun k => { k with running := 0, gated := false, wakeIn := 0 }
  { s with mem := Memory.store s.mem fetchWordAt bs, agenda := [.core 0], iss := {} }

end Sys2Proof.Machine
end

