-- ==== Sys2Proof/Safety.lean ====
section
/-!
DEFINITION. Safety: what the statements mean by a well-kept state, and the terms in which they say what a step does. Memories are
in their one canonical form, the sets of full words rise, and the registers that the spec wires to a constant hold nothing.
-/
namespace Sys2Proof.Machine

/-- The byte memories and the sets of words are in canonical form. -/
def State.stored (s : State) : Bool :=
  Memory.wf s.mem && Memory.wf s.loc && Memory.wf s.host0 && Memory.wf s.host1 && risingSet s.full && risingSet s.locFull

/-- g0 and k0 of a strand are not stored: they read as 0 and as all ones (Table 04-1). -/
def Strand.wired (st : Strand) : Prop := FMap.find st.g 0 = none ∧ FMap.find st.k 0 = none

/-- A step of the machine neither faults nor is refused. -/
def completes (o : Host.Outcome State Fault Refusal) : Prop := ∃ t, o = .next t

/-! ## What an instruction adds and what it leaves alone -/

/-- Every byte of every memory, and every full/empty bit, reads in `t` as it reads in `s`. -/
def sameMemory (s t : State) : Prop :=
  (∀ a, Memory.get t.mem a = Memory.get s.mem a) ∧ (∀ a, Memory.get t.loc a = Memory.get s.loc a) ∧
  (∀ a, Memory.get t.host0 a = Memory.get s.host0 a) ∧ (∀ a, Memory.get t.host1 a = Memory.get s.host1 a) ∧
  (∀ w, inSet t.full w = inSet s.full w) ∧ (∀ w, inSet t.locFull w = inSet s.locFull w)

/-- The registers of a strand that instructions read by name: every one reads in `t` as it reads in `s`. -/
def sameRegisters (s t : Strand) : Prop :=
  (∀ n, t.getG n = s.getG n) ∧ (∀ n, t.getV n = s.getV n) ∧ (∀ n, t.getK n = s.getK n) ∧
  (∀ n, FMap.getD t.b n 0 = FMap.getD s.b n 0) ∧ t.q = s.q ∧ (∀ n, FMap.getD t.acc n 0 = FMap.getD s.acc n 0)

/-- Every context but the one being issued is the same. -/
def sameOthers (s t : State) : Prop := ∀ cx, cx ≠ s.iss.cx → t.ctx cx = s.ctx cx

/-- `s` with entries added at the end of the in-flight table of the strand being issued, and no other change. -/
def State.entering (s : State) (es : List Flight) : State :=
  { s with ctxs := FMap.put s.ctxs s.iss.cx { s.cur with st := { s.cur.st with flight := s.cur.st.flight ++ es } } }

/-- `s` with flags that the bundle sets when it commits (R66, R87), and no other change. -/
def State.flagging (s : State) (f : MFlags) : State :=
  if f = 0 then s else { s with iss := { s.iss with hw := s.iss.hw ++ [.mstat f] } }

/-- `s` with a program's control write that takes effect when the bundle ends (R130), and no other change. -/
def State.writing (s : State) (n : CReg) (v : Word) : State := { s with iss := { s.iss with prog := s.iss.prog ++ [(n, v)] } }

/-- An entry as an instruction makes it: its operation, the latch that it writes and the cycles until it is readable. A sequencer's
template writes no latch, and its entries count cycles of the core (R251). It keeps its place
in the order of issue, since a later result prevails over it where both arrive in one cycle (R87). -/
def entryOf (s : State) (op : FlightOp) (x : Option (Nat × Latch)) (l : Nat) : Flight :=
  { op := op, latch := if s.iss.template then none else x, left := l, coreCount := s.iss.template, ord := s.nextId }
/-- The entry of a scalar result (R85, R108, R267): register D[4:0] unless D[5] is set, latch D[3:0], the value, its residue, and
the cycles until it is readable. -/
def gEntry (s : State) (d : Dst) (l : Nat) (v : Word) (r : BitVec 4) : Flight :=
  entryOf s (if d.latchOnly then .latchOnly else .g d.n.toNat ⟨v, r⟩)
    (some (d.n.toNat % 16, { val := v.setWidth 1024, sres := r, vres := untracked })) l
/-- The entry of a vector result. -/
def vEntry (s : State) (d : Dst) (l : Nat) (v : BitVec 1024) (r : BitVec 128) : Flight :=
  entryOf s (if d.latchOnly then .latchOnly else .v d.n.toNat ⟨v, r⟩)
    (some (d.n.toNat % 16, { val := v, sres := 15, vres := r })) l
/-- The entry of a mask result. -/
def kEntry (s : State) (d : Dst) (l : Nat) (m : BitVec 256) : Flight :=
  entryOf s (if d.latchOnly then .latchOnly else .k d.n.toNat m)
    (some (d.n.toNat % 16, { val := m.setWidth 1024, sres := 15, vres := untracked })) l
/-- The entry of a q result (R133): no latch, one cycle. -/
def qEntry (s : State) (n : BitVec 3) (v : Bool) : Flight :=
  { op := .q (BitVec.ofNat 8 (2 ^ n.toNat)) (if v then BitVec.ofNat 8 (2 ^ n.toNat) else 0), latch := none, left := 1
    coreCount := s.iss.template, ord := s.nextId }

/-- The residue of a 64-bit value (R77). -/
def res64 (v : Word) : BitVec 4 := BitVec.ofNat 4 (v.toNat % 15)

/-- The fault that a slot of the current bundle raises, as the fault registers report it (R107). -/
def slotFault (s : State) (slot : Nat) (cause : Cause) (addr data : Nat) : FaultInfo :=
  { cause := cause, slot := slot, addr := addr, data := data, pc := s.iss.pc, len := s.iss.len }

end Sys2Proof.Machine
end

