-- ==== Sys2Proof/Certificates/Slice0/Obligations.lean ====
section
/-!
DEFINITION. Obligations: the statements about this model, for the provers. Tables of results stand beside them, each written from
the spec's own table, in exact arithmetic, and not from the meanings.
-/
open Sys2Proof Sys2Proof.Machine

namespace Sys2Proof.Claims

/-! ## Tables of the scalar instructions (Tables 06-1 to 06-3, R136 to R142) -/

/-- The exact quotient truncated towards zero, from the magnitudes. -/
def truncQuot (a b : Int) : Int :=
  if (a < 0) = (b < 0) then (a.natAbs / b.natAbs : Nat) else -((a.natAbs / b.natAbs : Nat) : Int)

/-- 1 or 0. -/
def ind (p : Prop) [Decidable p] : Int := if p then 1 else 0

/-- `Int` division by a positive number rounds towards minus infinity. Mnemonics of layout RRR and RI that read two operands a and b: register form, immediate form, latency, exact result. -/
def integerRows : List ((OpRRR → Instr) × (OpRI → Instr) × Nat × (Word → Word → Int)) :=
  [ (.mul, .mulImm, 3, fun a b => a.toNat * b.toNat),
    (.mulhS64, .mulhS64Imm, 4, fun a b => a.toInt * b.toInt / 2 ^ 64),
    (.mulhZ64, .mulhZ64Imm, 4, fun a b => a.toNat * b.toNat / 2 ^ 64),
    (.minS64, .minS64Imm, 1, fun a b => min a.toInt b.toInt),
    (.minZ64, .minZ64Imm, 1, fun a b => min a.toNat b.toNat),
    (.maxS64, .maxS64Imm, 1, fun a b => max a.toInt b.toInt),
    (.maxZ64, .maxZ64Imm, 1, fun a b => max a.toNat b.toNat),
    (.and, .andImm, 1, fun a b => (a &&& b).toNat),
    (.or, .orImm, 1, fun a b => (a ||| b).toNat),
    (.xor, .xorImm, 1, fun a b => (a ^^^ b).toNat),
    (.andn, .andnImm, 1, fun a b => (a &&& ~~~b).toNat),
    (.shl, .shlImm, 1, fun a b => a.toNat * 2 ^ (b.toNat % 64)),
    (.shrZ64, .shrZ64Imm, 1, fun a b => a.toNat / 2 ^ (b.toNat % 64)),
    (.shrS64, .shrS64Imm, 1, fun a b => a.toInt / 2 ^ (b.toNat % 64)),
    (.rot, .rotImm, 1, fun a b => a.toNat * 2 ^ (b.toNat % 64) + a.toNat / 2 ^ (64 - b.toNat % 64)),
    (.cmpEq, .cmpEqImm, 1, fun a b => ind (a = b)),
    (.cmpNe, .cmpNeImm, 1, fun a b => ind (a ≠ b)),
    (.cmpLtS64, .cmpLtS64Imm, 1, fun a b => ind (a.toInt < b.toInt)),
    (.cmpLtZ64, .cmpLtZ64Imm, 1, fun a b => ind (a.toNat < b.toNat)),
    (.cmpLeS64, .cmpLeS64Imm, 1, fun a b => ind (a.toInt ≤ b.toInt)),
    (.cmpLeZ64, .cmpLeZ64Imm, 1, fun a b => ind (a.toNat ≤ b.toNat)) ]

/-- The divisions: register form, immediate form, exact result. -/
def divisionRows : List ((OpRRR → Instr) × (OpRI → Instr) × (Word → Word → Int)) :=
  [ (.divS64, .divS64Imm, fun a b => if b = 0 then -1 else truncQuot a.toInt b.toInt),
    (.divZ64, .divZ64Imm, fun a b => if b = 0 then 2 ^ 64 - 1 else a.toNat / b.toNat),
    (.remS64, .remS64Imm, fun a b => if b = 0 then a.toInt else a.toInt - b.toInt * truncQuot a.toInt b.toInt),
    (.remZ64, .remZ64Imm, fun a b => if b = 0 then a.toNat else a.toNat - b.toNat * (a.toNat / b.toNat)) ]

/-- The compares into q registers: register form, immediate form, what is true. -/
def compareRows : List ((OpQRR → Instr) × (OpQRI → Instr) × (Word → Word → Bool)) :=
  [ (.cmpEqQ, .cmpEqQImm, fun a b => a = b),
    (.cmpNeQ, .cmpNeQImm, fun a b => a ≠ b),
    (.cmpLtS64Q, .cmpLtS64QImm, fun a b => a.toInt < b.toInt),
    (.cmpLtZ64Q, .cmpLtZ64QImm, fun a b => a.toNat < b.toNat),
    (.cmpLeS64Q, .cmpLeS64QImm, fun a b => a.toInt ≤ b.toInt),
    (.cmpLeZ64Q, .cmpLeZ64QImm, fun a b => a.toNat ≤ b.toNat) ]

/-- The immediate operand as a 64-bit pattern (R131). -/
def immWord (i : BitVec 44) : Word := BitVec.ofInt 64 i.toInt

/-- A scalar source's value: a register (g0 reads as 0) or the low 64 bits of a latch (R85, R97). -/
def srcG (s : State) (a : Src) : Word :=
  match a with
  | .reg n => if n = 0 then 0 else (FMap.getD s.cur.st.g n.toNat {}).val
  | .latch n => BitVec.ofNat 64 ((FMap.getD s.cur.x n.toNat {}).val.toNat)
/-- The residue that travels with a scalar source (R77). -/
def resG (s : State) (a : Src) : BitVec 4 :=
  match a with
  | .reg n => if n = 0 then 0 else (FMap.getD s.cur.st.g n.toNat {}).res
  | .latch n => (FMap.getD s.cur.x n.toNat {}).sres

/-- The state after an instruction whose one effect is a scalar result with a fresh residue. -/
def scalarResult (s : State) (d : Dst) (l : Nat) (v : Int) : State :=
  s.entering [gEntry s d l (BitVec.ofInt 64 v) (res64 (BitVec.ofInt 64 v))]

/-- The number of 1 bits of a word. -/
def ones (x : Word) : Nat := ((List.range 64).filter fun i => x.toNat / 2 ^ i % 2 = 1).length
/-- The number of 0 bits above the highest 1 bit. -/
def zerosAbove (x : Word) : Nat := ((List.range 65).filter fun n => 0 < n ∧ x.toNat < 2 ^ (64 - n)).length
/-- The number of 0 bits below the lowest 1 bit. -/
def zerosBelow (x : Word) : Nat := ((List.range 65).filter fun n => 0 < n ∧ x.toNat % 2 ^ n = 0).length

/-- A field of a word (R139): `len + 1` bits from `pos`. -/
def field (x : Word) (pos len : BitVec 6) : Nat := x.toNat / 2 ^ pos.toNat % 2 ^ (len.toNat + 1)

end Sys2Proof.Claims

open Sys2Proof.Claims

/-! ## Scalar instructions -/

/-- R135, R137, R140: the scalar arithmetic, logic, shift and compare instructions, in register and in immediate form, write the
exact result of their row, modulo 2^64, with a fresh residue and the latency of Table 06-1, and change nothing else. -/
def Sys2Proof.Claims.ScalarIntegerResults : Prop :=
  ∀ r ∈ integerRows, ∀ s : State,
    (∀ o : OpRRR, Pred.holds o.p s.cur.st.q = true →
      exec (r.1 o) s = .next (scalarResult s o.d r.2.2.1 (r.2.2.2 (srcG s o.a) (srcG s o.b)))) ∧
    (∀ o : OpRI, Pred.holds o.p s.cur.st.q = true →
      exec (r.2.1 o) s = .next (scalarResult s o.d r.2.2.1 (r.2.2.2 (srcG s o.a) (immWord o.imm))))

/-- R132, R135: `add` and `sub` write the exact sum and difference modulo 2^64, with the residue predicted from the operands'
residues and the carry or borrow, or a fresh one where either residue is 15. -/
def Sys2Proof.Claims.AddSubPredictResidues : Prop :=
  let sum (a b : Word) (ra rb : BitVec 4) : Word × BitVec 4 :=
    let v := BitVec.ofNat 64 (a.toNat + b.toNat)
    (v, if ra = 15 ∨ rb = 15 then res64 v
        else BitVec.ofInt 4 ((ra.toNat + rb.toNat - ind (2 ^ 64 ≤ a.toNat + b.toNat)) % 15))
  let diff (a b : Word) (ra rb : BitVec 4) : Word × BitVec 4 :=
    let v := BitVec.ofInt 64 (a.toNat - b.toNat)
    (v, if ra = 15 ∨ rb = 15 then res64 v
        else BitVec.ofInt 4 ((ra.toNat - rb.toNat + ind (a.toNat < b.toNat)) % 15))
  ∀ s : State,
    (∀ o : OpRRR, Pred.holds o.p s.cur.st.q = true →
      let x := sum (srcG s o.a) (srcG s o.b) (resG s o.a) (resG s o.b)
      let y := diff (srcG s o.a) (srcG s o.b) (resG s o.a) (resG s o.b)
      exec (.add o) s = .next (s.entering [gEntry s o.d 1 x.1 x.2]) ∧
      exec (.sub o) s = .next (s.entering [gEntry s o.d 1 y.1 y.2])) ∧
    (∀ o : OpRI, Pred.holds o.p s.cur.st.q = true →
      let x := sum (srcG s o.a) (immWord o.imm) (resG s o.a) (res64 (immWord o.imm))
      let y := diff (srcG s o.a) (immWord o.imm) (resG s o.a) (res64 (immWord o.imm))
      exec (.addImm o) s = .next (s.entering [gEntry s o.d 1 x.1 x.2]) ∧
      exec (.subImm o) s = .next (s.entering [gEntry s o.d 1 y.1 y.2]))

/-- R134, R135, R136: a division or remainder never faults; it writes the exact result with latency 20, and takes its core's
divider for 20 core cycles. -/
def Obligations.DivisionResults : Prop :=
  ∀ r ∈ divisionRows, ∀ s : State,
    let busy (t : State) : State :=
      { t with cores := FMap.put t.cores (s.iss.cx / 4) { FMap.getD t.cores (s.iss.cx / 4) {} with divBusy := 20 } }
    (∀ o : OpRRR, Pred.holds o.p s.cur.st.q = true →
      exec (r.1 o) s = .next (busy (scalarResult s o.d 20 (r.2.2 (srcG s o.a) (srcG s o.b))))) ∧
    (∀ o : OpRI, Pred.holds o.p s.cur.st.q = true →
      exec (r.2.1 o) s = .next (busy (scalarResult s o.d 20 (r.2.2 (srcG s o.a) (immWord o.imm)))))

/-- R138, R139: the bit counts and the field instructions. -/
def Sys2Proof.Claims.BitAndFieldResults : Prop :=
  ∀ s : State,
    (∀ o : OpRRR, Pred.holds o.p s.cur.st.q = true →
      exec (.popc o) s = .next (scalarResult s o.d 1 (ones (srcG s o.a))) ∧
      exec (.clz o) s = .next (scalarResult s o.d 1 (zerosAbove (srcG s o.a))) ∧
      exec (.ctz o) s = .next (scalarResult s o.d 1 (zerosBelow (srcG s o.a)))) ∧
    (∀ o : OpBF, Pred.holds o.p s.cur.st.q = true → o.pos.toNat + (o.len.toNat + 1) ≤ 64 →
      exec (.bext o) s = .next (scalarResult s o.d 1 (field (srcG s o.a) o.pos o.len)) ∧
      exec (.sext o) s = .next (scalarResult s o.d 1
        (field (srcG s o.a) o.pos o.len -
          2 ^ (o.len.toNat + 1) * ind (2 ^ o.len.toNat ≤ field (srcG s o.a) o.pos o.len))) ∧
      exec (.bins o) s = .next (scalarResult s o.d 1
        ((srcG s o.a).toNat + 2 ^ o.pos.toNat *
          ((field (srcG s o.b) 0 o.len : Int) - field (srcG s o.a) o.pos o.len))))

/-- R133, R140: a compare into a q register writes 1 or 0 to it one cycle later, and no latch. -/
def Sys2Proof.Claims.CompareToPredicate : Prop :=
  ∀ r ∈ compareRows, ∀ s : State,
    (∀ o : OpQRR, Pred.holds o.p s.cur.st.q = true →
      exec (r.1 o) s = .next (s.entering [qEntry s o.q (r.2.2 (srcG s o.a) (srcG s o.b))])) ∧
    (∀ o : OpQRI, Pred.holds o.p s.cur.st.q = true →
      exec (r.2.1 o) s = .next (s.entering [qEntry s o.q (r.2.2 (srcG s o.a) (immWord o.imm))]))

/-- R77, R132, R141, R142, R143, R144: `sel` passes on the chosen operand, with its residue unless a residue of the two is 15, where the
result has a fresh one; `li` and `lih` build constants; a control
register is read with a fresh residue, and `%clock` reads the clock of the cycle in a bundle that has not held; `evt.set` and
`evt.clr` change one bit of EVT and no other bit of `%flags`. -/
def Sys2Proof.Claims.SelectConstantsAndControlReads : Prop :=
  ∀ s : State,
    (∀ (o : OpRRR) (q : BitVec 5), Pred.holds o.p s.cur.st.q = true → o.c = .reg q → q.toNat < 8 →
      let x := if s.cur.st.q.getLsbD q.toNat then (srcG s o.a, resG s o.a) else (srcG s o.b, resG s o.b)
      exec (.sel o) s = .next (s.entering
        [gEntry s o.d 1 x.1 (if resG s o.a = 15 ∨ resG s o.b = 15 then res64 x.1 else x.2)])) ∧
    (∀ o : OpDI, Pred.holds o.p s.cur.st.q = true →
      exec (.li o) s = .next (scalarResult s o.d 1 o.imm.toInt) ∧
      exec (.lih o) s = .next (scalarResult s o.d 1
        (o.imm.toInt % 2 ^ 20 * 2 ^ 44 + ((srcG s o.a).toNat % 2 ^ 44 : Nat)))) ∧
    (∀ o : OpCRr, Pred.holds o.p s.cur.st.q = true →
      exec (.movFromCr o) s = .next (scalarResult s o.d 1 (s.readCR o.n).toNat) ∧
      (s.iss.committed = none → s.readCR .clock = s.clock)) ∧
    (∀ o : OpEv, Pred.holds o.p s.cur.st.q = true →
      exec (.evtSet o) s = .next (s.writing .flags ((s.cur.st.ctl.evt ||| 1#32 <<< o.n.toNat).setWidth 64)) ∧
      exec (.evtClr o) s = .next (s.writing .flags ((s.cur.st.ctl.evt &&& ~~~(1#32 <<< o.n.toNat)).setWidth 64)) ∧
      ∀ (c : Ctl) (v : Word), v.getLsbD 39 = false →
        c.writeCR .flags v 0 = { c with evt := v.setWidth 32 })

/-- R88, R143, R175, Table 04-4: how each control register reads. `%clock` and `%flags` are those of the cycle, in a bundle that held those
of its presentation; `%flags` holds EVT in bits 31:0, in bits 36:32 a 1 for each queue in which no command of this context is, and
LNSIDLE, DUE and RES in bits 37, 38 and 39; `%place` is MODID, die, cluster, core and context; `%taskid` the job and the record;
`%crew` FUSED, the size less one and the member; the others are what the strand holds. Reserved bits read 0. -/
def Sys2Proof.Claims.ControlReadViews : Prop :=
  ∀ s : State,
    let c := s.cur.st.ctl
    (s.iss.committed = none → s.readCR .clock = s.clock ∧
      let f := s.readCR .flags
      (∀ i < 32, f.getLsbD i = c.evt.getLsbD i) ∧
      (∀ q < 5, (f.getLsbD (32 + q) = true ↔ ∀ x ∈ s.cmds, x.cx = s.iss.cx → x.queue ≠ q)) ∧
      (f.getLsbD 37 = true ↔ (FMap.getD s.cores (s.iss.cx / 4) {}).lns.mode = .idle) ∧
      (f.getLsbD 38 = true ↔ c.due.toNat ≤ s.clock.toNat) ∧ f.getLsbD 39 = c.resFlag ∧
      ∀ i, 40 ≤ i → f.getLsbD i = false) ∧
    (∀ h, s.iss.committed = some h → (s.readCR .clock).toNat = h.presented % 2 ^ 64 ∧ s.readCR .flags = h.flags) ∧
    s.readCR .due = c.due ∧ s.readCR .fcause = c.fcause ∧ s.readCR .faddr = c.faddr ∧ s.readCR .fdata = c.fdata ∧
    s.readCR .rseed = c.rseed ∧ s.readCR .alarm = c.alarm ∧
    (s.readCR .seqlen).toNat = c.seqlen.toNat ∧ (s.readCR .fbundle).toNat = c.fbundle.toNat ∧
    (s.readCR .mstat).toNat = c.mstat.toNat ∧ (s.readCR .lc).toNat = c.lc.toNat ∧ (s.readCR .stage).toNat = c.stage.toNat ∧
    (s.readCR .tvec).toNat = c.tvec.toNat ∧ (s.readCR .watch).toNat = c.watch.toNat ∧
    (s.readCR .spill).toNat = c.spillSize.toNat ∧ s.readCR .tstate = (if c.intrap then 1 else 0) ∧
    (s.readCR .taskid).toNat = c.job.toNat * 2 ^ 52 + c.record.toNat ∧
    (s.readCR .place).toNat = s.boot.modid.toNat * 2 ^ 12 + s.iss.cx % 2 ^ 12 ∧
    (s.readCR .crew).toNat = (if c.fused then 2 ^ 7 else 0) + c.crewM1.toNat * 2 ^ 4 + c.member.toNat

/-- R78, R143: a write of a control register is kept for the end of the bundle; where the register is one of `%due`, `%lc`,
`%tvec`, `%fbundle`, `%alarm` and `%watch`, a residue that is neither 15 nor that of the value faults RESIDUE. -/
def Sys2Proof.Claims.ControlWriteChecksResidue : Prop :=
  ∀ (s : State) (o : OpCRw), Pred.holds o.p s.cur.st.q = true →
    let checked := o.n ∈ [CReg.due, .lc, .tvec, .fbundle, .alarm, .watch]
    let ok := resG s o.a = 15 ∨ resG s o.a = res64 (srcG s o.a)
    ((¬ checked ∨ ok) → exec (.movToCr o) s = .next (s.writing o.n (srcG s o.a))) ∧
    (checked → ¬ ok → exec (.movToCr o) s = .next (s.raise 0 .residue 0 ((resG s o.a).toNat * 16 + (srcG s o.a).toNat % 15)))

/-- R5, R60, R88, R89, R143: how a program's write changes each control register: read-only registers and fields ignore it, `%rseed`
never becomes 0, `%flags`.RES is cleared by a 1 and EVT is written but for the bits an engine sets in the same cycle. -/
def Sys2Proof.Claims.ControlWriteByField : Prop :=
  ∀ (c : Ctl) (v : Word) (keep : BitVec 32),
    (∀ n ∈ [CReg.clock, .fcause, .faddr, .taskid, .stage, .place, .crew, .tstate, .spill, .fdata], c.writeCR n v keep = c) ∧
    c.writeCR .due v keep = { c with due := v } ∧
    c.writeCR .alarm v keep = { c with alarm := v } ∧
    c.writeCR .seqlen v keep = { c with seqlen := v.setWidth 32 } ∧
    c.writeCR .lc v keep = { c with lc := v.setWidth 32 } ∧
    c.writeCR .mstat v keep = { c with mstat := v.setWidth 8 } ∧
    c.writeCR .tvec v keep = { c with tvec := v.setWidth 56 } ∧
    (c.writeCR .rseed v keep).rseed ≠ 0 ∧ (v ≠ 0 → c.writeCR .rseed v keep = { c with rseed := v }) ∧
    (c.writeCR .fbundle v keep).fbundle.toNat = v.toNat % 2 ^ 56 / 2 * 2 ∧
    (c.writeCR .watch v keep).watch.toNat = v.toNat % 2 ^ 56 / 2 * 2 ∧
    (∀ i < 32, (c.writeCR .flags v keep).evt.getLsbD i = (v.getLsbD i || keep.getLsbD i)) ∧
    ((c.writeCR .flags v keep).resFlag = true ↔ c.resFlag = true ∧ v.getLsbD 39 = false)

namespace Sys2Proof.Claims

/-- The word that a rounding uses, and the state after the draw: mode SR draws one word, every other mode none (R60). -/
def drawn (s : State) (rm : Rm) : Nat × State :=
  if rm = .sr then
    let g := draw (s.iss.seed.getD s.cur.st.ctl.rseed)
    (g.2, { s with iss := { s.iss with seed := some g.1 } })
  else (0, s)

/-- A scalar FP32 operand: its low 32 bits as a number, and NV where it is a signalling NaN (R62, R146). -/
def fpOf (s : State) (a : Src) : XNum × MFlags := valueOf .f ((srcG s a).toNat % 2 ^ 32)

/-- The FP32 sum, difference, product and product-sum, exact, with the flag of an invalid operation (R62, R146). -/
def fpRows : List ((OpRRR → Instr) × (Rm → XNum → XNum → XNum × MFlags)) :=
  [ (.faddF, fun rm x y => x.add rm y),
    (.fsubF, fun rm x y => x.add rm y.opp),
    (.fmulF, fun _ x y => x.mul y) ]

/-- The offset of a spill access before alignment: the base unsigned, the immediate signed (R149; assumption 15). -/
def spillOff (s : State) (o : OpSS) : Int := ((srcG s o.a).toNat : Int) + o.imm.toInt
/-- The aligned offset. -/
def spillBase (s : State) (o : OpSS) (n : Nat) : Nat := (spillOff s o).toNat / n * n
/-- A spill access of `n` bytes lies inside the store (R93, R149). -/
def spillFits (s : State) (o : OpSS) (n : Nat) : Prop :=
  0 ≤ spillOff s o ∧ spillBase s o n + n ≤ s.cur.st.ctl.spillSize.toNat
/-- A scalar source passes its residue check (R78). -/
def passes (s : State) (a : Src) : Prop := resG s a = 15 ∨ resG s a = res64 (srcG s a)
/-- Lane residue `j` of a vector. -/
def lres (r : BitVec 128) (j : Nat) : BitVec 4 := BitVec.ofNat 4 (r.toNat / 2 ^ (4 * j))
/-- 64-bit lane `i` of a vector. -/
def lane64 (v : BitVec 1024) (i : Nat) : Word := BitVec.ofNat 64 (v.toNat / 2 ^ (64 * i))
/-- A vector source: a register or a latch (R97). -/
def srcV (s : State) (a : Src) : BitVec 1024 × BitVec 128 :=
  match a with
  | .reg n => ((FMap.getD s.cur.st.v n.toNat {}).val, (FMap.getD s.cur.st.v n.toNat {}).res)
  | .latch n => ((FMap.getD s.cur.x n.toNat {}).val, (FMap.getD s.cur.x n.toNat {}).vres)
/-- Every 32-bit lane of a vector passes its residue check. -/
def passesV (v : BitVec 1024 × BitVec 128) : Prop :=
  ∀ j < 32, lres v.2 j = 15 ∨ (lres v.2 j).toNat = v.1.toNat / 2 ^ (32 * j) % 2 ^ 32 % 15

/-- A predicate code of a slot word lets the slot execute (Table 04-7, R96). -/
def executes (pred : BitVec 4) (q : BitVec 8) : Bool :=
  if pred.getLsbD 3 then q.getLsbD (pred.toNat % 8) else pred == 0 || !q.getLsbD (pred.toNat % 8)

end Sys2Proof.Claims

/-- R146, R147 (R58, R60, R66): the FP32 sum, difference, product and product-sum take the low 32 bits of their operands, form the
exact result, round it once to FP32 in the instruction's mode with latency 4, and set the flags of the operands, of the operation and
of the rounding; under SR one word is drawn. `fmin.f` and `fmax.f` round nothing and take one cycle. -/
def Sys2Proof.Claims.ScalarFloatResults : Prop :=
  ∀ (s : State) (o : OpRRR), Pred.holds o.p s.cur.st.q = true →
    (∀ r ∈ fpRows,
      let x := fpOf s o.a
      let y := fpOf s o.b
      let e := r.2 o.rm x.1 y.1
      let c := roundTo .f o.rm (drawn s o.rm).1 e.1
      exec (r.1 o) s = .next (((drawn s o.rm).2.entering
        [gEntry s o.d 4 (BitVec.ofNat 64 c.1) (res64 (BitVec.ofNat 64 c.1))]).flagging (x.2 ||| y.2 ||| e.2 ||| c.2))) ∧
    (let x := fpOf s o.a
     let y := fpOf s o.b
     let z := fpOf s o.c
     let m := x.1.mul y.1
     let e := m.1.add o.rm z.1
     let c := roundTo .f o.rm (drawn s o.rm).1 e.1
     exec (.fmaF o) s = .next (((drawn s o.rm).2.entering
       [gEntry s o.d 4 (BitVec.ofNat 64 c.1) (res64 (BitVec.ofNat 64 c.1))]).flagging
         (x.2 ||| y.2 ||| z.2 ||| m.2 ||| e.2 ||| c.2))) ∧
    (∀ greater : Bool,
      let a := (srcG s o.a).toNat % 2 ^ 32
      let b := (srcG s o.b).toNat % 2 ^ 32
      let x := fpOf s o.a
      let y := fpOf s o.b
      let i : Instr := if greater then .fmaxF o else .fminF o
      let c := if x.1 = .nan ∨ y.1 = .nan then 0x7FC00000
               else if (if greater then y.1.below x.1 else x.1.below y.1) then a
               else if (if greater then x.1.below y.1 else y.1.below x.1) then b
               else a
      exec i s = .next ((s.entering [gEntry s o.d 1 (BitVec.ofNat 64 c) (res64 (BitVec.ofNat 64 c))]).flagging
        (if x.1 = .nan ∨ y.1 = .nan then x.2 ||| y.2 else 0)))

/-- R148: `cvt` converts the low bits of its operand, writes a signed result sign-extended and any other zero-extended, with latency
3, and sets the conversion's flags; where the two types are the same it moves the bits. -/
def Sys2Proof.Claims.ScalarConversionResults : Prop :=
  ∀ (s : State) (o : OpSC), Pred.holds o.p s.cur.st.q = true →
    let a := (srcG s o.a).toNat % 2 ^ o.sty.width
    let c := if o.sty = o.dty then (a, 0) else convert o.sty o.dty o.rm (drawn s o.rm).1 a
    let v : Int := if o.dty.isSigned ∧ 2 ^ (o.dty.width - 1) ≤ c.1 % 2 ^ o.dty.width then
        (c.1 % 2 ^ o.dty.width : Nat) - (2 ^ o.dty.width : Nat)
      else if o.dty.isSigned then (c.1 % 2 ^ o.dty.width : Nat) else c.1
    exec (.cvt o) s = .next (((drawn s o.rm).2.entering
      [gEntry s o.d 3 (BitVec.ofInt 64 v) (res64 (BitVec.ofInt 64 v))]).flagging c.2)

/-- R58: a representable value is returned unchanged, and with no flag, in every mode: every code of every floating format that is
neither an infinity nor a NaN rounds to itself. -/
def Sys2Proof.Claims.RepresentableIsUnchanged : Prop :=
  ∀ t ∈ [Ty.e2, .e4, .e5, .hf, .bf, .f], ∀ (rm : Rm) (w code : Nat), code < 2 ^ t.width →
    (∀ n, decodeFloat t code ≠ .inf n) → decodeFloat t code ≠ .nan → roundTo t rm w (decodeFloat t code) = (code, 0)

/-- R57, R58, R59, Table 03-9: the worked rounding cases, each value m × 2^e under RNE, RZ, RU and RD, and the example of R59 under
SR with the words 0xC000 and 0xBFFF. -/
def Sys2Proof.Claims.WorkedRoundings : Prop :=
  (∀ c ∈ [ (Ty.e2, (5 : Int), (-1 : Int), [4, 4, 5, 4]), (.e2, 5, 0, [6, 6, 7, 6]), (.e2, -5, 0, [14, 14, 14, 15]),
           (.e2, 1, -2, [0, 0, 1, 0]), (.e2, 3, -2, [2, 1, 2, 1]), (.e4, 17, 0, [0x58, 0x58, 0x59, 0x58]),
           (.e4, 19, 0, [0x5A, 0x59, 0x5A, 0x59]), (.bf, 257, -8, [0x3F80, 0x3F80, 0x3F81, 0x3F80]),
           (.bf, 259, -8, [0x3F82, 0x3F81, 0x3F82, 0x3F81]), (.hf, 65520, 0, [0x7C00, 0x7BFF, 0x7C00, 0x7BFF]) ],
    [Rm.rne, .rz, .ru, .rd].map (fun rm => (roundTo c.1 rm 0 (.fin c.2.1 c.2.2.1)).1) = c.2.2.2) ∧
  [Rm.rne, .rz, .ru, .rd].map (fun rm => (roundToInt .s8 rm 0 (.fin 5 (-1))).1) = [2, 2, 3, 2] ∧
  [Rm.rne, .rz, .ru, .rd].map (fun rm => (roundToInt .s8 rm 0 (.fin (-5) (-1))).1) = [0xFE, 0xFE, 0xFE, 0xFD] ∧
  (roundTo .bf .sr 0xC000 (.fin 513 (-9))).1 = 0x3F81 ∧ (roundTo .bf .sr 0xBFFF (.fin 513 (-9))).1 = 0x3F80

/-- R93, R149: a spill access whose base and store data pass their residue checks, and that lies inside the store, moves its word or
its vector slot with its residues; one that does not lie inside it faults SPILL_RANGE with the offset. A load that meets an
uncorrectable error gives zero, and RES or k15 as the bundle ends: R392 says so of the spaces, and the model takes it for the spill
store too (assumption 86). -/
def Obligations.SpillAccesses : Prop :=
  ∀ (s : State) (o : OpSS), Pred.holds o.p s.cur.st.q = true → passes s o.a →
    let word (k : Nat) : SpillWord := FMap.getD s.cur.st.spill k {}
    let k8 := spillBase s o 8 / 8
    let k128 := spillBase s o 128 / 8
    (spillFits s o 8 → (word k8).bad = false → exec (.spLd o) s = .next (s.entering [gEntry s o.d 1 (word k8).val
      (if (word k8).scalar then (word k8).r0
       else if (word k8).r0 = 15 ∨ (word k8).r1 = 15 then 15
       else BitVec.ofNat 4 (((word k8).r0.toNat + (word k8).r1.toNat) % 15))])) ∧
    (spillFits s o 8 → passes s o.c → exec (.spSt o) s = .next (s.updSt fun st => { st with
      spill := FMap.put st.spill k8 { val := srcG s o.c, scalar := true, r0 := resG s o.c } })) ∧
    (spillFits s o 8 → (word k8).bad = true → ∃ t, exec (.spLd o) s = .next t ∧ sameMemory s t ∧ sameOthers s t ∧
      (t.ctx s.iss.cx).st = { s.cur.st with flight := s.cur.st.flight ++ [gEntry s o.d 1 0 0] } ∧ t.iss.hw = s.iss.hw ++ [.resFlag]) ∧
    (spillFits s o 128 → (∃ i < 16, (word (k128 + i)).bad = true) → ∃ t, exec (.spVld o) s = .next t ∧ sameMemory s t ∧ sameOthers s t ∧
      (t.ctx s.iss.cx).st = { s.cur.st with flight := s.cur.st.flight ++ [vEntry s o.d 1 0 0] } ∧ t.iss.hw = s.iss.hw ++ [.k15 128]) ∧
    (spillFits s o 128 → (∀ i < 16, (word (k128 + i)).bad = false) → ∃ v r, exec (.spVld o) s = .next (s.entering [vEntry s o.d 1 v r]) ∧
      ∀ i < 16, lane64 v i = (word (k128 + i)).val ∧
        lres r (2 * i) = (if (word (k128 + i)).scalar then 15 else (word (k128 + i)).r0) ∧
        lres r (2 * i + 1) = (if (word (k128 + i)).scalar then 15 else (word (k128 + i)).r1)) ∧
    (spillFits s o 128 → passesV (srcV s o.c) → ∃ m, exec (.spVst o) s = .next (s.updSt fun st => { st with spill := m }) ∧
      (∀ i < 16, FMap.getD m (k128 + i) {} =
        ⟨lane64 (srcV s o.c).1 i, false, lres (srcV s o.c).2 (2 * i), lres (srcV s o.c).2 (2 * i + 1), false⟩) ∧
      ∀ k, (k < k128 ∨ k128 + 16 ≤ k) → FMap.getD m k {} = word k) ∧
    (¬ spillFits s o 8 → exec (.spLd o) s = .next (s.raise 0 .spillRange (spillOff s o % 2 ^ 64).toNat 0) ∧
      (passes s o.c → exec (.spSt o) s = .next (s.raise 0 .spillRange (spillOff s o % 2 ^ 64).toNat 0))) ∧
    (¬ spillFits s o 128 → exec (.spVld o) s = .next (s.raise 0 .spillRange (spillOff s o % 2 ^ 64).toNat 0) ∧
      (passesV (srcV s o.c) → exec (.spVst o) s = .next (s.raise 0 .spillRange (spillOff s o % 2 ^ 64).toNat 0)))

/-- R96: a slot whose predicate does not let it execute has no effect and draws nothing, for every instruction that has a slot
word. -/
def Sys2Proof.Claims.SlotsSkippedHaveNoEffect : Prop :=
  ∀ (i : Instr) (pos : SlotPos) (r : Raw) (s : State), encodeSlot i = some (pos, r) → executes r.pred s.cur.st.q = false →
    exec i s = .next s

/-- The frame of the scalar instructions that write a register (R135 to R143, R146 to R148): no register, no control register, no
spill word, no memory and no other context changes, every result enters the in-flight table for its own destination, and no
latch if a sequencer's template makes it (R251), and only the generator, the flags and the divider are touched beside it. -/
def Obligations.ScalarFrame : Prop :=
  ∀ (i : Instr) (d : Dst),
    ((∃ o : OpRRR, o.d = d ∧ i ∈ [Instr.add o, .sub o, .mul o, .mulhS64 o, .mulhZ64 o, .divS64 o, .divZ64 o, .remS64 o, .remZ64 o,
        .minS64 o, .minZ64 o, .maxS64 o, .maxZ64 o, .and o, .or o, .xor o, .andn o, .shl o, .shrZ64 o, .shrS64 o, .rot o, .popc o,
        .clz o, .ctz o, .cmpEq o, .cmpNe o, .cmpLtS64 o, .cmpLtZ64 o, .cmpLeS64 o, .cmpLeZ64 o, .sel o, .faddF o, .fsubF o,
        .fmulF o, .fmaF o, .fminF o, .fmaxF o]) ∨
     (∃ o : OpRI, o.d = d ∧ i ∈ [Instr.addImm o, .subImm o, .mulImm o, .mulhS64Imm o, .mulhZ64Imm o, .divS64Imm o, .divZ64Imm o,
        .remS64Imm o, .remZ64Imm o, .minS64Imm o, .minZ64Imm o, .maxS64Imm o, .maxZ64Imm o, .andImm o, .orImm o, .xorImm o,
        .andnImm o, .shlImm o, .shrZ64Imm o, .shrS64Imm o, .rotImm o, .cmpEqImm o, .cmpNeImm o, .cmpLtS64Imm o, .cmpLtZ64Imm o,
        .cmpLeS64Imm o, .cmpLeZ64Imm o]) ∨
     (∃ o : OpBF, o.d = d ∧ i ∈ [Instr.bext o, .bins o, .sext o]) ∨ (∃ o : OpDI, o.d = d ∧ i ∈ [Instr.li o, .lih o]) ∨
     (∃ o : OpCRr, o.d = d ∧ i = .movFromCr o) ∨ (∃ o : OpSC, o.d = d ∧ i = .cvt o)) →
    ∀ s t : State, exec i s = .next t →
      sameMemory s t ∧ sameOthers s t ∧ sameRegisters s.cur.st (t.ctx s.iss.cx).st ∧
      (t.ctx s.iss.cx).st.ctl = s.cur.st.ctl ∧ (t.ctx s.iss.cx).st.spill = s.cur.st.spill ∧
      (t.ctx s.iss.cx).x = s.cur.x ∧ t.iss.prog = s.iss.prog ∧
      ∃ es : List Flight, (t.ctx s.iss.cx).st.flight = s.cur.st.flight ++ es ∧
        ∀ e ∈ es, (e.op = .latchOnly ∨ ∃ v, e.op = .g d.n.toNat v) ∧
          if s.iss.template then e.latch = none else ∃ l, e.latch = some (d.n.toNat % 16, l)

namespace Sys2Proof.Claims

/-- PC + 2 × sext(OFF, 30), bit 0 ignored (R104, R119, R150). -/
def nearTarget (s : State) (off : BitVec 30) : BitVec 56 := BitVec.ofInt 56 (s.iss.pc.toNat / 2 * 2 + 2 * off.toInt)
/-- A register target, bit 0 ignored. -/
def farTarget (v : Word) : BitVec 56 := BitVec.ofNat 56 (v.toNat / 2 * 2)
/-- `s` with the bundle's next PC, and no other change. -/
def going (s : State) (t : BitVec 56) : State := { s with iss := { s.iss with target := some t } }
/-- `s` with what the bundle asks for at its end, and no other change. -/
def asking (s : State) (a : After) : State := { s with iss := { s.iss with after := a } }
/-- The entry of a link (R150, R133): g31, no latch, one cycle, fresh residue. -/
def linkEntry (s : State) : Flight :=
  let v : Word := BitVec.ofNat 64 ((s.iss.pc.toNat + s.iss.len) % 2 ^ 56)
  entryOf s (.g 31 ⟨v, res64 v⟩) none 1
/-- `s` with hardware updates of control state that follow the program's writes (R87), and no other change. -/
def updating (s : State) (us : List HwUpd) : State := { s with iss := { s.iss with hw := s.iss.hw ++ us } }

/-- ROW of a b register after a rotation (R82): with SPAN 0 it moves by STRIDE modulo 2^13; else it moves inside its window. -/
def rotatedRow (b : Nat) : Nat :=
  let row : Int := b % 2 ^ 13
  let stride : Int := if b / 2 ^ 28 % 2 = 1 then b / 2 ^ 16 % 2 ^ 13 - 2 ^ 13 else b / 2 ^ 16 % 2 ^ 13
  let lo : Int := b / 2 ^ 32 % 2 ^ 13
  let span : Int := b / 2 ^ 48 % 2 ^ 13
  (if span = 0 then (row + stride) % 2 ^ 13 else (lo + (row - lo + stride) % span) % 2 ^ 13).toNat

end Sys2Proof.Claims

/-- R104, R150, R162: `br` and `call` go to PC + 2 × OFF, `jmp` and `call.r` to a register whose residue passes, bit 0 of the target
ignored and, as the model chooses, bits 63:56 of the register too (assumption 75); the calls leave the address of the next bundle in g31, and in no latch; `nop` and `lnop` have no effect. -/
def Sys2Proof.Claims.TransfersAndNops : Prop :=
  ∀ s : State,
    (∀ o : OpLB, Pred.holds o.p s.cur.st.q = true →
      exec (.br o) s = .next (going s (nearTarget s o.off)) ∧
      exec (.call o) s = .next ((going s (nearTarget s o.off)).entering [linkEntry s])) ∧
    (∀ o : OpLR, Pred.holds o.p s.cur.st.q = true →
      (passes s o.a → exec (.jmp o) s = .next (going s (farTarget (srcG s o.a))) ∧
        exec (.callR o) s = .next ((going s (farTarget (srcG s o.a))).entering [linkEntry s])) ∧
      (¬ passes s o.a → ∀ i ∈ [Instr.jmp o, .callR o],
        exec i s = .next (s.raise 6 .residue 0 ((resG s o.a).toNat * 16 + (srcG s o.a).toNat % 15)))) ∧
    (∀ o : OpN, exec (.nop o) s = .next s ∧ exec (.lnop o) s = .next s)

/-- R152, R153, R82: `loop` counts `%lc` down and branches while it is above 0; `loop.mod` shifts q0 to q7, rotates b0 to b7, and
branches while any q is 1. -/
def Sys2Proof.Claims.LoopsCountAndRotate : Prop :=
  ∀ (s : State) (o : OpLB), Pred.holds o.p s.cur.st.q = true →
    let old := s.cur.st.ctl.lc.toNat
    let lc : BitVec 32 := BitVec.ofNat 32 (old - 1)
    let q : BitVec 8 := BitVec.ofNat 8 (2 * s.cur.st.q.toNat + if 0 < old then 1 else 0)
    (exec (.loop o) s = .next (if 1 < old then going (updating s [.lc lc]) (nearTarget s o.off) else updating s [.lc lc])) ∧
    (let t := (updating s [.lc lc, .rotate]).entering [{ op := .q 0xFF q, latch := none, left := 1, coreCount := s.iss.template, ord := s.nextId }]
     exec (.loopMod o) s = .next (if q = 0 then t else going t (nearTarget s o.off))) ∧
    ∀ (st : Strand), ∀ j < 8, ∀ b, b = (FMap.getD st.b j 0).toNat →
      (FMap.getD st.rotate.b j 0).toNat = b / 2 ^ 13 * 2 ^ 13 + rotatedRow b

/-- R154, R155, R157, R161: the sleeps, the lock-step instructions and `eret` take effect when their bundle ends; `sleep.n` sleeps to
the issue tick plus its unsigned operand, which in a bundle that held is, as the model chooses, the tick of its commit (assumption 76); `eret` outside a handler raises ILL_OP with its opcode. -/
def Sys2Proof.Claims.SleepsLockStepAndReturn : Prop :=
  ∀ s : State,
    (∀ o : OpN, Pred.holds o.p s.cur.st.q = true →
      exec (.sleepDue o) s = .next (asking s .sleepDue) ∧ exec (.fuse o) s = .next (asking s .fuse) ∧
      exec (.rejoin o) s = .next (asking s .fuse) ∧ exec (.decouple o) s = .next (asking s .decouple) ∧
      (s.cur.st.ctl.intrap = true → exec (.eret o) s = .next (asking s .eret)) ∧
      (s.cur.st.ctl.intrap = false → exec (.eret o) s = .next (s.raise 6 .illOp s.iss.pc.toNat 0x12))) ∧
    (∀ o : OpLR, Pred.holds o.p s.cur.st.q = true →
      exec (.sleepN o) s = .next (asking s (.sleepTo (s.clock.toNat + (srcG s o.a).toNat))))

/-- R103, R105, R107, R160: `brk` raises BREAK with its immediate in `%fdata`. Where `%tvec`.EN is 1 and INTRAP is 0 the trap is
entered: the fault registers are written, `%fbundle` names the bundle, INTRAP is set, the PC is `%tvec`.ADDR, and latches, held
accesses and fetched bytes are gone; registers, memory and every other context stay. -/
def Sys2Proof.Claims.BreakEntersTheHandler : Prop :=
  ∀ (s : State) (o : OpLI), Pred.holds o.p s.cur.st.q = true →
    s.cur.st.ctl.tvec.getLsbD 0 = true → s.cur.st.ctl.intrap = false → s.iss.len < 64 →
    ∃ t, exec (.brk o) s = .next t ∧
      t.iss.faulted = some (slotFault s 6 .brk s.iss.pc.toNat o.imm.toNat) ∧
      sameMemory s t ∧ sameOthers s t ∧
      let c := t.ctx s.iss.cx
      sameRegisters s.cur.st c.st ∧ c.st.spill = s.cur.st.spill ∧
      c.st.ctl.fcause.toNat = s.iss.len * 2 ^ 16 + 6 * 2 ^ 12 + 0x13 ∧ c.st.ctl.faddr.toNat = s.iss.pc.toNat ∧
      c.st.ctl.fdata.toNat = o.imm.toNat ∧ c.st.ctl.fbundle = s.iss.pc ∧ c.st.ctl.intrap = true ∧ c.st.ctl.fused = false ∧
      c.st.pc.toNat = s.cur.st.ctl.tvec.toNat / 2 * 2 ∧ c.st.mode = .run ∧ c.st.owed = 0 ∧
      c.x = [] ∧ c.hold = none ∧ c.fetchBuf = [] ∧
      c.st.flight.map Flight.op = s.cur.st.flight.map Flight.op ∧ ∀ e ∈ c.st.flight, e.latch = none

/-- R105, R160: `sys` raises SYS, and `brk` raises BREAK where it may not enter the handler: the strand stops at the bundle with its
fault registers written, and every context of its crew is told to freeze so that the task can be suspended. -/
def Sys2Proof.Claims.SupervisorFaultsStopTheCrew : Prop :=
  ∀ (s : State) (o : OpLI) (k : Nat) (task : Task), Pred.holds o.p s.cur.st.q = true → s.iss.len < 64 →
    s.cur.task = some k → FMap.find s.tasks k = some task →
    ∀ c ∈ [(Instr.sys o, 0x14, Cause.sys), (Instr.brk o, 0x13, Cause.brk)],
      (c.2.2 = .brk → s.cur.st.ctl.tvec.getLsbD 0 = false ∨ s.cur.st.ctl.intrap = true) →
      ∃ t, exec c.1 s = .next t ∧ sameMemory s t ∧
        let f := slotFault s 6 c.2.2 s.iss.pc.toNat o.imm.toNat
        let x := t.ctx s.iss.cx
        x.st.mode = .frozen ∧ x.st.pc = s.iss.pc ∧ x.freeze = true ∧
        x.st.ctl.fcause.toNat = s.iss.len * 2 ^ 16 + 6 * 2 ^ 12 + c.2.1 ∧ x.st.ctl.faddr.toNat = s.iss.pc.toNat ∧
        x.st.ctl.fdata.toNat = o.imm.toNat ∧ x.st.ctl.fbundle = s.iss.pc ∧ x.st.ctl.intrap = s.cur.st.ctl.intrap ∧
        sameRegisters s.cur.st x.st ∧
        (FMap.find t.tasks k).map Task.phase = some (.freezing .suspended (some { f with tick := s.clock.toNat }) s.cur.st.ctl.member.toNat true)

namespace Sys2Proof.Claims

/-! ## Scratchpad and device locations (R164, R165, R295) -/

/-- A row number plus a signed offset, modulo 8,192. -/
def rowAt (base : Nat) (off : Int) : Nat := ((base + off) % 8192).toNat
/-- The row and word of a scalar LOCAL operand: ROW of the b register that field A names plus IMM[11:4], and IMM[3:0]. -/
def localRow (s : State) (a : Src) (off : Int) : Nat :=
  match a with
  | .reg n => rowAt ((FMap.getD s.cur.st.b n.toNat 0).toNat % 8192) off
  | .latch n => rowAt ((FMap.getD s.cur.st.b n.toNat 0).toNat % 8192) off
/-- The row offset of a scalar scratchpad operand: IMM[11:4], signed. -/
def wordRowOff (imm : BitVec 44) : Int :=
  let x := imm.toNat / 16 % 256
  if 128 ≤ x then (x : Int) - 256 else x
/-- The byte of a scratchpad, by core, first row of the crew, row and byte in the row: core × 2^20 + row × 128 + byte, rows modulo
8,192. -/
def padKey (core base row byte : Nat) : Nat := core * 2 ^ 20 + (base + row) % 8192 * 128 + byte
/-- The key of a scalar LOCAL operand. -/
def localKey (s : State) (a : Src) (imm : BitVec 44) : Nat :=
  padKey (s.iss.cx / 4) s.cur.rowBase (localRow s a (wordRowOff imm)) (imm.toNat % 16 * 8)
/-- The core, within the cluster, and the row of a CLUSTER operand held in a register. -/
def clusterCore (g : Word) : Nat := g.toNat / 2 ^ 13 % 8
def clusterRow (g : Word) (off : Int) : Nat := rowAt (g.toNat % 8192) off
/-- The key of a scalar CLUSTER operand whose core hosts a member with first row `base`. -/
def clusterKey (s : State) (g : Word) (imm : BitVec 44) (base : Nat) : Nat :=
  padKey (s.iss.cx / 32 * 8 + clusterCore g) base (clusterRow g (wordRowOff imm)) (imm.toNat % 16 * 8)
/-- No word of a range of a scratchpad, or of device memory, holds an uncorrectable error. -/
def padClean (s : State) (k n : Nat) : Prop := ∀ w ∈ s.locBad, ¬ (k < 8 * w + 8 ∧ 8 * w < k + n)
def memClean (s : State) (pa n : Nat) : Prop := ∀ w ∈ s.bad, ¬ (pa / 256 * 256 < 8 * w + 8 ∧ 8 * w < pa + n + 256)
/-- The home of an address can be reached from the strand's die: no link between the two has lost its shards (R395). -/
def joined (s : State) (pa : Nat) : Prop := s.severed (dieOf s.iss.cx) pa = false
/-- The address of the tag-window word that holds the bit of a word of LPDDR6 (R331). -/
def tagAddr (pa : Nat) : Nat := 0x20000000000 + pa / 4096 * 64 + pa % 4096 / 512 * 8
/-- Bit `i` of the access at an address of the tag window is the bit of this word of LPDDR6, numbered by address / 8 (R331). -/
def tagged (pa i : Nat) : Nat := (pa - 0x20000000000) * 8 + i
/-- No byte of a range belongs to a field that the scheduler owns (R280, R283). -/
def unowned (s : State) (pa n : Nat) : Prop := ∀ i < n, s.owned (s.jobPages pa n) (pa + i) = false
/-- A memory that differs from another only in `n` bytes from `a`, which hold the little-endian number `v`. -/
def storedIn (m m' : Memory) (a n v : Nat) : Prop :=
  ∀ b, Memory.get m' b = if a ≤ b ∧ b < a + n then BitVec.ofNat 8 (v / 256 ^ (b - a)) else Memory.get m b
/-- The other memories, the full/empty bits and the other contexts. -/
def sameButLoc (s t : State) : Prop :=
  t.mem = s.mem ∧ t.host0 = s.host0 ∧ t.host1 = s.host1 ∧ t.full = s.full ∧ t.locFull = s.locFull ∧ t.ctxs = s.ctxs
def sameButMem (s t : State) : Prop :=
  t.loc = s.loc ∧ t.host0 = s.host0 ∧ t.host1 = s.host1 ∧ t.full = s.full ∧ t.locFull = s.locFull ∧ t.ctxs = s.ctxs
/-- The registers of the current strand and every other context as before, whatever is pending. -/
def sameStrand (s t : State) : Prop :=
  sameOthers s t ∧ sameRegisters s.cur.st (t.ctx s.iss.cx).st ∧ (t.ctx s.iss.cx).st.ctl = s.cur.st.ctl ∧
  (t.ctx s.iss.cx).st.spill = s.cur.st.spill

/-- A scalar result of a load that is interlocked: it lands at some later tick (R195, R201, R270). -/
def landsG (s t : State) (d : Dst) (v : Word) : Prop :=
  ∃ p : Pend, (t.ctx s.iss.cx).st = { s.cur.st with pend := s.cur.st.pend ++ [p] } ∧
    p.reg = (if d.latchOnly then none else some (.g d.n.toNat)) ∧ p.latch = some (d.n.toNat % 16) ∧ p.vec = false ∧
    ∃ tick, s.clock.toNat < tick ∧ p.kind = .value (v.setWidth 1024) (v.toNat % 15) tick
/-- The zero of a load of an absent page: interlocked, it lands two cycles of the core after its issue (R172, R271). -/
def zeroG (s t : State) (d : Dst) : Prop :=
  ∃ p : Pend, (t.ctx s.iss.cx).st = { s.cur.st with pend := s.cur.st.pend ++ [p] } ∧
    p.reg = (if d.latchOnly then none else some (.g d.n.toNat)) ∧ p.latch = some (d.n.toNat % 16) ∧ p.vec = false ∧
    p.kind = .cycles 0 0 2
/-- A scalar result whose load is promised for a number of context cycles. -/
def promisedG (s t : State) (d : Dst) (v : Word) (l : Nat) : Prop :=
  ∃ e : Flight, (t.ctx s.iss.cx).st = { s.cur.st with flight := s.cur.st.flight ++ [e] } ∧
    e.op = (gEntry s d l v (res64 v)).op ∧
    e.latch = some (d.n.toNat % 16, { val := v.setWidth 1024, sres := res64 v, vres := untracked }) ∧ e.left = l ∧ e.lands.isSome
/-- The promise of a page's latency class (Table 11-2, R271): classes 1 and 2, and class 3 in the core's own weight bank. -/
def promiseFor (s : State) (r : Run) (pa : Nat) : Option Nat :=
  let bank := 0x10000000000 + s.iss.cx / 4 * 0x2000000
  if r.lclass = 1 then some 40 else if r.lclass = 2 then some 120
  else if r.lclass = 3 ∧ bank ≤ pa ∧ pa < bank + 0x2000000 then some 20 else none
/-- The result of a DEVICE load by the class of its page. -/
def loadedG (s t : State) (d : Dst) (v : Word) (r : Run) (pa : Nat) : Prop :=
  match promiseFor s r pa with
  | none => landsG s t d v
  | some l => promisedG s t d v l

/-- Bytes of a size, and a value of so many bytes extended (R165, R168). -/
def bytesOf : Size → Nat | .b => 1 | .h => 2 | .w => 4 | .d => 8
def extended (sx : Bool) (n x : Nat) : Word :=
  if sx ∧ 2 ^ (8 * n - 1) ≤ x then BitVec.ofInt 64 ((x : Int) - 2 ^ (8 * n)) else BitVec.ofNat 64 x

/-- The address that a scalar DEVICE operand presents. -/
def deviceAddr (s : State) (a : Src) (imm : BitVec 44) : Int := (srcG s a).toNat + imm.toInt

/-! ## Atomics (Table 07-9) -/

/-- An N-bit pattern as a signed integer. -/
def signedN (n x : Nat) : Int := if 2 ^ (n - 1) ≤ x then (x : Int) - 2 ^ n else x
/-- The atomics: the instruction in LOCAL, CLUSTER, DEVICE and PEER, the operation, and the new value of an N-bit word from the old
one, the operand and the expected value. -/
noncomputable def atomicRows : List ((OpSA → Instr) × (OpSA → Instr) × (OpSA → Instr) × (OpSA → Instr) × AtomOp ×
    (Nat → Nat → Nat → Nat → Option Nat)) :=
  [ (.atomAddLoc, .atomAddClu, .atomAddDev, .atomAddPeer, .add, fun n o c _ => some ((o + c) % 2 ^ n)),
    (.atomAndLoc, .atomAndClu, .atomAndDev, .atomAndPeer, .and, fun _ o c _ => some (o &&& c)),
    (.atomOrLoc, .atomOrClu, .atomOrDev, .atomOrPeer, .or, fun _ o c _ => some (o ||| c)),
    (.atomXorLoc, .atomXorClu, .atomXorDev, .atomXorPeer, .xor, fun _ o c _ => some (o ^^^ c)),
    (.atomMinsLoc, .atomMinsClu, .atomMinsDev, .atomMinsPeer, .mins, fun n o c _ => some (if signedN n o ≤ signedN n c then o else c)),
    (.atomMinzLoc, .atomMinzClu, .atomMinzDev, .atomMinzPeer, .minz, fun _ o c _ => some (if o ≤ c then o else c)),
    (.atomMaxsLoc, .atomMaxsClu, .atomMaxsDev, .atomMaxsPeer, .maxs, fun n o c _ => some (if signedN n o ≤ signedN n c then c else o)),
    (.atomMaxzLoc, .atomMaxzClu, .atomMaxzDev, .atomMaxzPeer, .maxz, fun _ o c _ => some (if o ≤ c then c else o)),
    (.atomSwapLoc, .atomSwapClu, .atomSwapDev, .atomSwapPeer, .swap, fun _ _ c _ => some c),
    (.atomCasLoc, .atomCasClu, .atomCasDev, .atomCasPeer, .cas, fun _ o c e => if o = e then some c else none) ]
/-- What an atomic returns: the old value, sign-extended for `mins` and `maxs` (R179). -/
def atomicValue (op : AtomOp) (n old : Nat) : Word :=
  if op = .mins ∨ op = .maxs then BitVec.ofInt 64 (signedN n old) else BitVec.ofNat 64 old
/-- The expected value of `cas`: the destination register as read at presentation. -/
def expectedOf (s : State) (d : Dst) : Nat := if d.n = 0 then 0 else (FMap.getD s.cur.st.g d.n.toNat {}).val.toNat
/-- A memory with a number stored, or as it was where there is none. -/
def storedOpt (m m' : Memory) (a n : Nat) (v : Option Nat) : Prop :=
  match v with
  | some v => storedIn m m' a n v
  | none => ∀ b, Memory.get m' b = Memory.get m b

/-! ## PEER and HOST -/

/-- The second register of a pair. -/
def pairSrc : Src → Src
  | .reg n => .reg (n + 1)
  | .latch n => .latch n
/-- Both registers of a pair pass their residue checks. -/
def pairPasses (s : State) (a : Src) : Prop := passes s a ∧ passes s (pairSrc a)
/-- The address of a PEER or HOST operand, an exact integer; where it is one of the 64-bit space, aligned to `n` bytes; and the module
or the port (R164). -/
def pairExact (s : State) (a : Src) (imm : Int) : Int := (srcG s a).toNat + imm
def pairIn (s : State) (a : Src) (imm : Int) : Prop := 0 ≤ pairExact s a imm ∧ pairExact s a imm < 2 ^ 64
def pairAddr (s : State) (a : Src) (imm : Int) (n : Nat) : Nat := (pairExact s a imm).toNat / n * n
def pairModule (s : State) (a : Src) : Nat := (srcG s (pairSrc a)).toNat % 512
def pairPort (s : State) (a : Src) : Nat := (srcG s (pairSrc a)).toNat % 2
/-- A request that has been sent to another module: it waits for its answer there. -/
def sends (s t : State) (m : Nat) (op : ShardOp) (tracked : Bool) (pend : Option Nat) : Prop :=
  ∃ r : OutReq, t.outReqs = s.outReqs ++ [r] ∧ r.mod = m ∧ r.op = op ∧ r.cx = s.iss.cx ∧ r.pend = pend ∧ r.tracked = tracked ∧
    r.sent = s.clock.toNat ∧ r.cmd = none
/-- The strand waits for the answer of a request. -/
def awaitsG (s t : State) (d : Dst) (id : Nat) : Prop :=
  (t.ctx s.iss.cx).st = { s.cur.st with pend := s.cur.st.pend ++
    [{ id := id, reg := if d.latchOnly then none else some (.g d.n.toNat), latch := some (d.n.toNat % 16), kind := .peer id }] }

end Sys2Proof.Claims

/-- R164, R165, R168, R295: a plain scalar load of an allocated scratchpad word writes the word: from the own scratchpad two cycles
later, from a scratchpad of the cluster when it lands; no memory changes. -/
def Sys2Proof.Claims.ScratchpadLoads : Prop :=
  ∀ (s : State) (o : OpSM), Pred.holds o.p s.cur.st.q = true → o.form = .plain →
    (let k := localKey s o.a o.imm
     localRow s o.a (wordRowOff o.imm) < s.cur.rows → padClean s k 8 →
     let v := BitVec.ofNat 64 (Memory.num s.loc k 8)
     exec (.ldLoc o) s = .next ((s.count s.iss.cx .local_ 8).entering [gEntry s o.d 2 v (res64 v)])) ∧
    (∀ base, let g := srcG s o.a
     let k := clusterKey s g o.imm base
     passes s o.a → s.crewRow s.iss.cx (clusterCore g) = some base → clusterRow g (wordRowOff o.imm) < s.cur.rows →
     padClean s k 8 →
     ∃ t, exec (.ldClu o) s = .next t ∧ landsG s t o.d (BitVec.ofNat 64 (Memory.num s.loc k 8)) ∧ sameMemory s t ∧ sameOthers s t)

/-- R164, R165, R168, R295: a plain scalar store to an allocated scratchpad word whose data passes its residue check writes the eight
bytes of that word and no other byte, and no full/empty bit. -/
def Sys2Proof.Claims.ScratchpadStores : Prop :=
  ∀ (s : State) (o : OpSM), Pred.holds o.p s.cur.st.q = true → o.form = .plain → passes s o.c → Memory.wf s.loc = true →
    (let k := localKey s o.a o.imm
     localRow s o.a (wordRowOff o.imm) < s.cur.rows → padClean s k 8 →
     ∃ t, exec (.stLoc o) s = .next t ∧ storedIn s.loc t.loc k 8 (srcG s o.c).toNat ∧ sameButLoc s t) ∧
    (∀ base, let g := srcG s o.a
     let k := clusterKey s g o.imm base
     passes s o.a → s.crewRow s.iss.cx (clusterCore g) = some base → clusterRow g (wordRowOff o.imm) < s.cur.rows →
     padClean s k 8 →
     ∃ t, exec (.stClu o) s = .next t ∧ storedIn s.loc t.loc k 8 (srcG s o.c).toNat ∧ sameButLoc s t)

/-- R165, R168, R270, R271: a plain scalar DEVICE load that passes its checks reads SIZE bytes at the physical address of its run,
extends them, and delivers them by the latency class of the page; one that meets an uncorrectable error, or whose transfer between
dies is lost (R392, R395), writes 0 and sets RES; no memory changes. -/
def Sys2Proof.Claims.DeviceLoads : Prop :=
  ∀ (s : State) (o : OpSM) (a : DevAt) (pa : Nat), Pred.holds o.p s.cur.st.q = true → o.form = .plain → passes s o.a →
    s.devCheck s.iss.cx (deviceAddr s o.a o.imm) (bytesOf o.size) true false false = .ok a → a.pa = some pa →
    (s.unreadable (dieOf s.iss.cx) pa (bytesOf o.size) = false →
      ∃ t, exec (.ldDev o) s = .next t ∧
        loadedG s t o.d (extended o.sx (bytesOf o.size) (leValue (s.peek pa (bytesOf o.size)))) a.run pa ∧
        sameMemory s t ∧ sameOthers s t) ∧
    (s.unreadable (dieOf s.iss.cx) pa (bytesOf o.size) = true →
      ∃ t, exec (.ldDev o) s = .next t ∧ zeroG s t o.d ∧ t.iss.hw = s.iss.hw ++ [.resFlag] ∧ sameMemory s t ∧ sameOthers s t)

/-- R165, R168, R318: a plain scalar DEVICE store that passes its checks, to words of LPDDR6 that the scheduler does not own, writes
SIZE bytes at the physical address of its run and no other byte, and no full/empty bit; one that is lost between dies (R395) writes
nothing. -/
def Sys2Proof.Claims.DeviceStores : Prop :=
  ∀ (s : State) (o : OpSM) (a : DevAt) (pa : Nat), Pred.holds o.p s.cur.st.q = true → o.form = .plain → passes s o.a →
    passes s o.c → s.devCheck s.iss.cx (deviceAddr s o.a o.imm) (bytesOf o.size) false true false = .ok a → a.pa = some pa →
    inLpddr pa = true → memClean s pa (bytesOf o.size) → unowned s pa (bytesOf o.size) → Memory.wf s.mem = true →
    (joined s pa →
      ∃ t, exec (.stDev o) s = .next t ∧ storedIn s.mem t.mem pa (bytesOf o.size) (srcG s o.c).toNat ∧ sameButMem s t) ∧
    (¬ joined s pa → ∃ t, exec (.stDev o) s = .next t ∧ sameMemory s t ∧ t.ctxs = s.ctxs)

/-- R331: a plain scalar load of the tag window, of a resident page of it, gives the full/empty bits of the words that it describes,
the bit of the lowest word lowest; a store sets each of those words' bits to its bit of the data and writes no byte of memory, where
neither the tag words nor the words described hold an error. -/
def Sys2Proof.Claims.TagWindowAccesses : Prop :=
  ∀ (s : State) (o : OpSM) (a : DevAt) (pa : Nat), Pred.holds o.p s.cur.st.q = true → o.form = .plain → passes s o.a →
    let n := bytesOf o.size
    a.pa = some pa → inTags pa = true → pa % n = 0 → memClean s pa n → joined s pa →
    (s.devCheck s.iss.cx (deviceAddr s o.a o.imm) n true false false = .ok a →
      ∃ t x, exec (.ldDev o) s = .next t ∧ loadedG s t o.d (extended o.sx n x) a.run pa ∧ sameMemory s t ∧ sameOthers s t ∧
        x < 2 ^ (8 * n) ∧ ∀ i < 8 * n, x.testBit i = inSet s.full (tagged pa i)) ∧
    (s.devCheck s.iss.cx (deviceAddr s o.a o.imm) n false true false = .ok a → passes s o.c → risingSet s.full = true →
      (∀ i < 8 * n, inSet s.bad (tagged pa i) = false) →
      ∃ t, exec (.stDev o) s = .next t ∧ t.mem = s.mem ∧ t.loc = s.loc ∧ t.locFull = s.locFull ∧ t.ctxs = s.ctxs ∧
        (∀ i < 8 * n, inSet t.full (tagged pa i) = (srcG s o.c).getLsbD i) ∧
        ∀ w, (w < tagged pa 0 ∨ tagged pa (8 * n) ≤ w) → inSet t.full w = inSet s.full w)

/-- R164, R165, R166: what a DEVICE check that passes has found: a run that holds the aligned address and has the permissions, no
earlier run holding it; where its page is resident, it is neither sealed nor compute-only and the physical address is the run's. -/
def Sys2Proof.Claims.DeviceChecksSound : Prop :=
  ∀ (s : State) (cx : Nat) (shown : Int) (n : Nat) (rd wr fe : Bool) (a : DevAt), 0 < n →
    s.devCheck cx shown n rd wr fe = .ok a →
    0 ≤ shown ∧ a.va = shown.toNat / n * n ∧ (s.ctx cx).runs[a.idx]? = some a.run ∧
    a.run.va ≤ a.va ∧ a.va < a.run.va + a.run.size ∧
    (∀ j < a.idx, ∀ r, (s.ctx cx).runs[j]? = some r → ¬ (r.va ≤ a.va ∧ a.va < r.va + r.size)) ∧
    (rd = true → a.run.r = true) ∧ (wr = true → a.run.w = true) ∧
    (a.run.resident = true → a.run.isSealed = false ∧ a.run.co = false ∧ (fe = true → a.run.fe = true) ∧
      a.pa = some (a.run.pa + (a.va - a.run.va))) ∧
    (a.run.resident = false → a.pa = none)

/-- R166: a DEVICE load or store in no run faults EXTENT_MISS; a resident page that is sealed faults SEALED, a compute-only one
COMPUTE_ONLY, and a page without the permission PROT, in that order; the bundle is marked faulted. -/
def Sys2Proof.Claims.DeviceFaultsInOrder : Prop :=
  ∀ (s : State) (o : OpSM) (rd : Bool), Pred.holds o.p s.cur.st.q = true → o.form = .plain → passes s o.a → passes s o.c →
    let n := bytesOf o.size
    let shown := deviceAddr s o.a o.imm
    let va := shown.toNat / n * n
    let i : Instr := if rd then .ldDev o else .stDev o
    let holds (r : Run) : Prop := r.va ≤ va ∧ va < r.va + r.size
    (shown < 0 ∨ (∀ r ∈ s.cur.runs, ¬ holds r) →
      ∃ t, exec i s = .next t ∧ (t.iss.faulted.map FaultInfo.cause) = some .extentMiss) ∧
    (∀ (pre post : List Run) (r : Run), 0 ≤ shown → s.cur.runs = pre ++ r :: post → holds r → (∀ q ∈ pre, ¬ holds q) →
      r.resident = true →
      (r.isSealed = true → ∃ t, exec i s = .next t ∧ (t.iss.faulted.map FaultInfo.cause) = some .sealed) ∧
      (r.isSealed = false → s.sealTag (r.pa + (va - r.va)) = 0 → r.co = true →
        ∃ t, exec i s = .next t ∧ (t.iss.faulted.map FaultInfo.cause) = some .computeOnly) ∧
      (r.isSealed = false → s.sealTag (r.pa + (va - r.va)) = 0 → r.co = false → (if rd then r.r else r.w) = false →
        ∃ t, exec i s = .next t ∧ (t.iss.faulted.map FaultInfo.cause) = some .prot))

/-- R329: where the job traps mixed sizes, a DEVICE load or store of a slot S that overlaps a store or a probe of another strand from
the last 4,096 ticks, of another size or another alignment, raises MIXSIZE: `%faddr` is the address presented and `%fdata` the two sizes'
logarithms, the recorded one's in bits 7 to 4; nothing is loaded or stored. One that meets no such record does not raise it. -/
def Sys2Proof.Claims.MixedSizesAreRefused : Prop :=
  ∀ (s : State) (o : OpSM) (rd : Bool), Pred.holds o.p s.cur.st.q = true → o.form = .plain → passes s o.a → passes s o.c →
    s.iss.committed = none → s.iss.faulted = none → (s.taskOf s.iss.cx).map (fun x => bit (x.jw 0) 59) = some true →
    let n := bytesOf o.size
    let shown := deviceAddr s o.a o.imm
    let va := shown.toNat / n * n
    let i : Instr := if rd then .ldDev o else .stDev o
    let clashes (pa : Nat) (r : MixRecord) : Prop := r.strand ≠ s.strandId s.iss.cx ∧ s.clock.toNat < r.tick + 4096 ∧
      pa < r.addr + r.len ∧ r.addr < pa + n ∧ (r.addr ≠ pa ∨ r.size ≠ n)
    ∀ a, 0 ≤ shown → (∀ r ∈ s.mix, r.size ∈ [1, 2, 4, 8, 128]) →
      s.devCheckWith true false s.iss.cx shown n rd (!rd) false = .ok a → a.run.resident = true →
      let pa := a.run.pa + (va - a.run.va)
      (∀ pre r post, s.mix = pre ++ r :: post → (∀ q ∈ pre, ¬ clashes pa q) → clashes pa r →
        ∃ t f k m, exec i s = .next t ∧ sameMemory s t ∧ t.iss.faulted = some f ∧ f.cause = .mixsize ∧ f.addr = (shown % 2 ^ 64).toNat ∧
          r.size = 2 ^ k ∧ n = 2 ^ m ∧ f.data = k * 16 + m ∧ (t.ctx s.iss.cx).st.g = s.cur.st.g) ∧
      ((∀ r ∈ s.mix, ¬ clashes pa r) → ∃ t, exec i s = .next t ∧ t.iss.faulted = none)

/-- R172, R271: a scalar access to a page that was not resident at dispatch raises no fault: a load writes 0, two cycles of the core
later, and sets RES, a store is discarded and counted by its run. -/
def Sys2Proof.Claims.AbsentPages : Prop :=
  ∀ (s : State) (o : OpSM) (a : DevAt), Pred.holds o.p s.cur.st.q = true → passes s o.a → passes s o.c → a.pa = none →
    (∀ h, s.iss.committed = some h → h.got = none) →
    (s.devCheck s.iss.cx (deviceAddr s o.a o.imm) (bytesOf o.size) true false (o.form != .plain) = .ok a →
      ∃ t, exec (.ldDev o) s = .next t ∧ zeroG s t o.d ∧ t.iss.hw = s.iss.hw ++ [.resFlag] ∧ sameMemory s t) ∧
    (s.devCheck s.iss.cx (deviceAddr s o.a o.imm) (bytesOf o.size) false true (o.form != .plain) = .ok a →
      ∃ t, exec (.stDev o) s = .next t ∧ sameMemory s t ∧ sameStrand s t ∧
        (t.ctx s.iss.cx).runs = s.cur.runs.modify a.idx fun r => { r with drops := min 65535 (r.drops + 1) })

/-- R174, R175, R189, R331: a full/empty form on an LPDDR6 word that the scheduler does not own, at its first presentation. `.wait` and
`.take` are performed where the word is full, `.fill` where it is empty, `.force` always; a performed form leaves the bit as Table
07-7 gives and stores or loads the word; a form that is not performed, or one but `.force` whose
bundle has a fence to wait for, holds the bundle and does nothing else but record its probe of the word (R329). The words are those
that neither hold an error nor have their bit in a tag word with one, and whose die can be reached. -/
def Obligations.FullEmptyForms : Prop :=
  ∀ (s : State) (o : OpSM) (a : DevAt) (pa : Nat), Pred.holds o.p s.cur.st.q = true → passes s o.a → passes s o.c → o.size = .d →
    s.iss.committed = none → a.pa = some pa → inLpddr pa = true → memClean s pa 8 → memClean s (tagAddr pa) 8 → joined s pa →
    unowned s pa 8 → s.stored = true → pa % 8 = 0 →
    (s.devCheck s.iss.cx (deviceAddr s o.a o.imm) 8 true false true = .ok a → (o.form = .wait ∨ o.form = .take) →
      (inSet s.full (pa / 8) = true → s.iss.fenced = false → ∃ t v, exec (.ldDev o) s = .next t ∧ v = BitVec.ofNat 64 (Memory.num s.mem pa 8) ∧
        (t.ctx s.iss.cx).st = { s.cur.st with flight := s.cur.st.flight ++ [gEntry s o.d 1 v (res64 v)] } ∧
        t.mem = s.mem ∧ ∀ w, inSet t.full w = if w = pa / 8 then decide (o.form = .wait) else inSet s.full w) ∧
      ((inSet s.full (pa / 8) = false ∨ s.iss.fenced = true) →
        ∃ r m, exec (.ldDev o) s = .next { s with mix := m, iss := { s.iss with held := true, req := some r } })) ∧
    (s.devCheck s.iss.cx (deviceAddr s o.a o.imm) 8 false true true = .ok a → (o.form = .fill ∨ o.form = .force) →
      ((o.form = .force ∨ (inSet s.full (pa / 8) = false ∧ s.iss.fenced = false)) → ∃ t, exec (.stDev o) s = .next t ∧
        storedIn s.mem t.mem pa 8 (srcG s o.c).toNat ∧ t.ctxs = s.ctxs ∧
        ∀ w, inSet t.full w = if w = pa / 8 then true else inSet s.full w) ∧
      (o.form = .fill → (inSet s.full (pa / 8) = true ∨ s.iss.fenced = true) →
        ∃ r m, exec (.stDev o) s = .next { s with mix := m, iss := { s.iss with held := true, req := some r } }))

/-- R178, R179: an atomic on an allocated scratchpad word returns the old word (LOCAL three cycles later) and leaves the new value of
Table 07-9 in it; no other byte and no full/empty bit changes. -/
def Sys2Proof.Claims.ScratchpadAtomics : Prop :=
  ∀ r ∈ atomicRows, ∀ (s : State) (o : OpSA), Pred.holds o.p s.cur.st.q = true → passes s o.c → Memory.wf s.loc = true →
    let c := (srcG s o.c).toNat
    (let k := localKey s o.a o.imm
     let old := Memory.num s.loc k 8
     let v := atomicValue r.2.2.2.2.1 64 old
     localRow s o.a (wordRowOff o.imm) < s.cur.rows → padClean s k 8 →
     ∃ t, exec (r.1 o) s = .next t ∧ storedOpt s.loc t.loc k 8 (r.2.2.2.2.2 64 old c (expectedOf s o.d)) ∧
       (t.ctx s.iss.cx).st = { s.cur.st with flight := s.cur.st.flight ++ [gEntry s o.d 3 v (res64 v)] } ∧
       sameOthers s t ∧ t.mem = s.mem ∧ t.locFull = s.locFull) ∧
    (∀ base, let g := srcG s o.a
     let k := clusterKey s g o.imm base
     let old := Memory.num s.loc k 8
     passes s o.a → s.crewRow s.iss.cx (clusterCore g) = some base → clusterRow g (wordRowOff o.imm) < s.cur.rows →
     padClean s k 8 →
     ∃ t, exec (r.2.1 o) s = .next t ∧ storedOpt s.loc t.loc k 8 (r.2.2.2.2.2 64 old c (expectedOf s o.d)) ∧
       landsG s t o.d (atomicValue r.2.2.2.2.1 64 old) ∧ sameOthers s t ∧ t.mem = s.mem ∧ t.locFull = s.locFull)

/-- R178, R179: an atomic on an LPDDR6 word that passes its checks and that the scheduler does not own returns the old value when it
lands and leaves the new value of Table 07-9; no other byte and no full/empty bit changes. -/
def Sys2Proof.Claims.DeviceAtomics : Prop :=
  ∀ r ∈ atomicRows, ∀ (s : State) (o : OpSA) (a : DevAt) (pa : Nat), Pred.holds o.p s.cur.st.q = true → passes s o.a →
    passes s o.c → (o.size = .w ∨ o.size = .d) →
    let n := bytesOf o.size
    s.devCheck s.iss.cx (deviceAddr s o.a o.imm) n true true false = .ok a → a.pa = some pa → inLpddr pa = true →
    memClean s pa n → joined s pa → unowned s pa n → Memory.wf s.mem = true →
    let old := Memory.num s.mem pa n
    ∃ t, exec (r.2.2.1 o) s = .next t ∧
      storedOpt s.mem t.mem pa n (r.2.2.2.2.2 (8 * n) old ((srcG s o.c).toNat % 2 ^ (8 * n)) (expectedOf s o.d % 2 ^ (8 * n))) ∧
      landsG s t o.d (atomicValue r.2.2.2.2.1 (8 * n) old) ∧ sameOthers s t ∧ t.loc = s.loc ∧ t.full = s.full

/-- R164, R180, R325: a scalar PEER load, store or atomic to another reachable module sends one request there, with a tag where it
writes, and a load or atomic waits for its answer; nothing in this module's memory changes. A module number of 288 or above, a module
that is not reachable, or an address outside 64 bits, fails: 0 to the destination, no effect, and one failure counted. An access that
names the own module is performed there under the same checks as at any destination: it reads or writes the word at the place that
they give, which the scheduler does not own, and fails where they do. -/
def Sys2Proof.Claims.PeerRequests : Prop :=
  (∀ (s : State) (o : OpSM), Pred.holds o.p s.cur.st.q = true → pairPasses s o.a → passes s o.c →
    let m := pairModule s o.a
    let addr := pairAddr s o.a o.imm.toInt 8
    (pairIn s o.a o.imm.toInt → m < 288 → m ≠ s.boot.modid.toNat → s.reachable = true →
      (∃ t, exec (.ldPeer o) s = .next t ∧ sends s t m (.load addr 8) false (some s.nextId) ∧ awaitsG s t o.d s.nextId ∧
        sameMemory s t ∧ sameOthers s t) ∧
      (∃ t, exec (.stPeer o) s = .next t ∧ sends s t m (.store addr (leBytes 8 (srcG s o.c).toNat) false) true none ∧
        sameMemory s t ∧ t.ctxs = s.ctxs)) ∧
    (288 ≤ m ∨ (m ≠ s.boot.modid.toNat ∧ s.reachable = false) ∨ ¬ pairIn s o.a o.imm.toInt →
      (∃ t, exec (.ldPeer o) s = .next t ∧ landsG s t o.d 0 ∧ sameMemory s t ∧ t.outReqs = s.outReqs) ∧
      exec (.stPeer o) s = .next (s.count s.iss.cx .remfail 1)) ∧
    (pairIn s o.a o.imm.toInt → m < 288 → m = s.boot.modid.toNat →
      let place (rd wr : Bool) := (s.peerPlace (dieOf s.iss.cx) (s.pasnOf s.iss.cx) addr 8 rd wr).1
      (∀ pa fe, place true false = .ok (pa, fe) → s.spoiled pa 8 = false → ∃ t, exec (.ldPeer o) s = .next t ∧
        landsG s t o.d (BitVec.ofNat 64 (leValue (s.peek pa 8))) ∧ sameMemory s t ∧ t.outReqs = s.outReqs) ∧
      (∀ pa fe, place true false = .ok (pa, fe) → s.spoiled pa 8 = true → ∃ t, exec (.ldPeer o) s = .next t ∧
        landsG s t o.d 0 ∧ t.iss.hw = s.iss.hw ++ [.resFlag] ∧ sameMemory s t ∧ t.outReqs = s.outReqs) ∧
      (∀ e, place true false = .error e → ∃ t, exec (.ldPeer o) s = .next t ∧
        landsG s t o.d 0 ∧ sameMemory s t ∧ t.outReqs = s.outReqs) ∧
      (∀ pa fe, place false true = .ok (pa, fe) → inLpddr pa = true → memClean s pa 8 → unowned s pa 8 → Memory.wf s.mem = true →
        ∃ t, exec (.stPeer o) s = .next t ∧ storedIn s.mem t.mem pa 8 (srcG s o.c).toNat ∧ sameButMem s t ∧
          t.outReqs = s.outReqs) ∧
      (∀ e, place false true = .error e → ∃ t, exec (.stPeer o) s = .next t ∧ sameMemory s t ∧ t.ctxs = s.ctxs ∧
        t.outReqs = s.outReqs))) ∧
  (∀ r ∈ atomicRows, ∀ (s : State) (o : OpSA), Pred.holds o.p s.cur.st.q = true → pairPasses s o.a → passes s o.c →
    let m := pairModule s o.a
    let addr := pairAddr s o.a o.imm.toInt 8
    (pairIn s o.a o.imm.toInt → m < 288 → m ≠ s.boot.modid.toNat → s.reachable = true →
      ∃ t, exec (r.2.2.2.1 o) s = .next t ∧
        sends s t m (.atomic r.2.2.2.2.1 addr (srcG s o.c) (BitVec.ofNat 64 (expectedOf s o.d))) true (some s.nextId) ∧
        awaitsG s t o.d s.nextId ∧ sameMemory s t ∧ sameOthers s t) ∧
    (288 ≤ m ∨ (m ≠ s.boot.modid.toNat ∧ s.reachable = false) ∨ ¬ pairIn s o.a o.imm.toInt →
      ∃ t, exec (r.2.2.2.1 o) s = .next t ∧ landsG s t o.d 0 ∧ sameMemory s t ∧ t.outReqs = s.outReqs) ∧
    (pairIn s o.a o.imm.toInt → m < 288 → m = s.boot.modid.toNat →
      let place := (s.peerPlace (dieOf s.iss.cx) (s.pasnOf s.iss.cx) addr 8 true true).1
      (∀ pa fe, place = .ok (pa, fe) → inLpddr pa = true → memClean s pa 8 → unowned s pa 8 → Memory.wf s.mem = true →
        let old := Memory.num s.mem pa 8
        ∃ t, exec (r.2.2.2.1 o) s = .next t ∧
          storedOpt s.mem t.mem pa 8 (r.2.2.2.2.2 64 old (srcG s o.c).toNat (expectedOf s o.d)) ∧
          landsG s t o.d (atomicValue r.2.2.2.2.1 64 old) ∧ t.loc = s.loc ∧ t.full = s.full ∧ t.outReqs = s.outReqs) ∧
      (∀ e, place = .error e → ∃ t, exec (r.2.2.2.1 o) s = .next t ∧ landsG s t o.d 0 ∧ sameMemory s t ∧ t.outReqs = s.outReqs)))

/-- R164, R180, R324: a scalar HOST access behind a port whose link is up, for a job that has a function there, moves one aligned
64-bit word at the bus address; the completion may fail (assumption 8), and then a load writes 0 and a store has no effect, as where
the address lies outside 64 bits. Where the link is down, or no function there is bound to the job, the access fails at once: a load
writes 0, a store has no effect, and one failure is counted. -/
def Sys2Proof.Claims.HostAccesses : Prop :=
  ∀ (s : State) (o : OpSM), Pred.holds o.p s.cur.st.q = true → pairPasses s o.a → passes s o.c →
    let port := pairPort s o.a
    let addr := pairAddr s o.a o.imm.toInt 8
    let bound := FMap.getD s.linkUp port false = true ∧ (s.jobFn port (s.jobOf s.iss.cx)).isSome
    Memory.wf (s.hostMem port) = true →
    (¬ bound →
      (∃ t, exec (.ldHost o) s = .next t ∧ sameMemory s t ∧ sameOthers s t ∧ landsG s t o.d 0) ∧
      ∃ t, exec (.stHost o) s = .next t ∧ sameMemory s t ∧ t.ctxs = s.ctxs ∧ t.acct = (s.count s.iss.cx .remfail 1).acct) ∧
    (¬ pairIn s o.a o.imm.toInt →
      (∃ t, exec (.ldHost o) s = .next t ∧ sameMemory s t ∧ sameOthers s t ∧ landsG s t o.d 0) ∧
      ∃ t, exec (.stHost o) s = .next t ∧ sameMemory s t ∧ t.ctxs = s.ctxs) ∧
    (bound → pairIn s o.a o.imm.toInt → (∃ t, exec (.ldHost o) s = .next t ∧ sameMemory s t ∧ sameOthers s t ∧
      (landsG s t o.d (BitVec.ofNat 64 (Memory.num (s.hostMem port) addr 8)) ∨ landsG s t o.d 0))) ∧
    (bound → pairIn s o.a o.imm.toInt → ∃ t, exec (.stHost o) s = .next t ∧ t.mem = s.mem ∧ t.loc = s.loc ∧ t.ctxs = s.ctxs ∧
      t.hostMem (1 - port) = s.hostMem (1 - port) ∧
      (storedIn (s.hostMem port) (t.hostMem port) addr 8 (srcG s o.c).toNat ∨ t.hostMem port = s.hostMem port))

/-- R173: `pagein` of a resident run answers at the next cycle with bit 0 set and the run's drop count in bits 31:16, and clears the
count; of an absent one it starts a walk; outside every run it faults EXTENT_MISS. -/
def Sys2Proof.Claims.PageIn : Prop :=
  ∀ (s : State) (o : OpRI), Pred.holds o.p s.cur.st.q = true → passes s o.a →
    let va := deviceAddr s o.a o.imm
    (∀ i r, 0 ≤ va → findRun s.cur.runs va.toNat = some (i, r) →
      (r.resident = true → ∃ t p, exec (.pagein o) s = .next t ∧
        (t.ctx s.iss.cx).runs = s.cur.runs.modify i (fun r => { r with drops := 0 }) ∧
        (t.ctx s.iss.cx).st = { s.cur.st with pend := s.cur.st.pend ++ [p] } ∧
        ∃ res, p.kind = .value (BitVec.ofNat 1024 ((r.drops * 65536 + 1) % 2 ^ 64)) res (s.clock.toNat + 1)) ∧
      (r.resident = false → ∃ t p, exec (.pagein o) s = .next t ∧
        (t.ctx s.iss.cx).st = { s.cur.st with pend := s.cur.st.pend ++ [p] } ∧ ∃ tick, p.kind = .walk va.toNat tick)) ∧
    (va < 0 ∨ findRun s.cur.runs va.toNat = none →
      exec (.pagein o) s = .next (s.raise 0 .extentMiss (va % 2 ^ 64).toNat 0))

namespace Sys2Proof.Claims

/-! ## The barrier word (Table 07-10) -/

def phaseOf (w : Nat) : Nat := w % 2 ^ 4
def arrOf (w : Nat) : Nat := w / 2 ^ 4 % 2 ^ 20
def secOf (w : Nat) : Nat := w / 2 ^ 24 % 2 ^ 24
def errOf (w : Nat) : Nat := w / 2 ^ 48 % 2 ^ 8
def initOf (w : Nat) : Nat := w / 2 ^ 64 % 2 ^ 20
def tsOf (w : Nat) : Nat := w / 2 ^ 84
/-- `w` holds these fields. -/
def barHas (w phase arr sec err init ts : Nat) : Prop :=
  phaseOf w = phase ∧ arrOf w = arr ∧ secOf w = sec ∧ errOf w = err ∧ initOf w = init ∧ tsOf w = ts
/-- A barrier after an update to ARR, SEC and ERR: where ARR and SEC are both 0 the phase completes (R183). -/
def barAfter (clock w w' arr sec err : Nat) : Prop :=
  if arr = 0 ∧ sec = 0 then barHas w' ((phaseOf w + 1) % 16) (initOf w) 0 err (initOf w) (clock % 2 ^ 44)
  else barHas w' (phaseOf w) arr sec err (initOf w) (tsOf w)
/-- The row that a barrier operand names, and the key of its word (R181). -/
def barRow (s : State) (o : OpBR) : Nat := rowAt ((FMap.getD s.cur.st.b o.bn.toNat 0).toNat % 8192) o.off.toInt
def barKey (s : State) (o : OpBR) : Nat := padKey (s.iss.cx / 4) s.cur.rowBase (barRow s o) (16 * o.slot.toNat)

/-- What an L slot waits for is there (R189 to R192): the fence's commands are complete, the strand's PEER accesses are performed,
the other members have presented their own `crew.sync`, or ended, with their PEER accesses performed. -/
def noCommands (s : State) (mask : Nat) : Prop := ∀ c ∈ s.cmds, c.cx = s.iss.cx → mask / 2 ^ c.queue % 2 = 0
def noPeer (s : State) : Prop := ∀ r ∈ s.outReqs, r.cx = s.iss.cx → r.cmd ≠ none
def crewPresent (s : State) : Prop :=
  (s.crewOf s.iss.cx).length ≤ 1 ∨ (noPeer s ∧ ∀ m ∈ s.crewOf s.iss.cx, m ≠ s.iss.cx → s.syncPresent s.cur.st.syncs m = true ∧
    ((∀ r ∈ s.outReqs, r.cx = m → r.cmd ≠ none) ∨ s.cur.st.syncs < (s.ctx m).st.syncs))
/-- `s` with what its L slot waits for noted, and no other change. -/
def waitingL (s : State) (l : HoldL) : State := { s with iss := { s.iss with lreq := some l } }

end Sys2Proof.Claims

/-- R181, R182, R183: `bar.init` writes the whole barrier; `bar.arrive` clears ERR where asked, adds to SEC, takes one arrival where
asked, then tests for completion, and returns the old phase; `bar.test` returns bits 63:0 and changes nothing. -/
def Sys2Proof.Claims.BarrierUpdates : Prop :=
  ∀ (s : State) (o : OpBR), Pred.holds o.p s.cur.st.q = true → barRow s o < s.cur.rows → Memory.wf s.loc = true →
    let k := barKey s o
    padClean s k 16 →
    let w := Memory.num s.loc k 16
    let n := (srcG s o.b).toNat % 2 ^ 20
    (∃ t, exec (.barInit o) s = .next t ∧ storedIn s.loc t.loc k 16 (n * 2 ^ 64 + n * 2 ^ 4) ∧ sameButLoc s t) ∧
    (∃ t w', exec (.barArrive o) s = .next t ∧ storedIn s.loc t.loc k 16 w' ∧
      barAfter s.clock.toNat w w' (if (srcG s o.c).getLsbD 1 then arrOf w else arrOf w - 1)
        ((secOf w + (srcG s o.b).toNat) % 2 ^ 24) (if (srcG s o.c).getLsbD 0 then 0 else errOf w) ∧
      (t.ctx s.iss.cx).st = { s.cur.st with flight := s.cur.st.flight ++
        [gEntry s o.d 2 (BitVec.ofNat 64 (phaseOf w)) (res64 (BitVec.ofNat 64 (phaseOf w)))] } ∧
      t.mem = s.mem ∧ t.locFull = s.locFull ∧ sameOthers s t) ∧
    exec (.barTest o) s = .next (s.entering [gEntry s o.d 2 (BitVec.ofNat 64 (w % 2 ^ 64)) (res64 (BitVec.ofNat 64 (w % 2 ^ 64)))])

/-- R175, R184, R189: at its first presentation `bar.wait` on a barrier without an error in its word answers at once where the phase has passed, 0 with ERR NONE and 2 otherwise;
else, and where its bundle has a fence to wait for, it holds, with a limit where gC is not 0; a bundle that commits after the hold takes the status that the hold was answered. -/
def Sys2Proof.Claims.BarrierWait : Prop :=
  ∀ (s : State) (o : OpBR), Pred.holds o.p s.cur.st.q = true → barRow s o < s.cur.rows → padClean s (barKey s o) 16 →
    let k := barKey s o
    let w := Memory.num s.loc k 16
    let status : Word := if errOf w = 0 then 0 else 2
    (s.iss.committed = none → s.iss.fenced = false → phaseOf w ≠ (srcG s o.b).toNat % 16 →
      ∃ t, exec (.barWait o) s = .next t ∧ t.ctxs = (s.entering [gEntry s o.d 1 status (res64 status)]).ctxs ∧
        t.iss.held = s.iss.held ∧ sameMemory s t) ∧
    (s.iss.committed = none → (phaseOf w = (srcG s o.b).toNat % 16 ∨ s.iss.fenced = true) → s.cur.st.barLimit = none →
      exec (.barWait o) s = .next { s with iss := { s.iss with
        held := true
        req := some (.bar k ((srcG s o.b).toNat % 16)
          (if srcG s o.c = 0 then none else some (s.clock.toNat + (srcG s o.c).toNat))) } }) ∧
    (∀ h, s.iss.committed = some h →
      exec (.barWait o) s = .next (s.entering [gEntry s o.d 1 (h.got.getD 0) (res64 (h.got.getD 0))]))

/-- R175, R189, R190, R191, R192: a fence, `crew.sync` or `task.end` has its effect where what it waits for is there, and holds its
bundle otherwise, or where another fence of the bundle is still to be waited for, with no other effect; a `fence.q` of mask 0 does
nothing; `task.yield` acts when its bundle ends. -/
def Obligations.FencesAndTaskEnd : Prop :=
  ∀ s : State, s.iss.committed = none →
    let there (p : Prop) : Prop := s.iss.fenced = false ∧ p
    let holdsOn (i : Instr) (l : HoldL) : Prop := exec i s = .next { s with iss := { s.iss with held := true, lreq := some l } }
    (∀ o : OpLI, Pred.holds o.p s.cur.st.q = true →
      (o.imm = 0 → exec (.fenceQ o) s = .next s) ∧
      (o.imm ≠ 0 → there (noCommands s o.imm.toNat) → exec (.fenceQ o) s = .next (waitingL s (.fenceQ o.imm.toNat))) ∧
      (o.imm ≠ 0 → ¬ there (noCommands s o.imm.toNat) → holdsOn (.fenceQ o) (.fenceQ o.imm.toNat))) ∧
    (∀ o : OpN, Pred.holds o.p s.cur.st.q = true →
      (there True → exec (.fenceHost o) s = .next (waitingL s .fenceHost)) ∧
      (¬ there True → holdsOn (.fenceHost o) .fenceHost) ∧
      (there (noPeer s) → exec (.fencePeer o) s = .next (waitingL s .fencePeer)) ∧
      (¬ there (noPeer s) → holdsOn (.fencePeer o) .fencePeer) ∧
      (there (crewPresent s) → exec (.crewSync o) s =
        .next ((waitingL s .crewSync).updSt fun st => { st with syncs := s.cur.st.syncs + 1 })) ∧
      (¬ there (crewPresent s) → holdsOn (.crewSync o) .crewSync) ∧
      (there (noCommands s 31 ∧ noPeer s) → exec (.taskEnd o) s = .next (asking (waitingL s .taskEnd) .endStrand)) ∧
      (¬ there (noCommands s 31 ∧ noPeer s) → holdsOn (.taskEnd o) .taskEnd) ∧
      exec (.taskYield o) s = .next (asking s .yield_))

namespace Sys2Proof.Claims

/-! ## Elements, masks and residues of vector results (R196 to R199) -/

/-- Element `i` of width `w`. -/
def elemAt (w : Nat) (v : BitVec 1024) (i : Nat) : Nat := v.toNat / 2 ^ (w * i) % 2 ^ w
/-- A code of an integer type as an integer. -/
def intAt (t : Ty) (x : Nat) : Int := if t.isSigned = true ∧ 2 ^ (t.width - 1) ≤ x then (x : Int) - 2 ^ t.width else x
/-- The pattern of an integer modulo 2^w. -/
def pat (w : Nat) (x : Int) : Nat := (x % 2 ^ w).toNat
/-- An integer held to the range of a type, and whether that changes it. -/
def heldTo (t : Ty) (x : Int) : Int × Bool :=
  let lo : Int := if t.isSigned then -(2 ^ (t.width - 1)) else 0
  let hi : Int := if t.isSigned then 2 ^ (t.width - 1) - 1 else 2 ^ t.width - 1
  (max lo (min hi x), decide (x < lo) || decide (hi < x))
/-- A mask source: k0 reads as all ones (R80, R197). -/
def srcK (s : State) (a : Src) : BitVec 256 :=
  match a with
  | .reg n => if n = 0 then BitVec.allOnes 256 else FMap.getD s.cur.st.k n.toNat 0
  | .latch n => (FMap.getD s.cur.x n.toNat {}).val.setWidth 256
/-- The destination register's old value and residues. -/
def oldV (s : State) (d : Dst) : BitVec 1024 × BitVec 128 :=
  ((FMap.getD s.cur.st.v d.n.toNat {}).val, (FMap.getD s.cur.st.v d.n.toNat {}).res)

/-- `t` is `s1` after a vector result of the bundle at `s` (R197, R198, R199): latency `l`; an active element `i` takes `r i`, an
inactive one keeps the register's value, or is 0 in a latch-only destination; `fl i` are the flags that element `i` would set, and the
active ones set them; a lane of 32 bits none of which is written keeps its residue, or has 0; every other lane has `rr` at .s32 and
.z32, and 15 at every other type. -/
def vectorResult (s s1 t : State) (d : Dst) (l : Nat) (ty : Ty) (m : BitVec 256) (r : Nat → Nat) (fl : Nat → MFlags)
    (rr : Nat → Nat) : Prop :=
  ∃ v res f, t = (s1.entering [vEntry s d l v res]).flagging f ∧
    (∀ i < 1024 / ty.width, elemAt ty.width v i =
      if m.getLsbD i then r i else if d.latchOnly then 0 else elemAt ty.width (oldV s d).1 i) ∧
    (∀ b < 8, f.getLsbD b = true ↔ ∃ i < 1024 / ty.width, m.getLsbD i = true ∧ (fl i).getLsbD b = true) ∧
    (∀ j < 32, (lres res j).toNat =
      if ∃ i < 1024 / ty.width, m.getLsbD i = true ∧ ty.width * i < 32 * (j + 1) ∧ 32 * j < ty.width * (i + 1) then
        (if ty = .s32 ∨ ty = .z32 then rr j else 15)
      else if d.latchOnly then 0 else (lres (oldV s d).2 j).toNat)

/-- A fresh lane residue of an element. -/
def freshRes (r : Nat → Nat) (j : Nat) : Nat := r j % 2 ^ 32 % 15

/-! ## Draws in ascending element order (R60, R199) -/

/-- The generator after `n` draws. -/
def genAfter (G : Word) : Nat → Word
  | 0 => G
  | n + 1 => (draw (genAfter G n)).1
/-- The generator that the bundle's next draw starts from. -/
def seedAt (s : State) : Word := s.iss.seed.getD s.cur.st.ctl.rseed
/-- The word that element `i` draws under SR. -/
def wordAt (s : State) (rm : Rm) (i : Nat) : Nat := if rm = .sr then (draw (genAfter (seedAt s) i)).2 else 0
/-- The state after `n` draws under SR, or after none. -/
def afterDraws (s : State) (rm : Rm) (n : Nat) : State :=
  if rm = .sr then { s with iss := { s.iss with seed := some (genAfter (seedAt s) n) } } else s

/-! ## Tables of the integer members (Tables 08-2, 08-3, R203) -/

/-- Members that wrap: the instruction, its latency, and the exact result from the width, SUB, and the two elements. -/
noncomputable def wrapRows : List ((OpVRRR → Instr) × Nat × (Nat → BitVec 5 → Int → Int → Int)) :=
  [ (.vmul, 3, fun _ _ a b => a * b),
    (.vmulh, 3, fun w sub a b => (a * b + (if sub.getLsbD 0 then 2 ^ (w - 1) else 0)) / 2 ^ w),
    (.vmin, 1, fun _ _ a b => if a ≤ b then a else b),
    (.vmax, 1, fun _ _ a b => if a ≤ b then b else a),
    (.vavg, 1, fun _ _ a b => (a + b + 1) / 2),
    (.vneg, 1, fun _ _ a _ => -a) ]
/-- Members that clamp and set SAT. -/
noncomputable def satRows : List ((OpVRRR → Instr) × (Int → Int → Int)) :=
  [ (.vadds, fun a b => a + b), (.vsubs, fun a b => a - b), (.vabs, fun a _ => if a < 0 then -a else a) ]
/-- Members that act bit by bit. -/
noncomputable def bitRows : List ((OpVRRR → Instr) × (Bool → Bool → Bool)) :=
  [ (.vand, fun a b => a && b), (.vor, fun a b => a || b), (.vxor, fun a b => a ^^ b), (.vandn, fun a b => a && !b),
    (.vnot, fun a _ => !a) ]
/-- The shifts: with counts in a vector, with one count, and the exact result of an element of `w` bits shifted by `n` (Table 08-4).
`vshrr` by `w` or more gives 0, as the text below the table says (assumption 93). -/
noncomputable def shiftRows : List ((OpVRRR → Instr) × (OpVI → Instr) × (Nat → Int → Nat → Int)) :=
  [ (.vshl, .vshlImm, fun _ a n => a * 2 ^ n), (.vshr, .vshrImm, fun _ a n => a / 2 ^ n),
    (.vshrr, .vshrrImm, fun w a n => if n = 0 then a else if w ≤ n then 0 else (a + 2 ^ (n - 1)) / 2 ^ n) ]
/-- The compares: what holds between integers, between ordered floats, and with a NaN, and whether a quiet NaN sets NV. -/
noncomputable def vcmpRows : List ((OpVK → Instr) × (Int → Int → Bool) × (Ordering → Bool) × Bool × Bool) :=
  [ (.vcmpEq, fun a b => a = b, fun o => o == .eq, false, false),
    (.vcmpNe, fun a b => a ≠ b, fun o => o != .eq, true, false),
    (.vcmpLt, fun a b => a < b, fun o => o == .lt, false, true),
    (.vcmpLe, fun a b => a ≤ b, fun o => o != .gt, false, true) ]
/-- Mask logic, bit by bit. -/
noncomputable def maskRows : List ((OpKK → Instr) × (Bool → Bool → Bool)) :=
  [ (.kand, fun a b => a && b), (.kor, fun a b => a || b), (.kxor, fun a b => a ^^ b), (.kandn, fun a b => a && !b),
    (.knot, fun a _ => !a) ]

/-- The predicted residue of a 32-bit sum or difference (R132, R198). -/
def predicted (sub : Bool) (a b : Nat) (ra rb : BitVec 4) : Nat :=
  if ra = 15 ∨ rb = 15 then pat 32 (if sub then (a : Int) - b else a + b) % 15
  else if sub then (((ra.toNat : Int) - rb.toNat + ind (a < b)) % 15).toNat
  else (((ra.toNat : Int) + rb.toNat - ind (2 ^ 32 ≤ a + b)) % 15).toNat

end Sys2Proof.Claims

/-- R197 to R200, R202: the integer vector members compute each active element exactly, then wrap or clamp it; a clamp sets SAT. -/
def Sys2Proof.Claims.VectorIntegerResults : Prop :=
  ∀ (s : State) (o : OpVRRR), Pred.holds o.p s.cur.st.q = true → o.ty.setI = true →
    let w := o.ty.width
    let a (i : Nat) : Int := intAt o.ty (elemAt w (srcV s o.a).1 i)
    let b (i : Nat) : Int := intAt o.ty (elemAt w (srcV s o.b).1 i)
    (∀ r ∈ wrapRows, let x (i : Nat) : Nat := pat w (r.2.2 w o.sub (a i) (b i))
      ∃ t, exec (r.1 o) s = .next t ∧ vectorResult s s t o.d r.2.1 o.ty (srcK s o.k) x (fun _ => 0) (freshRes x)) ∧
    (∀ r ∈ satRows, let x (i : Nat) : Nat := pat w (heldTo o.ty (r.2 (a i) (b i))).1
      ∃ t, exec (r.1 o) s = .next t ∧ vectorResult s s t o.d 1 o.ty (srcK s o.k) x
        (fun i => if (heldTo o.ty (r.2 (a i) (b i))).2 then fSAT else 0) (freshRes x)) ∧
    (∀ sub : Bool, let x (i : Nat) : Nat := pat w (if sub then a i - b i else a i + b i)
      let i : Instr := if sub then .vsub o else .vadd o
      ∃ t, exec i s = .next t ∧ vectorResult s s t o.d 1 o.ty (srcK s o.k) x (fun _ => 0)
        (fun j => predicted sub (elemAt 32 (srcV s o.a).1 j) (elemAt 32 (srcV s o.b).1 j) (lres (srcV s o.a).2 j)
          (lres (srcV s o.b).2 j)))

/-- R198, R200, R202, R203, R204: the bitwise members, the moves and the shifts. -/
def Sys2Proof.Claims.VectorLogicMovesAndShifts : Prop :=
  ∀ s : State,
    (∀ o : OpVRRR, Pred.holds o.p s.cur.st.q = true →
      let w := o.ty.width
      let a (i : Nat) : Nat := elemAt w (srcV s o.a).1 i
      let b (i : Nat) : Nat := elemAt w (srcV s o.b).1 i
      (∀ r ∈ bitRows, ∃ t x, exec (r.1 o) s = .next t ∧
        vectorResult s s t o.d 1 o.ty (srcK s o.k) x (fun _ => 0) (freshRes x) ∧
        ∀ i < 1024 / w, x i < 2 ^ w ∧ ∀ n < w, (x i).testBit n = r.2 ((a i).testBit n) ((b i).testBit n)) ∧
      (∃ t, exec (.vmov o) s = .next t ∧
        vectorResult s s t o.d 1 o.ty (srcK s o.k) a (fun _ => 0) (fun j => (lres (srcV s o.a).2 j).toNat)) ∧
      (o.ty.setI = true → ∀ r ∈ shiftRows, let x (i : Nat) : Nat := pat w (r.2.2 w (intAt o.ty (a i)) (b i % 256))
        ∃ t, exec (r.1 o) s = .next t ∧ vectorResult s s t o.d 1 o.ty (srcK s o.k) x (fun _ => 0) (freshRes x))) ∧
    (∀ o : OpVI, Pred.holds o.p s.cur.st.q = true → o.ty.setI = true → ∀ r ∈ shiftRows,
      let x (i : Nat) : Nat := pat o.ty.width (r.2.2 o.ty.width (intAt o.ty (elemAt o.ty.width (srcV s o.a).1 i)) o.imm.toNat)
      ∃ t, exec (r.2.1 o) s = .next t ∧ vectorResult s s t o.d 1 o.ty (srcK s o.k) x (fun _ => 0) (freshRes x))

/-- R60, R199, R200, R205, R206, R207: the floating vector members take each element as the scalar instructions do, with one rounding
and, under SR, one draw for every element, active or not. `vfmin` and `vfmax` order −0 below +0; a NaN gives the canonical NaN, and NV
where it is signalling. -/
def Sys2Proof.Claims.VectorFloatResults : Prop :=
  ∀ s : State,
    (∀ o : OpVRRR, Pred.holds o.p s.cur.st.q = true → o.ty.setF = true →
      let w := o.ty.width
      let n := 1024 / w
      let a (i : Nat) : Nat := elemAt w (srcV s o.a).1 i
      let b (i : Nat) : Nat := elemAt w (srcV s o.b).1 i
      let x (i : Nat) : XNum × MFlags := valueOf o.ty (a i)
      let y (i : Nat) : XNum × MFlags := valueOf o.ty (b i)
      (∀ r ∈ [(Instr.vfadd o, fun x y : XNum => x.add o.rm y), (.vfsub o, fun x y => x.add o.rm y.opp), (.vfmul o, XNum.mul)],
        let e (i : Nat) : XNum × MFlags := r.2 (x i).1 (y i).1
        let c (i : Nat) : Nat × MFlags := roundTo o.ty o.rm (wordAt s o.rm i) (e i).1
        ∃ t, exec r.1 s = .next t ∧ vectorResult s (afterDraws s o.rm n) t o.d 4 o.ty (srcK s o.k) (fun i => (c i).1)
          (fun i => (x i).2 ||| (y i).2 ||| (e i).2 ||| (c i).2) (freshRes fun i => (c i).1)) ∧
      (∀ greater : Bool,
        let nan (i : Nat) : Bool := (x i).1 == .nan || (y i).1 == .nan
        let c (i : Nat) : Nat := if nan i then canonNaN o.ty
          else if (x i).1.below (y i).1 then (if greater then b i else a i) else (if greater then a i else b i)
        let j : Instr := if greater then .vfmax o else .vfmin o
        (∃ t, exec j s = .next t ∧ vectorResult s s t o.d 1 o.ty (srcK s o.k) c
          (fun i => if nan i then (x i).2 ||| (y i).2 else 0) (freshRes c)) ∧
        ∀ e : Int, XNum.below .negZero (.fin 0 e) = true ∧ XNum.below (.fin 0 e) .negZero = false) ∧
      (∃ t, exec (.vfabs o) s = .next t ∧
        vectorResult s s t o.d 1 o.ty (srcK s o.k) (fun i => a i % 2 ^ (w - 1)) (fun _ => 0) (freshRes a)) ∧
      (∃ t, exec (.vfneg o) s = .next t ∧
        vectorResult s s t o.d 1 o.ty (srcK s o.k) (fun i => a i % 2 ^ (w - 1) + (1 - a i / 2 ^ (w - 1)) * 2 ^ (w - 1))
          (fun _ => 0) (freshRes a))) ∧
    (∀ o : OpVF, Pred.holds o.p s.cur.st.q = true → o.ty.setF = true →
      let w := o.ty.width
      let x (i : Nat) : XNum × MFlags := valueOf o.ty (elemAt w (srcV s o.a).1 i)
      let y (i : Nat) : XNum × MFlags := valueOf o.ty (elemAt w (srcV s o.b).1 i)
      let z (i : Nat) : XNum × MFlags := valueOf o.ty (elemAt w (srcV s o.c).1 i)
      let p (i : Nat) : XNum × MFlags := (if o.neg then (x i).1.opp else (x i).1).mul (y i).1
      let e (i : Nat) : XNum × MFlags := (p i).1.add o.rm (z i).1
      let c (i : Nat) : Nat × MFlags := roundTo o.ty o.rm (wordAt s o.rm i) (e i).1
      ∃ t, exec (.vfma o) s = .next t ∧ vectorResult s (afterDraws s o.rm (1024 / w)) t o.d 4 o.ty
        (srcK s (.reg (o.k.setWidth 5))) (fun i => (c i).1)
        (fun i => (x i).2 ||| (y i).2 ||| (z i).2 ||| (p i).2 ||| (e i).2 ||| (c i).2) (freshRes fun i => (c i).1))

/-- R208: `vexp2` and `vrcp` round the exact value once under RNE. For `vrcp` that value is the exact reciprocal, zero for an infinity
and an infinity with OF for a zero; for `vexp2` it is the power of two where the element is an integer, 0 for −∞, +∞ for +∞, and every
other finite element sets NX. -/
def Sys2Proof.Claims.VectorReciprocalAndPower : Prop :=
  (∀ (s : State) (o : OpVRRR), Pred.holds o.p s.cur.st.q = true → o.ty.setF = true →
    let a (i : Nat) : Nat := elemAt o.ty.width (srcV s o.a).1 i
    ∀ r ∈ [(Instr.vexp2 o, exp2Elem), (.vrcp o, rcpElem)],
      ∃ t, exec r.1 s = .next t ∧ vectorResult s s t o.d 8 o.ty (srcK s o.k) (fun i => (r.2 o.ty (a i)).1)
        (fun i => (r.2 o.ty (a i)).2) (freshRes fun i => (r.2 o.ty (a i)).1)) ∧
  ∀ ty ∈ [Ty.f, .hf, .bf], ∀ code,
    (decodeFloat ty code = .nan → (exp2Elem ty code).1 = canonNaN ty ∧ (rcpElem ty code).1 = canonNaN ty) ∧
    (decodeFloat ty code = .inf true → exp2Elem ty code = (0, 0)) ∧
    (decodeFloat ty code = .inf false → exp2Elem ty code = roundTo ty .rne 0 (.inf false)) ∧
    (∀ neg, decodeFloat ty code = .inf neg → rcpElem ty code = roundTo ty .rne 0 (.zero neg)) ∧
    ((decodeFloat ty code).isZero = true →
      exp2Elem ty code = roundTo ty .rne 0 (.fin 1 0) ∧
      rcpElem ty code = ((roundTo ty .rne 0 (.inf (decodeFloat ty code).neg)).1, fOF)) ∧
    (∀ m e, decodeFloat ty code = .fin m e → m ≠ 0 →
      let p : Nat := m.natAbs * 2 ^ e.toNat
      let q : Nat := 2 ^ (-e).toNat
      rcpElem ty code = roundMag (fmtOf ty) .rne 0 (decide (m < 0)) q p ∧
      (p % q = 0 → p / q ≤ 1000 → exp2Elem ty code = roundTo ty .rne 0 (.fin 1 (if m < 0 then -(p / q : Nat) else (p / q : Nat)))) ∧
      (p % q ≠ 0 → (exp2Elem ty code).2.getLsbD 3 = true))

/-- R80, R197, R209, R210: a vector compare writes one bit for each active element, 0 elsewhere, and NV for a NaN as R209 gives; mask
logic acts on all 256 bits. -/
def Obligations.ComparesAndMasks : Prop :=
  (∀ r ∈ vcmpRows, ∀ (s : State) (o : OpVK), Pred.holds o.p s.cur.st.q = true → (o.ty.setI = true ∨ o.ty.setF = true) →
    let w := o.ty.width
    let a (i : Nat) : Nat := elemAt w (srcV s o.a).1 i
    let b (i : Nat) : Nat := elemAt w (srcV s o.b).1 i
    let m := srcK s o.k
    let rel (i : Nat) : Bool :=
      if o.ty.isInt then r.2.1 (intAt o.ty (a i)) (intAt o.ty (b i))
      else match XNum.cmp (valueOf o.ty (a i)).1 (valueOf o.ty (b i)).1 with
        | none => r.2.2.2.1
        | some c => r.2.2.1 c
    let nv (i : Nat) : Bool := !o.ty.isInt && ((XNum.cmp (valueOf o.ty (a i)).1 (valueOf o.ty (b i)).1 == none &&
      (r.2.2.2.2 || isSNaN o.ty (a i) || isSNaN o.ty (b i))))
    ∃ t k f, exec (r.1 o) s = .next t ∧ t = (s.entering [kEntry s o.d 1 k]).flagging f ∧
      (∀ i < 256, k.getLsbD i = (decide (i < 1024 / w) && m.getLsbD i && rel i)) ∧
      (f = fNV ∨ f = 0) ∧ (f = fNV ↔ ∃ i < 1024 / w, m.getLsbD i = true ∧ nv i = true)) ∧
  (∀ r ∈ maskRows, ∀ (s : State) (o : OpKK), Pred.holds o.p s.cur.st.q = true →
    ∃ k, exec (r.1 o) s = .next (s.entering [kEntry s o.d 1 k]) ∧
      ∀ i < 256, k.getLsbD i = r.2 ((srcK s o.a).getLsbD i) ((srcK s o.b).getLsbD i))

/-- R211 to R215: select, permute, broadcast, splat, slide and rotate. -/
def Obligations.VectorRearrangements : Prop :=
  ∀ s : State,
    (∀ o : OpVRRR, Pred.holds o.p s.cur.st.q = true →
      let w := o.ty.width
      let n := 1024 / w
      let a (i : Nat) : Nat := elemAt w (srcV s o.a).1 i
      let b (i : Nat) : Nat := elemAt w (srcV s o.b).1 i
      (∃ t, exec (.vsel o) s = .next t ∧ vectorResult s s t o.d 1 o.ty (BitVec.allOnes 256)
        (fun i => if (srcK s o.k).getLsbD i then a i else b i) (fun _ => 0)
        (fun j => (if (srcK s o.k).getLsbD j then lres (srcV s o.a).2 j else lres (srcV s o.b).2 j).toNat)) ∧
      (8 ≤ w → ∃ t, exec (.vperm o) s = .next t ∧
        vectorResult s s t o.d 2 o.ty (srcK s o.k) (fun i => a (b i % n)) (fun _ => 0) (freshRes fun i => a (b i % n)))) ∧
    (∀ o : OpVG, Pred.holds o.p s.cur.st.q = true →
      let x (_ : Nat) : Nat := (srcG s o.a).toNat % 2 ^ o.ty.width
      ∃ t, exec (.vbcastG o) s = .next t ∧ vectorResult s s t o.d 1 o.ty (srcK s o.k) x (fun _ => 0) (freshRes x)) ∧
    (∀ o : OpVI, Pred.holds o.p s.cur.st.q = true →
      let w := o.ty.width
      let n := 1024 / w
      let a (i : Nat) : Nat := elemAt w (srcV s o.a).1 i
      let c := o.imm.toNat
      let does (i : Instr) (x : Nat → Nat) : Prop :=
        ∃ t, exec i s = .next t ∧ vectorResult s s t o.d 1 o.ty (srcK s o.k) x (fun _ => 0) (freshRes x)
      (c < n → does (.vbcast o) fun _ => a c) ∧
      does (.vslideUp o) (fun i => if c ≤ i then a (i - c) else 0) ∧
      does (.vslideDn o) (fun i => if i + c < n then a (i + c) else 0) ∧
      (o.ty.setI = true → does (.vsplat o) fun _ => pat w o.imm.toInt) ∧
      (o.ty.setF = true → does (.vsplat o) fun _ => (roundTo o.ty .rne 0 (decodeFloat .e4 c)).1) ∧
      (c < 128 → ∃ t x, exec (.vrotm o) s = .next t ∧
        vectorResult s s t o.d 1 o.ty (srcK s o.k) x (fun _ => 0) (freshRes x) ∧
        ∃ v : BitVec 1024, (∀ i < n, x i = elemAt w v i) ∧
          ∀ j < 128, elemAt 8 v j = if j + c < 128 then elemAt 8 (srcV s o.a).1 (j + c) else elemAt 8 (srcV s o.b).1 (j + c - 128)))

namespace Sys2Proof.Claims

/-- The pairwise tree of R72 over `n` leaves: element `i` of level `k` and the flags of the rounding that made it. Each element above the
leaves is the sum of two neighbours below it, rounded once; under SR the roundings draw level by level, in ascending order. -/
def treeAt (s : State) (ty : Ty) (rm : Rm) (n : Nat) (leaf : Nat → Nat) : Nat → Nat → Nat × MFlags
  | 0, i => (leaf i, 0)
  | k + 1, i =>
    let x := valueOf ty (treeAt s ty rm n leaf k (2 * i)).1
    let y := valueOf ty (treeAt s ty rm n leaf k (2 * i + 1)).1
    let e := x.1.add rm y.1
    let c := roundTo ty rm (wordAt s rm (n - n / 2 ^ k + i)) e.1
    (c.1, x.2 ||| y.2 ||| e.2 ||| c.2)
/-- The residues of a reduction's result: those of the value in lane 0 and zeros at .s32 and .z32, and 15 at every other type (R77,
R198; assumption 18). -/
def reducedRes (ty : Ty) (x : Nat) : BitVec 128 :=
  if ty = .s32 ∨ ty = .z32 then BitVec.ofNat 128 (x % 2 ^ 32 % 15) else BitVec.allOnes 128

end Sys2Proof.Claims

/-- R72, R73, R216: the reductions write their result to element 0 of its type and 0 to every other bit: the exact integer sum of the
active lanes, wrapped or clamped; the greatest or least active lane; the floating tree, inactive lanes +0, one draw a rounding under
SR, with the flags of its roundings. A result has fresh residues at the 32-bit integer types (assumption 18). -/
def Obligations.VectorReductions : Prop :=
  ∀ (s : State) (o : OpVRRR), Pred.holds o.p s.cur.st.q = true → (o.ty.setI = true ∨ o.ty.setF = true) →
    let w := o.ty.width
    let n := 1024 / w
    let m := srcK s o.k
    let a (i : Nat) : Nat := elemAt w (srcV s o.a).1 i
    let act : List Nat := (List.range n).filter fun i => m.getLsbD i
    let wide := o.sub.getLsbD 0
    let rt : Ty := if o.ty.isInt then (if wide then (if o.ty.isSigned then .s64 else .z64) else o.ty)
      else if wide then .f else o.ty
    (o.ty.isInt = true →
      let sum : Int := (act.map fun i => intAt o.ty (a i)).sum
      let h := if o.sub.getLsbD 1 then heldTo rt sum else (sum, false)
      exec (.vredsum o) s = .next ((s.entering [vEntry s o.d 6 (BitVec.ofNat 1024 (pat rt.width h.1))
        (reducedRes rt (pat rt.width h.1))]).flagging (if h.2 then fSAT else 0))) ∧
    (o.ty.isInt = false →
      let leaf (i : Nat) : Nat × MFlags :=
        if m.getLsbD i then (if rt = o.ty then (a i, 0) else convert o.ty rt .rne 0 (a i)) else (0, 0)
      let node (k i : Nat) : Nat × MFlags := treeAt s rt o.rm n (fun i => (leaf i).1) k i
      let r := (node (Nat.log2 n) 0).1 % 2 ^ rt.width
      ∃ f, exec (.vredsum o) s = .next (((afterDraws s o.rm (n - 1)).entering
          [vEntry s o.d 6 (BitVec.ofNat 1024 r) (reducedRes rt r)]).flagging f) ∧
        ∀ b < 8, f.getLsbD b = true ↔ (∃ i < n, (leaf i).2.getLsbD b = true) ∨
          ∃ k < Nat.log2 n, ∃ i < n / 2 ^ (k + 1), (node (k + 1) i).2.getLsbD b = true) ∧
    (o.ty.isInt = true →
      ∀ greater : Bool, let i : Instr := if greater then .vredmax o else .vredmin o
      ∃ x, exec i s = .next (s.entering [vEntry s o.d 3 (BitVec.ofNat 1024 (pat w x)) (reducedRes o.ty (pat w x))]) ∧
        (act = [] → x = if greater then (if o.ty.isSigned then -(2 ^ (w - 1)) else 0)
          else (if o.ty.isSigned then 2 ^ (w - 1) - 1 else 2 ^ w - 1)) ∧
        (act ≠ [] → (∃ i ∈ act, x = intAt o.ty (a i)) ∧
          ∀ i ∈ act, if greater then intAt o.ty (a i) ≤ x else x ≤ intAt o.ty (a i))) ∧
    (o.ty.isInt = false →
      ∀ greater : Bool, let i : Instr := if greater then .vredmax o else .vredmin o
      ∃ c f, exec i s = .next ((s.entering [vEntry s o.d 3 (BitVec.ofNat 1024 c) (BitVec.allOnes 128)]).flagging f) ∧
        (∀ b < 8, f.getLsbD b = true ↔ ∃ i ∈ act, (valueOf o.ty (a i)).2.getLsbD b = true) ∧
        ((∃ i ∈ act, decodeFloat o.ty (a i) = .nan) → c = canonNaN o.ty) ∧
        (act = [] → c = (roundTo o.ty .rne 0 (.inf greater)).1) ∧
        ((∀ i ∈ act, decodeFloat o.ty (a i) ≠ .nan) → act ≠ [] → (c = (roundTo o.ty .rne 0 (.inf greater)).1 ∨ ∃ i ∈ act, c = a i) ∧
          ∀ i ∈ act, (if greater then (decodeFloat o.ty c).below (decodeFloat o.ty (a i))
            else (decodeFloat o.ty (a i)).below (decodeFloat o.ty c)) = false))

/-- R217, R218: the conversions of whole registers, of a half into wider elements, and into a half of narrower elements, whose other
half stays as it was; under SR one draw for each destination element. -/
def Sys2Proof.Claims.VectorConversions : Prop :=
  ∀ (s : State) (o : OpVC), Pred.holds o.p s.cur.st.q = true →
    let ws := o.sty.width
    let wd := o.dty.width
    let m := srcK s o.k
    let a (i : Nat) : Nat := elemAt ws (srcV s o.a).1 i
    let c (w x : Nat) : Nat × MFlags := if o.sty = o.dty then (x, 0) else convert o.sty o.dty o.rm w x
    (wd = ws → let x (i : Nat) : Nat × MFlags := c (wordAt s o.rm i) (a i)
      ∃ t, exec (.vcvt o) s = .next t ∧ vectorResult s (afterDraws s o.rm (1024 / wd)) t o.d 3 o.dty m (fun i => (x i).1)
        (fun i => (x i).2) (freshRes fun i => (x i).1)) ∧
    (wd = 2 * ws → let x (i : Nat) : Nat × MFlags := c (wordAt s o.rm i) (a ((if o.half then 1024 / wd else 0) + i))
      ∃ t, exec (.vcvtW o) s = .next t ∧ vectorResult s (afterDraws s o.rm (1024 / wd)) t o.d 3 o.dty m (fun i => (x i).1)
        (fun i => (x i).2) (freshRes fun i => (x i).1)) ∧
    (2 * wd = ws → let n := 1024 / ws
      let base := if o.half then n else 0
      let x (i : Nat) : Nat × MFlags := c (wordAt s o.rm (i - base)) (a (i - base))
      ∃ t m', exec (.vcvtN o) s = .next t ∧
        (∀ i < 256, m'.getLsbD i = (m.getLsbD i && decide (base ≤ i) && decide (i < base + n))) ∧
        vectorResult s (afterDraws s o.rm n) t o.d 3 o.dty m' (fun i => (x i).1) (fun i => (x i).2) (freshRes fun i => (x i).1))

namespace Sys2Proof.Claims

/-! ## K4O blocks (R51 to R55, R219) -/

/-- Exponent and mantissa of an S20 scale (R51). -/
def scaleExp (sc : Nat) : Nat := sc / 2 ^ 12 % 2 ^ 8
def scaleMant (sc : Nat) : Nat := sc % 2 ^ 12
/-- The scale is neither zero nor NaN. -/
def scaleFormed (sc : Nat) : Bool := scaleExp sc != 0 && scaleExp sc != 255
/-- Payload nibble `i`; pair `j` has a marker; the element that it marks; how many pairs before `j` have one (R52 to R54). -/
def nibAt (pay i : Nat) : Nat := pay / 2 ^ (4 * i) % 16
def marked (pay j : Nat) : Bool := nibAt pay (2 * j) == 8 || nibAt pay (2 * j + 1) == 8
def markerOf (pay j : Nat) : Nat := if nibAt pay (2 * j) = 8 then 2 * j else 2 * j + 1
def ordinal (pay j : Nat) : Nat := ((List.range j).filter (marked pay)).length
/-- Element `i` is a fourth or later marker, which sets FMT (R54). -/
def lateAt (md pay i : Nat) : Bool :=
  scaleFormed md && marked pay (i / 2) && markerOf pay (i / 2) == i && decide (3 ≤ ordinal pay (i / 2))
/-- The code value o(i) of R54: an outlier takes its high nibble from its slot and its low nibble from its partner. -/
def codeAt (md pay i : Nat) : XNum :=
  let j := i / 2
  if marked pay j = true then
    (if markerOf pay j = i ∧ ordinal pay j ≤ 2 then
      decodeFloat .e4 (md / 2 ^ (20 + 4 * ordinal pay j) % 16 * 16 + nibAt pay (4 * j + 1 - i))
    else .fin 0 0)
  else .fin (if 8 ≤ nibAt pay i then (nibAt pay i : Int) - 16 else nibAt pay i) 0
/-- `x` is the exact value of element `i` of a block (R55, Table 03-5): o(i) × 2^(e−127) × (1 + m/4,096). -/
def isBlockValue (md pay i : Nat) (x : XNum) : Prop :=
  if scaleExp md = 0 then x = .fin 0 0
  else if scaleExp md = 255 then x = .nan
  else match codeAt md pay i with
    | .fin p q => if p = 0 then x = .fin 0 0
      else ∃ P Q : Int, x = .fin P Q ∧
        (P : Rat) * 2 ^ Q = p * 2 ^ q * (((4096 + scaleMant md : Nat) : Rat) * 2 ^ ((scaleExp md : Int) - 139))
    | y => x = y

/-- The magnitude of q = x / scale as a fraction, for a finite x, and the sign of x. -/
def quotient (sc : Nat) (x : XNum) : Nat × Nat :=
  match x with
  | .fin p q =>
    let es : Int := (scaleExp sc : Int) - 139
    (p.natAbs * 2 ^ (q - es).toNat, 2 ^ (es - q).toNat * (4096 + scaleMant sc))
  | _ => (0, 1)
def isMinus : XNum → Bool
  | .fin p _ => decide (p < 0)
  | .inf n => n
  | _ => false
def isInf : XNum → Bool
  | .inf _ => true
  | _ => false
/-- c(m): q rounded to an integer with the element's word. -/
def intCode (rm : Rm) (sc w : Nat) (x : XNum) : Int :=
  let q := quotient sc x
  let n : Nat := q.1 / q.2 + if roundsUp rm (isMinus x) (q.1 / q.2) (q.1 % q.2) q.2 w then 1 else 0
  if isMinus x then -(n : Int) else n
/-- The E4M3 code of q rounded with the element's word, and the flags of that rounding; a NaN gives 0x7F. -/
def outlierCode (rm : Rm) (sc w : Nat) (x : XNum) : Nat × MFlags :=
  match x with
  | .nan => (0x7F, 0)
  | .inf n => roundTo .e4 rm w (.inf n)
  | .negZero => (0, 0)
  | .fin p q => if p = 0 then (0, 0)
    else roundMag (fmtOf .e4) rm w (decide (p < 0)) (quotient sc (.fin p q)).1 (quotient sc (.fin p q)).2
/-- big(m), and |q(x)| > |q(y)| with NaN greatest. -/
def isBig (rm : Rm) (sc w : Nat) (x : XNum) : Bool := x == .nan || isInf x || decide (7 < (intCode rm sc w x).natAbs)
def outranks (sc : Nat) (x y : XNum) : Bool :=
  if x == .nan || y == .nan then x == .nan && y != .nan
  else if isInf x || isInf y then isInf x && !isInf y
  else decide ((quotient sc y).1 * (quotient sc x).2 < (quotient sc x).1 * (quotient sc y).2)
/-- The flags of an element's integer rounding, and those of an ordinary code besides: SAT where it is held to −7 to 7. An infinite
element sets SAT alone (assumption 95). -/
def roundFlags (sc : Nat) (x : XNum) : MFlags :=
  if x = .nan then fNV else if (quotient sc x).1 % (quotient sc x).2 ≠ 0 then fNX else 0
def plainFlags (rm : Rm) (sc w : Nat) (x : XNum) : MFlags :=
  roundFlags sc x ||| if isInf x ∨ 7 < (intCode rm sc w x).natAbs then fSAT else 0
/-- The block that R219 makes of 64 values under a scale that is neither zero nor NaN, `word m` being what element `m` draws, and the
flags that pair `j` sets. -/
def packedAs (rm : Rm) (sc : Nat) (word : Nat → Nat) (x : Nat → XNum) (block : Nat) (fl : Nat → MFlags) : Prop :=
  let big (j : Nat) : Bool := isBig rm sc (word (2 * j)) (x (2 * j)) || isBig rm sc (word (2 * j + 1)) (x (2 * j + 1))
  let kk (j : Nat) : Nat := ((List.range j).filter big).length
  let taken (j : Nat) : Bool := big j && decide (kk j ≤ 2)
  let mk (j : Nat) : Nat := if outranks sc (x (2 * j + 1)) (x (2 * j)) then 2 * j + 1 else 2 * j
  let pt (j : Nat) : Nat := 4 * j + 1 - mk j
  let raw (j : Nat) : Nat × MFlags := outlierCode rm sc (word (mk j)) (x (mk j))
  let lower (j : Nat) : Bool := mk j == 2 * j + 1 && (raw j).1 % 16 == 8
  let code (j : Nat) : Nat := if lower j then (raw j).1 - 1 else (raw j).1
  let plain (m : Nat) : Nat :=
    if x m = .nan then 0 else if isInf (x m) then pat 4 (if isMinus (x m) then -7 else 7)
    else pat 4 (max (-7) (min 7 (intCode rm sc (word m) (x m))))
  let nibble (m : Nat) : Nat :=
    if taken (m / 2) then (if m = mk (m / 2) then 8 else code (m / 2) % 16) else plain m
  block = sc + ((List.range 32).map fun j => if taken j then code j / 16 * 2 ^ (20 + 4 * kk j) else 0).sum +
    ((List.range 64).map fun m => nibble m * 2 ^ (32 + 4 * m)).sum ∧
  ∀ j, fl j = if taken j then
      (raw j).2 ||| (if lower j then fNX else 0) ||| roundFlags sc (x (pt j)) |||
        (if isInf (x (pt j)) ∨ intCode rm sc (word (pt j)) (x (pt j)) ≠ 0 then fSAT else 0)
    else plainFlags rm sc (word (2 * j)) (x (2 * j)) ||| plainFlags rm sc (word (2 * j + 1)) (x (2 * j + 1))

end Sys2Proof.Claims

/-- R219, R220, R221: `vkpack` packs the 64 elements of A under the scale in B by the steps of R219, `vkunpk` decodes one block into
16-bit or two into 8-bit elements with the values of R55, each rounded once, and `vrq` packs a block's exact values under a new scale;
a NaN block requantises to a NaN block with a zero payload
and no flag, the mantissa of its new scale being free (assumption 16). As the model reads it, a fourth marker of `vrq`'s old block sets
FMT and a NaN block draws nothing (assumption 44), and in a masked `vkunpk` a marker sets FMT where its own element is active
(assumption 96). -/
def Sys2Proof.Claims.BlockPackAndUnpack : Prop :=
  ∀ (s : State) (o : OpVRRR), Pred.holds o.p s.cur.st.q = true →
    let sc := (srcV s o.b).1.toNat % 2 ^ 20
    let md (v : BitVec 1024) : Nat := v.toNat % 2 ^ 32
    let pay (v : BitVec 1024) : Nat := v.toNat / 2 ^ 32 % 2 ^ 256
    let packs (i : Instr) (x : Nat → XNum) (before : MFlags → Prop) : Prop :=
      (scaleFormed sc = false → ∃ f0, before f0 ∧ exec i s = .next (((afterDraws s o.rm 0).entering
        [vEntry s o.d 5 (BitVec.ofNat 1024 sc) (BitVec.allOnes 128)]).flagging f0)) ∧
      (scaleFormed sc = true → ∃ block fl f0 f, before f0 ∧ packedAs o.rm sc (wordAt s o.rm) x block fl ∧
        (∀ b < 8, f.getLsbD b = true ↔ f0.getLsbD b = true ∨ ∃ j < 32, (fl j).getLsbD b = true) ∧
        exec i s = .next (((afterDraws s o.rm 64).entering
          [vEntry s o.d 5 (BitVec.ofNat 1024 block) (BitVec.allOnes 128)]).flagging f))
    (o.ty ∈ [Ty.s16, .hf, .bf] →
      packs (.vkpack o) (fun i => (valueOf o.ty (elemAt 16 (srcV s o.a).1 i)).1) fun f0 =>
        ∀ b < 8, f0.getLsbD b = true ↔ scaleFormed sc = true ∧ ∃ i < 64, (valueOf o.ty (elemAt 16 (srcV s o.a).1 i)).2.getLsbD b = true) ∧
    (o.ty ∈ [Ty.s8, .z8, .e4, .e5, .s16, .z16, .hf, .bf] →
      let va := (srcV s o.a).1
      let vb := (srcV s o.b).1
      ∃ xs : Nat → XNum, (∀ i < 64, isBlockValue (md va) (pay va) i (xs i)) ∧
        (o.ty.width = 8 → ∀ i < 64, isBlockValue (md vb) (pay vb) i (xs (64 + i))) ∧
        let late (i : Nat) : Bool := if i < 64 then lateAt (md va) (pay va) i else lateAt (md vb) (pay vb) (i - 64)
        let x (i : Nat) : Nat × MFlags :=
          if o.ty.isInt then roundToInt o.ty o.rm (wordAt s o.rm i) (xs i) else roundTo o.ty o.rm (wordAt s o.rm i) (xs i)
        ∃ t, exec (.vkunpk o) s = .next t ∧ vectorResult s (afterDraws s o.rm (1024 / o.ty.width)) t o.d 3 o.ty (srcK s o.k)
          (fun i => (x i).1) (fun i => (x i).2 ||| if late i then fFMT else 0) (freshRes fun i => (x i).1)) ∧
    (let va := (srcV s o.a).1
     (scaleExp (md va) = 255 → ∃ v : BitVec 1024,
       exec (.vrq o) s = .next (s.entering [vEntry s o.d 5 v (BitVec.allOnes 128)]) ∧ v.toNat / 2 ^ 12 = 255) ∧
     (scaleExp (md va) ≠ 255 → ∃ xs : Nat → XNum, (∀ i < 64, isBlockValue (md va) (pay va) i (xs i)) ∧
       packs (.vrq o) xs fun f0 => f0 = if (List.range 64).any (lateAt (md va) (pay va)) then fFMT else 0))

namespace Sys2Proof.Claims

/-! ## The lattice (Tables 09-1 to 09-3) -/

/-- A row of `n` bytes. -/
def rowIs (v : BitVec 1024) (n : Nat) (byte : Nat → Byte) : Prop :=
  v.toNat < 2 ^ (8 * n) ∧ ∀ b < n, elemAt 8 v b = (byte b).toNat
/-- The types that `mpush` and `macc` take, and the tag that a push of each sets. -/
def pushTags : List (Ty × BufTag) :=
  [ (.s4, .s4), (.z4, .z4), (.e2, .e2), (.s8, .s8), (.z8, .z8), (.e4, .e4), (.e5, .e5), (.hf, .hf), (.bf, .bf) ]
/-- The `macc` types that a tag accepts. -/
def accepted : BufTag → List Ty
  | .none => []
  | .s4 | .z4 => [.s4, .z4]
  | .e2 | .k4o => [.e2]
  | .s8 | .z8 => [.s8, .z8]
  | .e4 | .e5 => [.e4, .e5]
  | .hf | .bf => [.hf, .bf]
/-- An entry of the in-flight table that acts on the lattice after `l` cycles. -/
def latticeEntry (s : State) (op : FlightOp) (l : Nat) : Flight :=
  { op := op, latch := none, left := l, coreCount := s.iss.template, ord := s.nextId }
/-- The scratchpad row that a pair names for a ROW, and byte `j` of the operand (R226). -/
def tileRow (s : State) (a : Src) (row : Nat) : Nat :=
  let lo := (srcG s a).toNat
  let hi := (srcG s (pairSrc a)).toNat
  (lo % 2 ^ 13 + row * (lo / 2 ^ 16 % 2 ^ 13) + (hi / 2 ^ 16 % 2 ^ 13) * (hi % 2 ^ 13)) % 8192
def tileByte (s : State) (a : Src) (row : Nat) (half : Bool) (j : Nat) : Byte :=
  let hi := (srcG s (pairSrc a)).toNat
  Memory.get s.loc (padKey (s.iss.cx / 4) s.cur.rowBase (tileRow s a row)
    (((if half then 64 else 0) + j + 32 * (hi / 2 ^ 32 % 4)) % 128))
/-- The scratchpad operand can be read: residues pass, the row is the crew's, and no word of it is in error. -/
def tileReads (s : State) (a : Src) (row : Nat) : Prop :=
  s.iss.template = false ∧ pairPasses s a ∧ tileRow s a row < s.cur.rows ∧
  padClean s (padKey (s.iss.cx / 4) s.cur.rowBase (tileRow s a row) 0) 128
/-- A weight page's formats but K4O: its EFMT code, the tag, the element width, and the alignment of the source (R228). -/
def weightFormats : List (Nat × BufTag × Nat × Nat) :=
  [ (1, .s4, 4, 32), (5, .z4, 4, 32), (13, .e2, 4, 32), (2, .s8, 8, 64), (6, .z8, 8, 64), (11, .e4, 8, 64), (12, .e5, 8, 64),
    (9, .hf, 16, 256), (10, .bf, 16, 256) ]
/-- Element (i, j) of a tile. -/
def tileKey (tile i j : Nat) : Nat := tile * 4096 + i * 64 + j
def tileAt (st : Strand) (tile i j : Nat) : BitVec 32 := FMap.getD st.acc (tileKey tile i j) 0
/-- The 64-bit word of a tile that holds element (i, j) holds an uncorrectable error. -/
def tileWordBad (st : Strand) (tile i j : Nat) : Prop := inSet st.accBad (tileKey tile i j / 2) = true
/-- An integer clamped to INT32. -/
def clamp32 (x : Int) : Int := max (-2 ^ 31) (min (2 ^ 31 - 1) x)
/-- The sum over k of a 64-byte A operand of a type with column `j` of an integer buffer. -/
def columnSum (b : Buffer) (ty : Ty) (A j : Nat) : Int :=
  ((List.range (512 / ty.width)).map fun k =>
    intAt ty (A / 2 ^ (ty.width * k) % 2 ^ ty.width) * intAt b.tag.elem (elemAt ty.width (FMap.getD b.rows k 0) j)).sum
/-- `x` is the exact value of element (k, j) of a stationary buffer (R222, R223). -/
def bufferValue (b : Buffer) (k j : Nat) (x : XNum) : Prop :=
  let row := FMap.getD b.rows k 0
  if b.tag = .k4o then isBlockValue (row.toNat % 2 ^ 32) (row.toNat / 2 ^ 32 % 2 ^ 256) j x
  else x = (valueOf b.tag.elem (elemAt b.tag.width row j)).1
/-- The rational that a finite number stands for. -/
noncomputable def ratOfNum : XNum → Rat
  | .fin m e => m * 2 ^ e
  | _ => 0
/-- `x` is the exact sum of `n` products, and `nv` whether it is an invalid operation (R70). -/
def isSum (n : Nat) (prod : Nat → XNum) (x : XNum) (nv : Bool) : Prop :=
  let any (y : XNum) : Prop := ∃ k < n, prod k = y
  (any .nan ∨ (any (.inf false) ∧ any (.inf true)) → x = .nan ∧ nv = true) ∧
  (¬ any .nan → any (.inf false) → ¬ any (.inf true) → x = .inf false ∧ nv = false) ∧
  (¬ any .nan → any (.inf true) → ¬ any (.inf false) → x = .inf true ∧ nv = false) ∧
  (¬ any .nan → ¬ any (.inf false) → ¬ any (.inf true) → nv = false ∧
    ((∀ k < n, prod k = .negZero) → x = .negZero) ∧
    ((∃ k < n, prod k ≠ .negZero) → ∃ P Q : Int, x = .fin P Q ∧ (P : Rat) * 2 ^ Q = ((List.range n).map fun k => ratOfNum (prod k)).sum))
/-- What an entry that a beat with the operand `A` makes does when it is due, to the tile and to `%mstat` (R66, R70, R71, R223, R230). -/
def beatAdds (s : State) (o : OpMA) (A : Nat) (op : FlightOp) : Prop :=
  let b := s.cur.st.active
  let at_ (st : Strand) (j : Nat) : BitVec 32 := tileAt st o.t.toNat o.row.toNat j
  (∀ (t : State) (cx : Nat) (e : Flight), e.op = op →
    let st := (t.ctx cx).st
    let st' := ((t.deliver cx e).ctx cx).st
    (∀ k, (∀ j < 64, k ≠ tileKey o.t.toNat o.row.toNat j) → FMap.getD st'.acc k 0 = FMap.getD st.acc k 0) ∧
    (b.tag ∈ [BufTag.s4, .z4, .s8, .z8] →
      (∀ j < 64, (at_ st' j).toInt = clamp32 ((at_ st j).toInt + columnSum b o.ty A j)) ∧
      st'.ctl.mstat = if ∃ j < 64, clamp32 ((at_ st j).toInt + columnSum b o.ty A j) ≠ (at_ st j).toInt + columnSum b o.ty A j
        then st.ctl.mstat ||| fSAT else st.ctl.mstat)) ∧
  (b.tag ∉ [BufTag.s4, .z4, .s8, .z8] →
    ∃ (x : Nat → XNum) (nv : Nat → Bool),
      (∀ j < 64, ∃ y : Nat → XNum, (∀ k < 512 / o.ty.width, bufferValue b k j (y k)) ∧
        isSum (512 / o.ty.width) (fun k => ((valueOf o.ty (A / 2 ^ (o.ty.width * k) % 2 ^ o.ty.width)).1.mul (y k)).1) (x j) (nv j)) ∧
      ∀ (t : State) (cx : Nat) (e : Flight), e.op = op →
        let st := (t.ctx cx).st
        let st' := ((t.deliver cx e).ctx cx).st
        let r (j : Nat) : XNum × MFlags := (decodeFloat .f (at_ st j).toNat).add .rne (x j)
        let c (j : Nat) : Nat × MFlags := roundTo .f .rne 0 (r j).1
        (∀ j < 64, (at_ st' j).toNat = (c j).1) ∧
        ∀ n < 8, st'.ctl.mstat.getLsbD n = true ↔ st.ctl.mstat.getLsbD n = true ∨
          ∃ j < 64, ((r j).2 ||| ((c j).2 &&& fOF) ||| (if nv j ∨ isSNaN .f (at_ st j).toNat then fNV else 0)).getLsbD n = true)
/-- No word of the rows that a beat reads holds an uncorrectable error. -/
def bufferClean (s : State) (ty : Ty) : Prop := ∀ w ∈ s.cur.st.active.bad, 512 / ty.width ≤ w / 16
/-- What a beat whose instruction is `i` and whose operand is `A` answers: with a buffer of an accepting format one entry, four cycles
long, what it adds being free only where a word of the buffer is in error (assumption 88); with no buffer the count alone; with a
buffer of another format the fault PROT, and no count, since the beat does not commit (R103, R405). -/
def beatIs (s : State) (i : Instr) (o : OpMA) (A : Nat) : Prop :=
  let tag := s.cur.st.active.tag
  let s1 := s.count s.iss.cx .beats 1
  (o.ty ∈ accepted tag → bufferClean s o.ty → ∃ op, exec i s = .next (s1.entering [latticeEntry s op 4]) ∧ beatAdds s o A op) ∧
  (o.ty ∈ accepted tag → ¬ bufferClean s o.ty → ∃ t op, exec i s = .next t ∧ sameMemory s t ∧ sameOthers s t ∧
    (t.ctx s.iss.cx).st = { s.cur.st with flight := s.cur.st.flight ++ [latticeEntry s op 4] }) ∧
  (tag = .none → exec i s = .next s1) ∧
  (tag ≠ .none → o.ty ∉ accepted tag → exec i s = .next (s.raise 3 .prot 0 0))
/-- `a` and `b` of a known-answer beat (R234). -/
def katA (p k : Nat) : Int := let x := (p + 3 * k) % 256; if 128 ≤ x then (x : Int) - 256 else x
def katB (p k j : Nat) : Int := let x := (5 * p + k + 7 * j) % 256; if 128 ≤ x then (x : Int) - 256 else x

end Sys2Proof.Claims

/-- R116, R223, R226, R227, R229: a push writes one row, one cycle later, into the shadow buffer, from half a register or from the
scratchpad row that its pair names; a format other than the shadow's first clears it; a row outside the crew's faults PROT; `mswap`
exchanges the buffers; the `nop` of each slot changes nothing. -/
def Sys2Proof.Claims.LatticePushes : Prop :=
  (∀ p ∈ pushTags, ∀ (s : State) (o : OpMP), Pred.holds o.p s.cur.st.q = true → o.ty = p.1 → (o.ty.width = 16 → o.half = false) →
    let n := 8 * o.ty.width
    let pushed (i : Instr) (byte : Nat → Byte) : Prop :=
      ∃ v, exec i s = .next (s.entering [latticeEntry s (.push [(o.row.toNat, v)] (some p.2) false none) 1]) ∧ rowIs v n byte
    pushed (.mpushV o) (fun b => BitVec.ofNat 8 (elemAt 8 (srcV s o.a).1 ((if o.half then 64 else 0) + b))) ∧
    (tileReads s o.a o.row.toNat → pushed (.mpushSp o) (tileByte s o.a o.row.toNat o.half)) ∧
    (s.iss.template = false → pairPasses s o.a → s.cur.rows ≤ tileRow s o.a o.row.toNat →
      exec (.mpushSp o) s = .next (s.raise 3 .prot (s.iss.cx / 4 % 8 * 2 ^ 20 + tileRow s o.a o.row.toNat * 128) 0))) ∧
  (∀ (st : Strand) (r : Nat) (v : BitVec 1024) (tag : BufTag),
    let b := (st.deliver (.push [(r, v)] (some tag) false none)).shadow
    b.tag = tag ∧ b.sealed = (decide (st.shadow.tag = tag) && st.shadow.sealed) ∧
    ∀ k, FMap.getD b.rows k 0 = if k = r then v else if st.shadow.tag = tag then FMap.getD st.shadow.rows k 0 else 0) ∧
  (∀ (s : State) (o : OpN), Pred.holds o.p s.cur.st.q = true →
    exec (.mswap o) s = .next (s.updSt fun st => { st with active := s.cur.st.shadow, shadow := s.cur.st.active }) ∧
    exec (.mnop o) s = .next s) ∧
  (∀ (s : State) (o : OpNT), exec (.vnop o) s = .next s ∧ exec (.cnop o) s = .next s)

/-- R225, R228, R398, R400: `mpush.w` pushes four rows, or two at width 16, of a readable page of the own weight bank, in plain, K4O or
sealed form, under a promise of 20 cycles that comes due no sooner than that of an earlier one; the bytes of a sealed page are those
that AES-256-XTS gives for its 256-byte units under the key of the page's own slot, whose number is the unit's place in MRAM. A page of
the footprint that is not sealed as its run says, or whose slot holds no key for the strand's ASN, faults SEALED. A page that was not
resident pushes zero rows, sets RES and counts a drop. -/
def Sys2Proof.Claims.WeightPushes : Prop :=
  ∀ (s : State) (o : OpMP) (i : Nat) (r : Run), Pred.holds o.p s.cur.st.q = true → passes s o.a → s.iss.cx < 4096 →
    let va := (srcG s o.a).toNat
    let row := o.row.toNat
    let size := r.pageAt va
    let page := va / size * size
    let P := r.pa + page - r.va
    let off := va % size
    let bank := 0x10000000000 + s.iss.cx / 4 * 0x2000000
    let key (a : Nat) : Option KeySlot := s.keyFor (s.sealTag a) (s.asnOf s.iss.cx)
    let plain : Prop := ∀ a, P ≤ a → a < P + size → s.sealTag a = 0
    let pushed (isSealed : Bool) (tag : BufTag) (n at_ l : Nat) (rowOk : Nat → BitVec 1024 → Prop) : Prop :=
      ∃ t e rows, exec (.mpushW o) s = .next t ∧ sameMemory s t ∧ sameOthers s t ∧
        (t.ctx s.iss.cx).st = { s.cur.st with flight := s.cur.st.flight ++ [e] } ∧
        e.op = .push rows (some tag) isSealed (some (page + at_, row)) ∧ e.latch = none ∧ e.lands.isSome ∧
        e.left = (s.cur.st.flight.filter Flight.isWeight).foldl (fun l e => max l e.left) l ∧
        rows.map (fun x => x.1) = (List.range n).map (fun k => row + k) ∧ ∀ k v, rows[k]? = some (row + k, v) → rowOk k v
    findRun s.cur.runs va = some (i, r) → r.r = true → s.cur.st.ctl.watch.getLsbD 2 = false →
    (r.resident = true → s.bad = [] → 0 < size → bank ≤ P + off → P + off < bank + 0x2000000 →
      bank ≤ P → P + size ≤ bank + 0x2000000 →
      (∀ f ∈ weightFormats, r.efmt = f.1 →
        let w := f.2.2.1
        let n := if w = 16 then 2 else 4
        let start := off / f.2.2.2 * f.2.2.2
        start + 8 * w * n ≤ size → row % n = 0 → row + n ≤ 512 / w →
        (r.isSealed = false → plain → pushed false f.2.1 n start 20 fun k v =>
          rowIs v (8 * w) fun b => Memory.get s.mem (P + start + 8 * w * k + b)) ∧
        (r.isSealed = true → (∀ a, P ≤ a → a < P + size → key a ≠ none ∧ s.sealTag a ≠ 0) → pushed true f.2.1 n start 20 fun k v =>
          rowIs v (8 * w) fun b =>
            let a := P + start + 8 * w * k + b
            match key a with
            | some x => (xtsUnit false x.k1 x.k2 (a / 256) (s.peek (a / 256 * 256) 256)).getD (a % 256) 0
            | none => 0) ∧
        ((∃ k < n, let a := P + start + 8 * w * k
            (decide (s.sealTag a ≠ 0) ≠ r.isSealed) ∨ (s.sealTag a ≠ 0 ∧ key a = none)) →
          exec (.mpushW o) s = .next (s.raise 3 .sealed va 0))) ∧
      (r.efmt = 14 → r.isSealed = false → plain → row % 4 = 0 → row + 4 ≤ 128 → ∀ j,
        (r.bgeo = 0 → off = 36 * j → j + 4 ≤ size / 36 → pushed false .k4o 4 off 20 fun k v =>
          rowIs v 36 fun b => Memory.get s.mem (P + 36 * (j + k) + b)) ∧
        (r.bgeo = 1 → off = 32 * j → j + 4 ≤ size / 36 → pushed false .k4o 4 off 20 fun k v =>
          rowIs v 36 fun b => Memory.get s.mem (P + if b < 4 then size - 4 * (size / 36) + 4 * (j + k) + b else 32 * (j + k) + b - 4)))) ∧
    (r.resident = false →
      ∃ t e rows, exec (.mpushW o) s = .next t ∧ sameMemory s t ∧ t.iss.hw = s.iss.hw ++ [.resFlag] ∧
        (t.ctx s.iss.cx).st = { s.cur.st with flight := s.cur.st.flight ++ [e] } ∧ 2 ≤ e.left ∧ e.op = .push rows none false none ∧
        (t.ctx s.iss.cx).runs = s.cur.runs.modify i (fun r => { r with drops := min 65535 (r.drops + 1) }) ∧
        ∀ st : Strand, st.shadow.tag = s.cur.st.shadow.tag →
          let b := (st.deliver e.op).shadow
          let n := if b.tag = .hf ∨ b.tag = .bf then 2 else 4
          b.tag = st.shadow.tag ∧ ∀ k, FMap.getD b.rows k 0 =
            if b.tag ≠ .none ∧ row ≤ k ∧ k < row + n ∧ k < b.tag.depth then 0 else FMap.getD st.shadow.rows k 0)

/-- R66, R70, R71, R223, R230: a beat adds the products of its A operand with the active buffer to one row of a tile, four cycles
later: in integers exactly, clamped to INT32; in floats by one sum rounded into FP32. With no buffer it does nothing, and with one of
another format it faults PROT and counts no beat (R405). -/
def Sys2Proof.Claims.LatticeBeats : Prop :=
  ∀ (s : State) (o : OpMA), Pred.holds o.p s.cur.st.q = true →
    beatIs s (.maccV o) o ((srcV s o.a).1.toNat / 2 ^ (if o.half then 512 else 0) % 2 ^ 512) ∧
    (tileReads s o.a o.row.toNat → ∃ A < 2 ^ 512,
      (∀ b < 64, A / 256 ^ b % 256 = (tileByte s o.a o.row.toNat o.half b).toNat) ∧ beatIs s (.maccSp o) o A)

/-- R231, R232, R234, R235: `mshift` moves a tile's rows down by one and `mzero` clears it, four cycles later; `mdrain` copies half a
row into a register with latency 3 and fresh residues, an element in error as zero (R392); `mkat` computes the checksum of its pattern and compares it six cycles later. -/
def Sys2Proof.Claims.LatticeTilesAndKnownAnswers : Prop :=
  ∀ s : State,
    (∀ o : OpMT, Pred.holds o.p s.cur.st.q = true →
      (∃ op, exec (.mshift o) s = .next (s.entering [latticeEntry s op 4]) ∧ ∀ (st : Strand) (T i j : Nat), i < 64 → j < 64 →
        tileAt (st.deliver op) T i j =
          if T ≠ o.t.toNat then tileAt st T i j else if i = 63 then 0 else tileAt st T (i + 1) j) ∧
      (∃ op, exec (.mzero o) s = .next (s.entering [latticeEntry s op 4]) ∧ ∀ (st : Strand) (T i j : Nat), i < 64 → j < 64 →
        tileAt (st.deliver op) T i j = if T = o.t.toNat then 0 else tileAt st T i j)) ∧
    (∀ o : OpMD, Pred.holds o.p s.cur.st.q = true →
      ∃ t v res, exec (.mdrain o) s = .next t ∧ (s.cur.st.accBad = [] → t = s.entering [vEntry s o.d 3 v res]) ∧
        (t.ctx s.iss.cx).st = { s.cur.st with flight := s.cur.st.flight ++ [vEntry s o.d 3 v res] } ∧ sameMemory s t ∧ sameOthers s t ∧
        ∀ j < 32, let col := (if o.half then 32 else 0) + j
          (tileWordBad s.cur.st o.t.toNat o.row.toNat col → elemAt 32 v j = 0) ∧
          (¬ tileWordBad s.cur.st o.t.toNat o.row.toNat col → elemAt 32 v j = (tileAt s.cur.st o.t.toNat o.row.toNat col).toNat) ∧ (lres res j).toNat = elemAt 32 v j % 15) ∧
    (∀ o : OpMK, Pred.holds o.p s.cur.st.q = true →
      let p := o.pat.toNat
      let col (j : Nat) : Int := ((List.range 64).map fun k => katA p k * katB p k j).sum
      let chk : Word := BitVec.ofInt 64 ((List.range 64).map fun (j : Nat) => ((j : Int) + 1) * col j).sum
      exec (.mkat o) s = .next ((s.entering [latticeEntry s (.mkat chk (chk != srcG s o.a)) 6]).count s.iss.cx .beats 1))

namespace Sys2Proof.Claims

/-- A vector result of a load that is interlocked. -/
def landsV (s t : State) (d : Dst) (v : BitVec 1024) : Prop :=
  ∃ (p : Pend) (res : BitVec 128), (t.ctx s.iss.cx).st = { s.cur.st with pend := s.cur.st.pend ++ [p] } ∧
    p.reg = (if d.latchOnly then none else some (.v d.n.toNat)) ∧ p.latch = some (d.n.toNat % 16) ∧ p.vec = true ∧
    (∀ j < 32, (lres res j).toNat = elemAt 32 v j % 15) ∧
    ∃ tick, s.clock.toNat < tick ∧ p.kind = .value v res.toNat tick
/-- A vector result by the class of its page; a decoded one has lane residues only at .s32 and .z32. -/
def loadedV (s t : State) (d : Dst) (v : BitVec 1024) (tracked : Bool) (r : Run) (pa : Nat) : Prop :=
  ∃ res : BitVec 128, (∀ j < 32, (lres res j).toNat = if tracked then elemAt 32 v j % 15 else 15) ∧
    match promiseFor s r pa with
    | none => ∃ p : Pend, (t.ctx s.iss.cx).st = { s.cur.st with pend := s.cur.st.pend ++ [p] } ∧
        p.reg = (if d.latchOnly then none else some (.v d.n.toNat)) ∧ p.latch = some (d.n.toNat % 16) ∧ p.vec = true ∧
        ∃ tick, s.clock.toNat < tick ∧ p.kind = .value v res.toNat tick
    | some l => ∃ e : Flight, (t.ctx s.iss.cx).st = { s.cur.st with flight := s.cur.st.flight ++ [e] } ∧
        e.op = (vEntry s d l v res).op ∧ e.latch = some (d.n.toNat % 16, { val := v, sres := 15, vres := res }) ∧ e.left = l ∧
        e.lands.isSome
/-- The row of a vector LOCAL operand, and its key. -/
def vecRow (s : State) (o : OpCM) : Nat :=
  match o.a with
  | .reg n => rowAt ((FMap.getD s.cur.st.b n.toNat 0).toNat % 8192) o.imm.toInt
  | .latch n => rowAt ((FMap.getD s.cur.st.b n.toNat 0).toNat % 8192) o.imm.toInt
def vecKey (s : State) (o : OpCM) : Nat := padKey (s.iss.cx / 4) s.cur.rowBase (vecRow s o) 0
/-- The row of a vector CLUSTER operand on a core whose first row of the crew is `base`, and its key. -/
def vecCluRow (s : State) (o : OpCM) : Nat := clusterRow (srcG s o.a) o.imm.toInt
def vecCluKey (s : State) (o : OpCM) (base : Nat) : Nat :=
  padKey (s.iss.cx / 32 * 8 + clusterCore (srcG s o.a)) base (vecCluRow s o) 0
/-- The address that a vector DEVICE operand presents. -/
def vecAddr (s : State) (o : OpCM) : Int := (srcG s o.a).toNat + o.imm.toInt
/-- 128 bytes of a memory as a vector. -/
def vecAt (m : Memory) (a : Nat) : BitVec 1024 := BitVec.ofNat 1024 (Memory.num m a 128)

end Sys2Proof.Claims

/-- R164, R165, R168, R170, R295: vector loads and stores of a row of the own scratchpad, or of one of the cluster. -/
def Sys2Proof.Claims.VectorScratchpadAccesses : Prop :=
  ∀ (s : State) (o : OpCM), Pred.holds o.p s.cur.st.q = true →
    (vecRow s o < s.cur.rows → padClean s (vecKey s o) 128 →
      (∃ res, exec (.vldLoc o) s = .next ((s.count s.iss.cx .local_ 128).entering [vEntry s o.d 2 (vecAt s.loc (vecKey s o)) res]) ∧
        ∀ j < 32, (lres res j).toNat = elemAt 32 (vecAt s.loc (vecKey s o)) j % 15) ∧
      (passesV (srcV s o.c) → Memory.wf s.loc = true →
        ∃ t, exec (.vstLoc o) s = .next t ∧ storedIn s.loc t.loc (vecKey s o) 128 (srcV s o.c).1.toNat ∧ sameButLoc s t)) ∧
    (∀ base, passes s o.a → s.crewRow s.iss.cx (clusterCore (srcG s o.a)) = some base → vecCluRow s o < s.cur.rows →
      padClean s (vecCluKey s o base) 128 →
      (∃ t, exec (.vldClu o) s = .next t ∧ landsV s t o.d (vecAt s.loc (vecCluKey s o base)) ∧ sameMemory s t ∧ sameOthers s t) ∧
      (passesV (srcV s o.c) → Memory.wf s.loc = true →
        ∃ t, exec (.vstClu o) s = .next t ∧ storedIn s.loc t.loc (vecCluKey s o base) 128 (srcV s o.c).1.toNat ∧ sameButLoc s t))

/-- R68, R165, R166, R168, R170, R318, R331: a plain vector DEVICE access that passes its checks moves the 128 aligned bytes of its run,
which in the tag window are the bits of the words that they describe; a
decoding load converts the elements of a typed page, and the values of the blocks of a K4O page, into its lanes; a page that is absent
loads zero and sets k15, or drops the store; so does a transfer in error or lost between dies (R392, R395). -/
def Sys2Proof.Claims.VectorDeviceAccesses : Prop :=
  ∀ (s : State) (o : OpCM) (a : DevAt), Pred.holds o.p s.cur.st.q = true → passes s o.a →
    (o.dec = false → s.devCheck s.iss.cx (vecAddr s o) 128 true false false = .ok a →
      (∀ pa, a.pa = some pa → s.unreadable (dieOf s.iss.cx) pa 128 = false → ∃ t, exec (.vldDev o) s = .next t ∧
        loadedV s t o.d (BitVec.ofNat 1024 (leValue (s.peek pa 128))) true a.run pa ∧ sameMemory s t ∧ sameOthers s t ∧
        (inTags pa = true → ∀ i < 1024, (BitVec.ofNat 1024 (leValue (s.peek pa 128))).getLsbD i = inSet s.full (tagged pa i))) ∧
      (a.pa = none ∨ (∃ pa, a.pa = some pa ∧ s.unreadable (dieOf s.iss.cx) pa 128 = true) → ∃ t p, exec (.vldDev o) s = .next t ∧ sameMemory s t ∧ t.iss.hw = s.iss.hw ++ [.k15 128] ∧
        (t.ctx s.iss.cx).st = { s.cur.st with pend := s.cur.st.pend ++ [p] } ∧ p.kind = .cycles 0 0 2)) ∧
    (∀ d pa, o.dec = true → s.decCheck s.iss.cx (vecAddr s o) o.ty = .ok (a, some d) → a.pa = some pa → s.bad = [] →
      s.lostLinks = [] → ∃ t v, exec (.vldDev o) s = .next t ∧ sameMemory s t ∧ sameOthers s t ∧
        loadedV s t o.d v (decide (o.ty = .s32 ∨ o.ty = .z32)) a.run pa ∧
        (∀ src, efmtOf a.run.efmt = .ty src →
          let n := o.ty.count * src.width / 8
          let x := leValue (s.peek (a.run.pa + a.va / n * n - a.run.va) n)
          ∀ i < 1024 / o.ty.width, elemAt o.ty.width v i = (decodeElem src o.ty (x / 2 ^ (src.width * i) % 2 ^ src.width)).1 % 2 ^ o.ty.width) ∧
        (efmtOf a.run.efmt = .k4o →
          let page := a.va / a.run.page * a.run.page
          let off := a.va - page
          let flat := decide (a.run.bgeo = 0)
          let num (va n : Nat) : Nat := leValue (s.peek (a.run.pa + va - a.run.va) n)
          let md (b : Nat) : Nat := num (if flat then a.va + 36 * b else page + (a.run.page - 4 * (a.run.page / 36) + 4 * (off / 32 + b))) 4
          let pay (b : Nat) : Nat := num (if flat then a.va + 36 * b + 4 else a.va + 32 * b) 32
          ∀ i < 1024 / o.ty.width, ∃ y, isBlockValue (md (i / 64)) (pay (i / 64)) (i % 64) y ∧ elemAt o.ty.width v i =
            (if o.ty.isInt then roundToInt o.ty .rne 0 y else roundTo o.ty .rne 0 y).1 % 2 ^ o.ty.width)) ∧
    (passesV (srcV s o.c) → s.devCheck s.iss.cx (vecAddr s o) 128 false true false = .ok a →
      (∀ pa, a.pa = some pa → inLpddr pa = true → memClean s pa 128 → unowned s pa 128 → Memory.wf s.mem = true →
        (joined s pa → ∃ t, exec (.vstDev o) s = .next t ∧ storedIn s.mem t.mem pa 128 (srcV s o.c).1.toNat ∧ sameButMem s t) ∧
        (¬ joined s pa → ∃ t, exec (.vstDev o) s = .next t ∧ sameMemory s t ∧ t.ctxs = s.ctxs)) ∧
      (∀ pa, a.pa = some pa → inTags pa = true → pa % 128 = 0 → memClean s pa 128 → joined s pa → risingSet s.full = true →
        (∀ i < 1024, inSet s.bad (tagged pa i) = false) →
        ∃ t, exec (.vstDev o) s = .next t ∧ t.mem = s.mem ∧ t.loc = s.loc ∧ t.locFull = s.locFull ∧ t.ctxs = s.ctxs ∧
          (∀ i < 1024, inSet t.full (tagged pa i) = (srcV s o.c).1.getLsbD i) ∧
          ∀ w, (w < tagged pa 0 ∨ tagged pa 1024 ≤ w) → inSet t.full w = inSet s.full w) ∧
      (a.pa = none → ∃ t, exec (.vstDev o) s = .next t ∧ sameMemory s t ∧ sameStrand s t ∧
        (t.ctx s.iss.cx).runs = s.cur.runs.modify a.idx fun r => { r with drops := min 65535 (r.drops + 1) }))

/-- R164, R171, R180, R324, R325, R337: vector accesses to another module, to the host and to KV space. A KV access
reads the descriptor and its geometry first, as two strand loads (R338). An address outside 64 bits (R164), a module that is none or
is not reachable, and a HOST access with its link down or without a bound function fail: 0 to the destination, and no effect. An access
that names the own module is performed there under a destination's checks. -/
def Obligations.VectorRemoteAndKvAccesses : Prop :=
  ∀ (s : State) (o : OpCM), Pred.holds o.p s.cur.st.q = true → pairPasses s o.a →
    let addr := pairAddr s o.a o.imm.toInt 128
    let m := pairModule s o.a
    let port := pairPort s o.a
    let inSpace := pairIn s o.a o.imm.toInt
    (inSpace → m < 288 → m ≠ s.boot.modid.toNat → s.reachable = true →
      (∃ t p, exec (.vldPeer o) s = .next t ∧ sends s t m (.load addr 128) false (some s.nextId) ∧ sameMemory s t ∧ sameOthers s t ∧
        (t.ctx s.iss.cx).st = { s.cur.st with pend := s.cur.st.pend ++ [p] } ∧ p.id = s.nextId ∧ p.kind = .peer s.nextId ∧
        p.vec = true ∧ p.reg = (if o.d.latchOnly then none else some (.v o.d.n.toNat)) ∧ p.latch = some (o.d.n.toNat % 16)) ∧
      (passesV (srcV s o.c) → ∃ t, exec (.vstPeer o) s = .next t ∧
        sends s t m (.store addr (leBytes 128 (srcV s o.c).1.toNat) false) true none ∧ sameMemory s t ∧ t.ctxs = s.ctxs)) ∧
    (288 ≤ m ∨ (m ≠ s.boot.modid.toNat ∧ s.reachable = false) ∨ ¬ inSpace →
      (∃ t, exec (.vldPeer o) s = .next t ∧ landsV s t o.d 0 ∧ sameMemory s t ∧ t.outReqs = s.outReqs) ∧
      (passesV (srcV s o.c) → exec (.vstPeer o) s = .next (s.count s.iss.cx .remfail 1))) ∧
    (inSpace → m < 288 → m = s.boot.modid.toNat →
      let place (rd wr : Bool) := (s.peerPlace (dieOf s.iss.cx) (s.pasnOf s.iss.cx) addr 128 rd wr).1
      (∀ pa fe, place true false = .ok (pa, fe) → ∃ t, exec (.vldPeer o) s = .next t ∧ sameMemory s t ∧ t.outReqs = s.outReqs ∧
        (s.spoiled pa 128 = false → landsV s t o.d (BitVec.ofNat 1024 (leValue (s.peek pa 128)))) ∧
        (s.spoiled pa 128 = true → landsV s t o.d 0 ∧ t.iss.hw = s.iss.hw ++ [.k15 128])) ∧
      (∀ e, place true false = .error e → ∃ t, exec (.vldPeer o) s = .next t ∧
        landsV s t o.d 0 ∧ sameMemory s t ∧ t.outReqs = s.outReqs) ∧
      (passesV (srcV s o.c) →
        (∀ pa fe, place false true = .ok (pa, fe) → inLpddr pa = true → memClean s pa 128 → unowned s pa 128 →
          Memory.wf s.mem = true → ∃ t, exec (.vstPeer o) s = .next t ∧ storedIn s.mem t.mem pa 128 (srcV s o.c).1.toNat ∧
            sameButMem s t ∧ t.outReqs = s.outReqs) ∧
        (∀ e, place false true = .error e → ∃ t, exec (.vstPeer o) s = .next t ∧ sameMemory s t ∧ t.ctxs = s.ctxs ∧
          t.outReqs = s.outReqs))) ∧
    (¬ (FMap.getD s.linkUp port false = true ∧ (s.jobFn port (s.jobOf s.iss.cx)).isSome) →
      (∃ t, exec (.vldHost o) s = .next t ∧ sameMemory s t ∧ sameOthers s t ∧ landsV s t o.d 0) ∧
      (passesV (srcV s o.c) → ∃ t, exec (.vstHost o) s = .next t ∧ sameMemory s t ∧ t.ctxs = s.ctxs ∧
        t.acct = (s.count s.iss.cx .remfail 1).acct)) ∧
    (FMap.getD s.linkUp port false = true → (s.jobFn port (s.jobOf s.iss.cx)).isSome → Memory.wf (s.hostMem port) = true →
      (¬ inSpace → (∃ t, exec (.vldHost o) s = .next t ∧ sameMemory s t ∧ sameOthers s t ∧ landsV s t o.d 0) ∧
        (passesV (srcV s o.c) → ∃ t, exec (.vstHost o) s = .next t ∧ sameMemory s t ∧ t.ctxs = s.ctxs)) ∧
      (inSpace → ∃ t, exec (.vldHost o) s = .next t ∧ sameMemory s t ∧ sameOthers s t ∧
        (landsV s t o.d (vecAt (s.hostMem port) addr) ∨ landsV s t o.d 0)) ∧
      (inSpace → passesV (srcV s o.c) → ∃ t, exec (.vstHost o) s = .next t ∧ t.mem = s.mem ∧ t.loc = s.loc ∧ t.ctxs = s.ctxs ∧
        (storedIn (s.hostMem port) (t.hostMem port) addr 128 (srcV s o.c).1.toNat ∨ t.hostMem port = s.hostMem port))) ∧
    (∀ (a g : DevAt) (pa ga : Nat),
      let w := wordsOf (s.peek pa 64)
      let k := KvGeo.of a.va w (wordsOf (s.peek ga 64))
      let coord := (srcG s (pairSrc o.a)).toNat
      let part := coord / 2 ^ 48 % 4
      let n := min 128 (k.hd * k.es - 128 * part)
      let read := (s.count s.iss.cx .device 64).count s.iss.cx .device 64
      s.bad = [] → s.lostLinks = [] → s.mixtrap s.iss.cx = false →
      s.devCheck s.iss.cx ((srcG s o.a).toNat : Int) 64 true false false = .ok a → a.pa = some pa → descOk w = true →
      s.devCheck s.iss.cx (geomAddr w : Int) 64 true false false = .ok g → g.pa = some ga →
      geomOk (wordsOf (s.peek ga 64)) = true → coord / 2 ^ 40 % 256 < k.layers → coord / 2 ^ 32 % 256 < k.heads →
      (∀ va page s1, read.kvWalk s.iss.cx k (coord % 2 ^ 32 / 16) false = (.ok (va, page), s1) →
        let at_ := page + k.offset (coord / 2 ^ 40 % 256) (coord / 2 ^ 32 % 256) (coord % 16) (coord.testBit 50) false + 128 * part
        ((∀ i < n, s.sealTag (at_ + i) = 0) → ∃ t, exec (.vldKv o) s = .next t ∧
          landsV s t o.d (BitVec.ofNat 1024 (leValue (s.peek at_ n))) ∧ sameMemory s t) ∧
        ((∃ i < n, s.sealTag (at_ + i) ≠ 0) →
          exec (.vldKv o) s = .next (s1.raise (if o.tw = .first then 4 else 5) .sealed k.desc 0))) ∧
      (k.wr = true → passesV (srcV s o.c) → ∀ va page s1,
        read.kvWalk s.iss.cx k (coord % 2 ^ 32 / 16) true = (.ok (va, page), s1) →
        let at_ := page + k.offset (coord / 2 ^ 40 % 256) (coord / 2 ^ 32 % 256) (coord % 16) (coord.testBit 50) false + 128 * part
        let pins := leValue ((s1.peek page 8).take 2)
        ((∀ i < n, s.sealTag (at_ + i) = 0) → 1 < pins → exec (.vstKv o) s = .next (s1.raise (if o.tw = .first then 4 else 5) .kvShared va pins)) ∧
        (pins ≤ 1 → inLpddr at_ = true → inLpddr (at_ + n) = true → unowned s at_ n → Memory.wf s.mem = true →
          ∃ t, exec (.vstKv o) s = .next t ∧ storedIn s.mem t.mem at_ n (srcV s o.c).1.toNat ∧ sameButMem s t)))

namespace Sys2Proof.Claims

/-! ## Commands entering a queue (R183, R188, R238) -/

/-- A barrier of which `n` sectors more are expected, and no other byte of the scratchpads changed. -/
def expects (s t : State) (bar : Option Nat) (n : Nat) : Prop :=
  match bar with
  | none => t.loc = s.loc
  | some k => let w := Memory.num s.loc k 16
    ∃ w', storedIn s.loc t.loc k 16 w' ∧ barHas w' (phaseOf w) (arrOf w) ((secOf w + n) % 2 ^ 24) (errOf w) (initOf w) (tsOf w)
/-- One command has entered queue `q` of the strand's core, behind those before it, and nothing else moved. -/
def entersQueue (s t : State) (q : Nat) (bar : Option Nat) (sectors code promised : Nat) (ok : CmdKind → Prop) : Prop :=
  ∃ c : Cmd, t.cmds = s.cmds ++ [c] ∧ c.id = s.nextId ∧ c.cx = s.iss.cx ∧ c.queue = q ∧ ok c.kind ∧ c.barrier = bar ∧
    c.sectors = sectors ∧ c.code = code ∧ c.promised = promised ∧ c.started = false ∧ expects s t bar sectors ∧
    FMap.getD (t.ctx s.iss.cx).st.promises q 0 = promised ∧ t.mem = s.mem ∧ t.full = s.full ∧ t.locFull = s.locFull ∧
    sameOthers s t ∧ sameRegisters s.cur.st (t.ctx s.iss.cx).st
/-- The promise of a context's last command in a queue, the earliest promise of the next, and the promise of one that moves `n` bytes
after `setup` ticks. -/
def lastDue (s : State) (q : Nat) : Nat := FMap.getD s.cur.st.promises q 0
def promisedAt (s : State) (q setup n : Nat) : Nat :=
  max s.clock.toNat (lastDue s q) + if n = 0 then 0 else setup + (n + 63) / 64
/-- The promise goes to `%due` as the bundle ends, and to gD with latency 1. -/
def reports (s t : State) (d : Option Dst) (P : Nat) : Prop :=
  t.iss.hw = s.iss.hw ++ [.due (BitVec.ofNat 64 P)] ∧
  match d with
  | none => (t.ctx s.iss.cx).st.flight = s.cur.st.flight
  | some d => (t.ctx s.iss.cx).st.flight = s.cur.st.flight ++ [gEntry s d 1 (BitVec.ofNat 64 P) (res64 (BitVec.ofNat 64 P))]
/-- A barrier operand: none where it does not count, else a row of the crew's and a slot, without an error in its word. -/
def barOperand (s : State) (use : Bool) (row slot : Nat) (b : Option Nat) : Prop :=
  let k := padKey (s.iss.cx / 4) s.cur.rowBase row (16 * slot)
  if use then row < s.cur.rows ∧ b = some k ∧ padClean s k 16 else b = none
/-- The words of a record of `n` bytes that a strand may read, and its address. -/
def recordAt (s : State) (addr : Word) (n : Nat) (va : Nat) (w : List Nat) : Prop :=
  ∃ a pa, s.devCheck s.iss.cx (addr.toNat : Int) n true false false = .ok a ∧ a.pa = some pa ∧
    s.unreadable (dieOf s.iss.cx) pa n = false ∧ a.va = va ∧ w = wordsOf (s.peek pa n)
/-- A box of a tensor shape record moves: its checks pass, and its command enters the queue. -/
def movesBox (s t : State) (q : Nat) (store : Bool) (va : Nat) (w : List Nat) (base first : Nat) (bar : Option Nat)
    (d : Option Dst) : Prop :=
  let p := (s.tsrPlan va (Tsr.of w) store base first).2
  p.absent = none → ∃ P, P = promisedAt s q p.setup p.nbytes ∧
    entersQueue s t q bar p.sectors p.code P (fun k => k = .move p.zeros p.pieces false) ∧ reports s t d P
def boxPasses (s : State) (va : Nat) (w : List Nat) (store : Bool) (base first : Nat) : Prop :=
  firstCause (s.tsrPlan va (Tsr.of w) store base first).1 = none

end Sys2Proof.Claims

/-- R183, R236 to R243: `cp`, `cp.tsr` and `cp.go`, with checks that pass and pages that are resident, enter one command in their queue,
add its sectors to its barrier, and report the promise; a `cp` with an absent side enters a command that settles with XLAT and counts a
drop. The rows of a box are those in bounds, each at the address of R237. -/
def Sys2Proof.Claims.CopiesEnterTheirQueue : Prop :=
  (∀ (s : State) (o : OpCE), Pred.holds o.p s.cur.st.q = true → Memory.wf s.loc = true →
    passes s o.a → passes s o.b →
    (passes s o.c → ∀ b,
      let c := (srcG s o.c).toNat
      let n := c / 2 ^ 32
      let q := if o.m.getLsbD 8 then 1 else 0
      let src := s.cpSide (o.m.toNat / 32 % 8) (srcG s o.a) c n false
      let dst := s.cpSide (o.m.toNat / 4 % 8) (srcG s o.b) c n true
      let sectors := if n = 0 then 0 else ((srcG s o.b).toNat + n - 1) / 32 - (srcG s o.b).toNat / 32 + 1
      barOperand s (c.testBit 16) (c % 2 ^ 13) (c / 2 ^ 13 % 8) b → src.err = none → dst.err = none →
      (o.m.getLsbD 9 = true → (srcG s o.a).toNat % 8 = 0 ∧ (srcG s o.b).toNat % 8 = 0 ∧ n % 8 = 0) →
      (src.absent = none → dst.absent = none → ∃ t P, exec (.cp o) s = .next t ∧
        P = promisedAt s q (src.setup + dst.setup) n ∧
        entersQueue s t q b sectors 0 P (fun k => k = .move [] (cpPieces src dst n) (o.m.getLsbD 9)) ∧ reports s t (some o.d) P) ∧
      (∀ i, src.absent.or dst.absent = some i → ∃ t P, exec (.cp o) s = .next t ∧ P = promisedAt s q 0 0 ∧
        entersQueue s t q b sectors 5 P (fun k => k = .settle) ∧ reports s t (some o.d) P ∧
        (t.ctx s.iss.cx).runs = s.cur.runs.modify i fun r => { r with drops := min 65535 (r.drops + 1) })) ∧
    (passes s o.c → ∀ b va w,
      let c := (srcG s o.c).toNat
      recordAt s (srcG s o.a) 64 va w → barOperand s (c.testBit 32) (c / 2 ^ 16 % 2 ^ 13) (c / 2 ^ 29 % 8) b →
      boxPasses s va w (o.m.getLsbD 0) (srcG s o.b).toNat (c % 2 ^ 13) →
      ∃ t, exec (.cpTsr o) s = .next t ∧
        movesBox s t (if o.m.getLsbD 1 then 1 else 0) (o.m.getLsbD 0) va w (srcG s o.b).toNat (c % 2 ^ 13) b (some o.d)) ∧
    (∀ b va v ta w,
      let v0 := v.getD 0 0
      let store := v0.testBit 19
      let base := (v.getD 2 0 + (srcG s o.b).toNat) % 2 ^ 64
      let first := v0 / 2 ^ 32 % 2 ^ 13
      recordAt s (srcG s o.a) 32 va v → recordAt s (BitVec.ofNat 64 (v.getD 1 0)) 64 ta w →
      barOperand s (v0.testBit 61) (v0 / 2 ^ 48 % 2 ^ 13) (v0 / 2 ^ 45 % 8) b → boxPasses s ta w store base first →
      ∃ t, exec (.cpGo o) s = .next t ∧ movesBox s t (v0 / 2 ^ 16 % 2) store ta w base first b (some o.d))) ∧
  (∀ (t : Tsr) (base n2 : Nat) (r : BoxRow), r ∈ t.rows base n2 ↔
    ∃ lo n, 0 < n ∧ r.idx < t.b1 * n2 ∧ (∀ b : Nat, b < t.b0 → (0 ≤ t.o0 + b ∧ t.o0 + b < t.d0 ↔ lo ≤ b ∧ b < lo + n)) ∧ lo + n ≤ t.b0 ∧
      (let x1 := t.o1 + (r.idx % t.b1 : Nat)
       let x2 := t.o2 + (r.idx / t.b1 : Nat)
       0 ≤ x1 ∧ x1 < t.d1 ∧ 0 ≤ x2 ∧ x2 < t.d2 ∧
       r.addr = ((base : Int) + (t.o0 + lo) * (t.dty.width / 8 : Nat) + x1 * t.s1 + x2 * t.s2).toNat) ∧
      r.at_ = lo * (t.dty.width / 8) ∧ r.n = n * (t.dty.width / 8))

/-- R185, R186, R233, R237, R244, R247: `mdrain.cp`, `red.add`, `rot.clu` and `gath.kv` with checks that pass enter one command in
their queue; `cp.adv` raises `%stage` and releases the entries of the schedule at or below it. -/
def Sys2Proof.Claims.EngineCommandsEnterTheirQueue : Prop :=
  ∀ s : State, Memory.wf s.loc = true →
    (∀ (o : OpMC) b va w, Pred.holds o.p s.cur.st.q = true → passes s o.b → passes s o.c → recordAt s (srcG s o.b) 64 va w →
      let x := Tsr.of w
      let rows := x.rows (srcG s o.c).toNat 1
      x.valid = true → x.b0 ≤ 64 → x.b1 ≤ 64 → (o.add = true → x.dty ∈ [Ty.s32, .z32, .f, .bf]) → x.sp = 0 →
      barOperand s x.bar x.brow x.bslot b → rows ≠ [] →
      (∀ r ∈ rows, ∃ d : DevRange, s.devSpan true r.addr r.n = .ok d ∧ d.absent = none) →
      ∃ t P, exec (.mdrainCp o) s = .next t ∧ reports s t none P ∧
        entersQueue s t 3 b (sectorsOf (rows.map fun r => { src := .zero, dst := .dev r.addr, n := r.n })).length 0 P fun k =>
          ∃ (parts : List (List (Place × Nat) × List Byte)) (lost : List (Nat × Nat)), k = .drain parts x.dty o.add lost ∧
            (s.cur.st.accBad = [] → lost = []) ∧ parts.length = rows.length ∧
            ∀ (i : Nat) (r : BoxRow) (p : List (Place × Nat) × List Byte), rows[i]? = some r → parts[i]? = some p →
              p.2.length = r.n ∧ ∀ j < r.n / (x.dty.width / 8),
                leValue ((p.2.drop (j * (x.dty.width / 8))).take (x.dty.width / 8)) =
                  drainElem x.dty (FMap.getD s.cur.st.tileNow (tileKey o.t.toNat r.idx (r.at_ / (x.dty.width / 8) + j)) 0)
                    % 2 ^ x.dty.width) ∧
    (∀ (o : OpCE) b, Pred.holds o.p s.cur.st.q = true → passes s o.a → passes s o.b → passes s o.c →
      let a := (srcG s o.a).toNat
      let row := a % 2 ^ 13
      let line := (srcG s o.b).toNat / 128 % 2 ^ 49 * 128
      let flag := (srcG s o.c).toNat / 8 % 2 ^ 53 * 8
      let ty := Wf.tyOf (o.m.extractLsb' 8 4)
      let cnt := o.m.toNat % 256 + 1
      let key := padKey (s.iss.cx / 4) s.cur.rowBase row 0
      row < s.cur.rows → barOperand s (a.testBit 32) (a / 2 ^ 16 % 2 ^ 13) (a / 2 ^ 29 % 8) b →
      (a.testBit 42 = true → ∃ t, exec (.redAdd o) s = .next t ∧ entersQueue s t 4 b 4 0 (lastDue s 4) fun k =>
        k = .reduce ty key (.peer (a / 2 ^ 33 % 512) line) (if flag = 0 then none else some (.peer (a / 2 ^ 33 % 512) flag)) cnt) ∧
      (∀ l f pl pf, a.testBit 42 = false → s.devCheck s.iss.cx (line : Int) 128 false true false = .ok l → l.pa = some pl →
        flag ≠ 0 → s.devCheck s.iss.cx (flag : Int) 8 false true false = .ok f → f.pa = some pf →
        ∃ t, exec (.redAdd o) s = .next t ∧ entersQueue s t 4 b 4 0 (lastDue s 4) fun k =>
          k = .reduce ty key (.dev pl) (some (.dev pf)) cnt)) ∧
    (∀ (o : OpCE) b, Pred.holds o.p s.cur.st.q = true → passes s o.a → passes s o.c →
      let c := (srcG s o.c).toNat
      let n := (srcG s o.b).toNat % 2 ^ 14
      barOperand s true (c % 2 ^ 13) (c / 2 ^ 13 % 8) b →
      ∃ t, exec (.rotClu o) s = .next t ∧ (t.ctx s.iss.cx).st.rots = s.cur.st.rots + 1 ∧
        entersQueue s t 1 b (4 * n) 0 (lastDue s 1) fun k =>
          k = .rotate s.cur.st.rots ((srcG s o.a).toNat % 2 ^ 13) n (o.m.getLsbD 0)) ∧
    (∀ (o : OpCE) b kv ts s1, Pred.holds o.p s.cur.st.q = true → passes s o.a → passes s o.b → passes s o.c →
      let A := (srcG s o.a).toNat
      let B := (srcG s o.b).toNat
      let c := (srcG s o.c).toNat
      let N := B / 2 ^ 16 % 16 + 1
      let ty := Wf.tyOf (o.m.extractLsb' 8 4)
      let sk := o.m.getLsbD 7
      let k := KvBind.geo kv
      let pos := A % 2 ^ 32
      let rpt := (k.hd * ty.width + 1023) / 1024
      s.cur.st.kv = some kv → 0 < rpt → barOperand s (c.testBit 16) (c % 2 ^ 13) (c / 2 ^ 13 % 8) b →
      (pos + N - 1) / 16 - pos / 16 ≤ 1 → A / 2 ^ 40 % 256 < k.layers → A / 2 ^ 32 % 256 < k.heads →
      (sk = true → k.sk = true ∧ A.testBit 50 = false) →
      (∀ i < N * rpt, (B % 2 ^ 13 + i) % 8192 < s.cur.rows) →
      s.gatherTokens s.iss.cx k A s.cur.st.ctl.seqlen.toNat sk N pos = (.ok ts, s1) →
      ∃ t P, exec (.gathKv o) s = .next t ∧ reports s t (some o.d) P ∧
        entersQueue s t 2 b
          (if (ts.filter Option.isSome).length = 0 then 1 else (ts.filter Option.isSome).length * ((k.hd * ty.width + 255) / 256)) 0 P
          fun kd => ∃ efmt, kd = .gather (ts.zipIdx.map fun x =>
            (padKey (s.iss.cx / 4) s.cur.rowBase ((B % 2 ^ 13 + x.2 * rpt) % 8192) 0, x.1)) k.hd efmt sk ty) ∧
    (∀ o : OpNT, Pred.holds o.p s.cur.st.q = true →
      let stage := (s.cur.st.ctl.stage.toNat + 1) % 65536
      let at_ := s.schedBase + 32 * s.cur.st.schedNext
      ((s.cur.st.schedDone = true ∨ s.schedBase = 0) →
        exec (.cpAdv o) s = .next (updating s [.stage (BitVec.ofNat 16 stage)])) ∧
      (∀ v, s.cur.st.schedDone = false → s.schedBase ≠ 0 → recordAt s (BitVec.ofNat 64 at_) 32 at_ v → at_ < 2 ^ 64 →
        (stage < v.getD 0 0 % 65536 → exec (.cpAdv o) s = .next (updating s [.stage (BitVec.ofNat 16 stage)])) ∧
        (∀ b ta w, v.getD 0 0 % 65536 ≤ stage → (v.getD 0 0).testBit 18 = true →
          recordAt s (BitVec.ofNat 64 (v.getD 1 0 / 64 * 64)) 64 ta w → ta = v.getD 1 0 →
          barOperand s ((v.getD 0 0).testBit 61) (v.getD 0 0 / 2 ^ 48 % 2 ^ 13) (v.getD 0 0 / 2 ^ 45 % 8) b →
          boxPasses s ta w ((v.getD 0 0).testBit 19) (v.getD 2 0) (v.getD 0 0 / 2 ^ 32 % 2 ^ 13) →
          ∃ t, exec (.cpAdv o) s = .next t ∧ (t.ctx s.iss.cx).st.schedNext = s.cur.st.schedNext + 1 ∧
            (t.ctx s.iss.cx).st.schedDone = true ∧
            movesBox (updating s [.stage (BitVec.ofNat 16 stage)]) t (v.getD 0 0 / 2 ^ 16 % 2) ((v.getD 0 0).testBit 19) ta w (v.getD 2 0)
              (v.getD 0 0 / 2 ^ 32 % 2 ^ 13) b none)))

namespace Sys2Proof.Claims

/-! ## The sequencer and the prefix table (R248 to R261) -/

/-- The record of an operand lies on a page that was not resident at dispatch. -/
def recordAbsentAt (s : State) (addr : Word) (n : Nat) : Prop :=
  ∃ a, s.devCheck s.iss.cx (addr.toNat : Int) n true false false = .ok a ∧ a.pa = none
/-- The sequencer of the strand's core, and a change to it alone. -/
def seqOf (s : State) : Lns := (FMap.getD s.cores (s.iss.cx / 4) {}).lns
def seqBecomes (s t : State) (n : Lns) : Prop :=
  t.cores = FMap.put s.cores (s.iss.cx / 4) { FMap.getD s.cores (s.iss.cx / 4) {} with lns := n }
/-- The strand may load the sequencer (status 1 otherwise): it is idle, and the strand's own, or no one's and not promised to a resumed
crew that is still to be bound (R290). -/
def mayLoad (s : State) : Prop := (seqOf s).mode = .idle ∧
  ((seqOf s).owner = some s.iss.cx ∨ ((seqOf s).owner = none ∧ s.lnsTaken [] (s.iss.cx / 4) = false))
/-- A template record (Table 09-10). -/
def templateOf (w : List Nat) : Tmpl :=
  let g (i : Nat) : Nat := w.getD i 0
  { mw := g 0 % 2 ^ 48, v0w := g 0 / 2 ^ 48 + g 1 % 2 ^ 32 * 2 ^ 16, v1w := g 1 / 2 ^ 32 + g 2 % 2 ^ 16 * 2 ^ 32
    en := g 2 / 2 ^ 16 % 256, gty := g 2 / 2 ^ 24 % 256, grow := g 2 / 2 ^ 32, gcoord := g 3 }
/-- The trip count of a level (R250). -/
def tripOf (len : Nat) (l : Nat × Nat) : Nat :=
  if l.1.testBit 63 then (len + 15) / 16 else if l.1 % 2 ^ 32 = 0 then 1 else l.1 % 2 ^ 32
/-- A tuple of counters as one number, CNT5 fastest. -/
def tupleValue (cnt trips : List Nat) : Nat := (List.zip cnt trips).foldl (fun v p => v * p.2 + p.1) 0
def tupleCount (trips : List Nat) : Nat := trips.foldl (fun v t => v * t) 1
/-- A run that starts with a pair copy, or ends at once. -/
def startsRun (n : Lns) (pair : Nat × Nat) (trips : List Nat) : Lns :=
  if 0 ∈ trips then { n with cnt := [0, 0, 0, 0, 0, 0], mode := .idle, owner := none }
  else { n with mode := .running, cnt := [0, 0, 0, 0, 0, 0], trips := trips, slot := n.order.headD 0, pair := pair }

/-- The die of the strand, its entries of the prefix table, and one that its address space sees. -/
def dieHere (s : State) : Nat := s.iss.cx / 1024
def entryAt (s : State) (i : Nat) : PfxEntry := FMap.getD (FMap.getD s.dies (dieHere s) {}).pfx i {}
def visible (s : State) (i : Nat) : Prop := (entryAt s i).valid = true ∧ (entryAt s i).asn = s.asnOf s.iss.cx
/-- The table as it was, but for the stamps of use. -/
def sameTable (s t : State) : Prop :=
  ∀ i, (entryAt t i).valid = (entryAt s i).valid ∧ (entryAt t i).asn = (entryAt s i).asn ∧ (entryAt t i).hash = (entryAt s i).hash ∧
    (entryAt t i).page = (entryAt s i).page ∧ (entryAt t i).tok = (entryAt s i).tok
/-- The bytes of an operand in `count` pieces of `n` bytes that the strand may read (R261). -/
def operandAt (s : State) (va n count : Nat) (bs : List Byte) : Prop :=
  bs.length = n * count ∧ ∀ i < count, ∃ a pa,
    ({ s with mix := [] } : State).devCheck s.iss.cx ((va + n * i : Nat) : Int) n true false false = .ok a ∧
    a.pa = some pa ∧ s.unreadable (dieOf s.iss.cx) pa n = false ∧ (bs.drop (n * i)).take n = s.peek pa n
/-- The pin count at a page's physical address. -/
def pinsAt (s : State) (pa : Nat) : Nat := Memory.num s.mem pa 2

end Sys2Proof.Claims

/-- R246, R408: `kv.bind` binds a valid descriptor and its geometry and answers 0; it answers 1 for an invalid one and 2 for one that is
not resident, and binds nothing. -/
def Sys2Proof.Claims.KvBinding : Prop :=
  ∀ (s : State) (o : OpCE), Pred.holds o.p s.cur.st.q = true → passes s o.a →
    (∀ va w ga g, recordAt s (srcG s o.a) 64 va w → descOk w = true → recordAt s (BitVec.ofNat 64 (geomAddr w)) 64 ga g →
      (geomOk g = true → ∃ t p res tick, exec (.kvBind o) s = .next t ∧ sameMemory s t ∧ sameOthers s t ∧
        (t.ctx s.iss.cx).st = { s.cur.st with
          kv := some { desc := va, w := w.map (BitVec.ofNat 64), geom := g.map (BitVec.ofNat 64) }
          pend := s.cur.st.pend ++ [p] } ∧
        p.kind = .value 0 res tick ∧ s.clock.toNat < tick) ∧
      (geomOk g = false → ∃ t, exec (.kvBind o) s = .next t ∧ landsG s t o.d 1 ∧ sameMemory s t)) ∧
    (∀ va w, recordAt s (srcG s o.a) 64 va w → descOk w = false →
      ∃ t, exec (.kvBind o) s = .next t ∧ landsG s t o.d 1 ∧ sameMemory s t) ∧
    (recordAbsentAt s (srcG s o.a) 64 →
      ∃ t, exec (.kvBind o) s = .next t ∧ landsG s t o.d 2 ∧ sameMemory s t ∧
        (t.ctx s.iss.cx).runs ≠ [] ∧ t.iss.hw = s.iss.hw ++ [.resFlag])

/-- R248, R249, R250, R253: `lns.tmpl` and `lns.lvl` load a record into an idle sequencer that no other context owns, with the statuses
of Table 09-12; `lns.run` starts the run with its trip counts; `lns.resume` continues a stopped run of its context, or one from a record
in the sequencer that its context owns (that one without an owner answers 4 is the model's choice, assumption 74; Table 09-12 orders no
statuses, and that 1 stands for a level that cannot be loaded and 4 for a tuple outside its trips is assumption 53); `lns.abort` frees
the sequencer of its owner. -/
def Sys2Proof.Claims.SequencerInstructions : Prop :=
  ∀ s : State,
    (∀ (o : OpLR) va w, Pred.holds o.p s.cur.st.q = true → passes s o.a → recordAt s (srcG s o.a) 32 va w →
      let n := seqOf s
      let i := (srcG s o.b).toNat % 4
      let others := ((List.range 4).filter fun j => j ≠ i).filterMap fun j => (n.template j).pair
      let status (v : Word) (m : Lns) : Prop :=
        ∃ t, exec (.lnsTmpl o) s = .next t ∧ landsG s t o.d v ∧ (if v = 0 then seqBecomes s t m else t.cores = s.cores) ∧ sameMemory s t
      (¬ mayLoad s → status 1 n) ∧
      (mayLoad s → Tmpl.ok (templateOf w) s.cur.tiles others = true →
        status 0 { n with tmpl := FMap.put n.tmpl i (templateOf w), owner := some s.iss.cx }) ∧
      (mayLoad s → Tmpl.ok (templateOf w) s.cur.tiles others = false → status 3 n)) ∧
    (∀ o : OpLR, Pred.holds o.p s.cur.st.q = true → passes s o.a →
      let n := seqOf s
      let i := (srcG s o.b).toNat % 16
      let status (v : Word) (m : Lns) : Prop :=
        ∃ t, exec (.lnsLvl o) s = .next t ∧ landsG s t o.d v ∧ (if v = 0 then seqBecomes s t m else t.cores = s.cores) ∧ sameMemory s t
      (i = 8 → mayLoad s → status 0 { n with rra := (srcG s o.a).toNat, owner := some s.iss.cx }) ∧
      (6 ≤ i → i ≠ 8 → mayLoad s → status 2 n) ∧ (6 ≤ i → ¬ mayLoad s → status 1 n) ∧
      (i < 6 → ∀ va w, recordAt s (srcG s o.a) 16 va w →
        let zero := w.getD 0 0 / 2 ^ 53 % 2 ^ 10 = 0 ∧ w.getD 1 0 / 2 ^ 45 % 2 ^ 19 = 0
        (¬ mayLoad s → status 1 n) ∧
        (mayLoad s → zero → status 0 { n with lvl := FMap.put n.lvl i (w.getD 0 0, w.getD 1 0), owner := some s.iss.cx }) ∧
        (mayLoad s → ¬ zero → status 3 n))) ∧
    (∀ o : OpLR, Pred.holds o.p s.cur.st.q = true → passes s o.a → recordAbsentAt s (srcG s o.a) 32 →
      ∃ t, exec (.lnsTmpl o) s = .next t ∧ landsG s t o.d 5 ∧ t.cores = s.cores ∧ t.iss.hw = s.iss.hw ++ [.resFlag]) ∧
    (∀ o : OpN, Pred.holds o.p s.cur.st.q = true →
      let n := seqOf s
      let trips := (List.range 6).map fun l => tripOf s.cur.st.ctl.seqlen.toNat (FMap.getD n.lvl l (0, 0))
      ((n.owner ≠ some s.iss.cx ∨ n.mode ≠ .idle ∨ n.order = []) → exec (.lnsRun o) s = .next s) ∧
      (n.owner = some s.iss.cx → n.mode = .idle → n.order ≠ [] →
        (n.pairReg = none → ∃ t, exec (.lnsRun o) s = .next t ∧ seqBecomes s t (startsRun n (0, 0) trips) ∧ t.ctxs = s.ctxs ∧
          sameMemory s t) ∧
        (∀ r, n.pairReg = some r → r < 31 → let a : Src := .reg (BitVec.ofNat 5 r)
          pairPasses s a → ∃ t, exec (.lnsRun o) s = .next t ∧ t.ctxs = s.ctxs ∧ sameMemory s t ∧
            seqBecomes s t (startsRun n ((srcG s a).toNat, (srcG s (pairSrc a)).toNat) trips))) ∧
      (n.owner = some s.iss.cx → ∃ t, exec (.lnsAbort o) s = .next t ∧ seqBecomes s t { n with mode := .idle, owner := none } ∧
        t.ctxs = s.ctxs ∧ sameMemory s t) ∧
      (n.owner ≠ some s.iss.cx → exec (.lnsAbort o) s = .next s)) ∧
    (∀ o : OpLR, Pred.holds o.p s.cur.st.q = true →
      let n := seqOf s
      let status (v : Word) (ok : State → Prop) : Prop := ∃ t, exec (.lnsResume o) s = .next t ∧ landsG s t o.d v ∧ ok t ∧ sameMemory s t
      (srcG s o.a = 0 →
        (n.mode = .stopped → n.owner = some s.iss.cx → status 0 fun t => seqBecomes s t { n with mode := .running }) ∧
        (n.mode = .stopped → n.owner ≠ some s.iss.cx → status 1 fun t => t.cores = s.cores) ∧
        (n.mode ≠ .stopped → status 4 fun t => t.cores = s.cores)) ∧
      (∀ va w, srcG s o.a ≠ 0 → passes s o.a → recordAt s (srcG s o.a) 64 va w →
        let cnt := (List.range 6).map fun i => w.getD (i / 2) 0 / 2 ^ (32 * (i % 2)) % 2 ^ 32
        let slot := w.getD 3 0 % 256
        let trips := (List.range 6).map fun l => tripOf s.cur.st.ctl.seqlen.toNat (FMap.getD n.lvl l (0, 0))
        let mine := n.mode ≠ .running ∧ n.owner = some s.iss.cx
        (n.mode = .running ∨ (n.owner ≠ none ∧ n.owner ≠ some s.iss.cx) → status 1 fun t => t.cores = s.cores) ∧
        (n.mode ≠ .running → n.owner = none → status 4 fun t => t.cores = s.cores) ∧
        (mine → slot ∉ n.order → status 4 fun _ => True) ∧
        (mine → slot ∈ n.order → (∀ i < 6, cnt.getD i 0 < trips.getD i 0) → status 0 fun t =>
          seqBecomes s t { n with mode := .running, owner := some s.iss.cx, cnt := cnt, trips := trips, slot := slot
                                  pair := (w.getD 4 0, w.getD 5 0) })))

/-- R250, R251: the order in which templates issue: the next enabled slot, then the next tuple with CNT5 fastest, and IDLE without an
owner after the last; a template of a running sequencer that has nothing but a `mzero` enters it in its owner's in-flight table, counted
in core cycles, and moves on. -/
def Sys2Proof.Claims.SequencerOrder : Prop :=
  (∀ n : Lns, n.cnt.length = 6 → n.trips.length = 6 → (∀ i < 6, n.cnt.getD i 0 < n.trips.getD i 0) →
    (∀ i, i ∈ n.order → n.slot < i → (∀ j ∈ n.order, n.slot < j → i ≤ j) → n.advance = { n with slot := i }) ∧
    ((∀ j ∈ n.order, j ≤ n.slot) →
      (tupleValue n.cnt n.trips + 1 = tupleCount n.trips → n.advance.mode = .idle ∧ n.advance.owner = none) ∧
      (tupleValue n.cnt n.trips + 1 < tupleCount n.trips → ∃ c, n.advance = { n with cnt := c, slot := n.order.headD 0 } ∧
        c.length = 6 ∧ (∀ i < 6, c.getD i 0 < n.trips.getD i 0) ∧ tupleValue c n.trips = tupleValue n.cnt n.trips + 1))) ∧
  (∀ (s : State) (core cx : Nat) (o : OpMT),
    let n := (FMap.getD s.cores core {}).lns
    let c := FMap.getD s.ctxs cx {}
    n.mode = .running → n.owner = some cx → c.st.mode ≠ .frozen → c.st.mode ≠ .ended → c.dormant = false → c.dawnHeld = false →
    c.freeze = false → (∀ e ∈ c.st.flight, e.coreCount = true → e.lands = none) →
    (n.template n.slot).en = 1 → (n.template n.slot).m = some (.mzero o) → Pred.holds o.p c.st.q = true → c.st.flight.length < 32 →
    ∃ t e, exec (.lnsTemplateIssue core) s = .next t ∧ (t.ctx cx).st.flight = c.st.flight ++ [e] ∧ e.op = .mzero o.t.toNat ∧
      e.left = 4 ∧ e.coreCount = true ∧ (FMap.getD t.cores core {}).lns = n.advance ∧ sameMemory s t ∧ t.iss = s.iss ∧
      ∀ x, x ≠ cx → t.ctx x = s.ctx x)

/-- R255 to R261: the prefix table's instructions answer when they land. `pfx.hash` hashes the parent and the block; `pfx.look` counts
the leading hashes that visible entries match; `pfx.cmp` compares the block's bytes; `pfx.ins` answers a hit, a full pin count, the
lowest free entry, a victim, or 2^64 − 1; `pfx.pin` and `pfx.unpin` change the pin count by one or refuse. -/
def Sys2Proof.Claims.PrefixTable : Prop :=
  ∀ (s : State) (o : OpCP), Pred.holds o.p s.cur.st.q = true →
    let asn := s.asnOf s.iss.cx
    let die := dieHere s
    let i := (srcG s o.a).toNat % 64
    let answers (j : Instr) (v : Nat) (ok : State → Prop) : Prop :=
      ∃ t, exec j s = .next t ∧ landsG s t o.d (BitVec.ofNat 64 v) ∧ ok t ∧ sameOthers s t
    let still (t : State) : Prop := sameMemory s t ∧ sameTable s t
    (∀ bs, passes s o.b → operandAt s (srcG s o.b).toNat 64 1 bs →
      answers (.pfxHash o) (shake256First (leBytes 8 (srcG s o.a).toNat ++ bs)).toNat still ∧
      (¬ visible s i → answers (.pfxCmp o) (2 ^ 64 - 1) still) ∧
      (∀ p s1, visible s i → s.pfxAddr die asn ((entryAt s i).tok / 64 * 64) false = (p, s1) →
        answers (.pfxCmp o) (match p with
          | none => 2 ^ 64 - 4
          | some pa => if s.peek pa 64 = bs then 1 else 0) still)) ∧
    (∀ bs, passes s o.a → operandAt s (srcG s o.a).toNat 8 (min (srcG s o.b).toNat 64) bs →
      let hash (j : Nat) : Word := BitVec.ofNat 64 (leValue ((bs.drop (8 * j)).take 8))
      let hit (j e : Nat) : Prop := e < 64 ∧ visible s e ∧ (entryAt s e).hash = hash j
      ∃ k e, answers (.pfxLook o) (k + 256 * e) still ∧ k ≤ min (srcG s o.b).toNat 64 ∧ (∀ j < k, ∃ x, hit j x) ∧
        (k < min (srcG s o.b).toNat 64 → ∀ x, ¬ hit k x) ∧ (if k = 0 then e = 0 else hit (k - 1) e)) ∧
    (∀ pa ta s1 s2, passes s o.b → passes s o.c → s.pfxAddr die asn (srcG s o.b).toNat true = (some pa, s1) →
      s1.pfxAddr die asn ((srcG s o.c).toNat / 64 * 64) false = (some ta, s2) →
      let h := srcG s o.a
      let held := ∃ e < 64, visible s e ∧ (entryAt s e).hash = h
      let entered (e : Nat) (t : State) : Prop :=
        (entryAt t e).valid = true ∧ (entryAt t e).asn = asn ∧ (entryAt t e).hash = h ∧ (entryAt t e).page = (srcG s o.b).toNat ∧
        (entryAt t e).tok = (srcG s o.c).toNat ∧
        ∀ j, j ≠ e → (entryAt t j).valid = (entryAt s j).valid ∧ (entryAt t j).hash = (entryAt s j).hash
      (held → ∃ e < 64, visible s e ∧ (entryAt s e).hash = h ∧ answers (.pfxIns o) (2 ^ 63 + e) still) ∧
      (¬ held → inTags pa = false → pinsAt s pa = 65535 → answers (.pfxIns o) (2 ^ 64 - 2) still) ∧
      (¬ held → inLpddr pa = true → pinsAt s pa < 65535 → unowned s pa 8 → memClean s pa 8 → Memory.wf s.mem = true →
        (∀ e < 64, (entryAt s e).valid = false → (∀ j < e, (entryAt s j).valid = true) →
          answers (.pfxIns o) e fun t => entered e t ∧ storedIn s.mem t.mem pa 8 (pinsAt s pa + 1)) ∧
        ((∀ e < 64, (entryAt s e).valid = true) → ∀ v s3, s2.pfxVictim die asn = (v, s3) →
          match v with
          | none => answers (.pfxIns o) (2 ^ 64 - 1) still
          | some (e, _) => answers (.pfxIns o) e (entered e)))) ∧
    (¬ visible s i → answers (.pfxPin o) (2 ^ 64 - 1) still ∧ answers (.pfxUnpin o) (2 ^ 64 - 1) still) ∧
    (∀ s1, visible s i → s.pfxAddr die asn (entryAt s i).page true = (none, s1) →
      answers (.pfxPin o) (2 ^ 64 - 4) still ∧ answers (.pfxUnpin o) (2 ^ 64 - 4) still) ∧
    (∀ pa s1, visible s i → s.pfxAddr die asn (entryAt s i).page true = (some pa, s1) → inLpddr pa = true → unowned s pa 8 →
      memClean s pa 8 → Memory.wf s.mem = true →
      let n := pinsAt s pa
      (n = 65535 → answers (.pfxPin o) (2 ^ 64 - 2) still) ∧
      (n < 65535 → answers (.pfxPin o) (n + 1) fun t => sameTable s t ∧ storedIn s.mem t.mem pa 8 (n + 1)) ∧
      (n ≤ 1 → answers (.pfxUnpin o) (2 ^ 64 - 2) still) ∧
      (1 < n → answers (.pfxUnpin o) (n - 1) fun t => sameTable s t ∧ storedIn s.mem t.mem pa 8 (n - 1)))

namespace Sys2Proof.Claims

/-! ## Waits, traps between bundles, and results as they land (R91, R100 to R107, R154, R201, R234, R252, R266 to R274) -/

/-- A context at which a trap may be taken: it holds a strand that runs or waits, owes no empty cycle, and neither freezes nor is
dormant, nor held after a power loss. -/
def mayTrap (s : State) (cx : Nat) : Prop :=
  let c := s.ctx cx
  c.task ≠ none ∧ c.st.owed = 0 ∧ (c.st.mode = .run ∨ c.st.mode = .wait) ∧ c.freeze = false ∧ c.dormant = false ∧
    c.dawnHeld = false
/-- A context that takes the fault of its template: at a bundle boundary, out of a hold whose access has not been performed, as its sleep
ends, or as it waits for lock-step (R252, R346). -/
def mayLearn (s : State) (cx : Nat) : Prop :=
  let c := s.ctx cx
  mayTrap s cx ∨ c.task ≠ none ∧ c.freeze = false ∧ c.dormant = false ∧ c.dawnHeld = false ∧
    ((c.st.mode = .hold ∧ (c.hold.bind Hold.got) = none) ∨ c.st.mode = .fuseWait ∨ ∃ n check, c.st.mode = .sleep n check ∧ n ≤ s.clock.toNat)
/-- The fault registers of a strand (Table 04-4); `%fbundle` names the bundle at `pc`. -/
def faultRegisters (c : Ctl) (code slot addr data : Nat) (pc : BitVec 56) : Prop :=
  c.fcause.toNat % 2 ^ 16 = slot * 2 ^ 12 + code ∧ c.faddr.toNat = addr ∧ c.fdata.toNat = data ∧ c.fbundle = pc
/-- Trap entry of a context (R107). -/
def entersHandler (s t : State) (cx code slot addr data : Nat) : Prop :=
  let c := s.ctx cx
  let d := t.ctx cx
  sameMemory s t ∧ (∀ x, x ≠ cx → t.ctx x = s.ctx x) ∧ sameRegisters c.st d.st ∧
  faultRegisters d.st.ctl code slot addr data c.st.pc ∧ d.st.ctl.intrap = true ∧ d.st.ctl.fused = false ∧
  d.st.pc.toNat = c.st.ctl.tvec.toNat / 2 * 2 ∧ d.st.mode = .run ∧ d.x = [] ∧ d.hold = none ∧ d.fetchBuf = []
/-- A fault that goes to the supervisor (R105): the strand stops at its bundle, and its crew is told to freeze. -/
def stopsStrand (s t : State) (cx code slot addr data : Nat) : Prop :=
  let c := s.ctx cx
  let d := t.ctx cx
  sameMemory s t ∧ sameRegisters c.st d.st ∧ faultRegisters d.st.ctl code slot addr data c.st.pc ∧
  d.st.ctl.intrap = c.st.ctl.intrap ∧ d.st.pc = c.st.pc ∧ d.st.mode = .frozen ∧
  ∀ k, c.task = some k → d.freeze = true ∧ ∀ x, (s.ctx x).task = some k → (t.ctx x).freeze = true
/-- A fault marked "Own" in Table 04-9: the handler where it may be entered, else the supervisor. -/
def trapsOwn (s t : State) (cx code slot addr data : Nat) : Prop :=
  let c := (s.ctx cx).st.ctl
  (c.tvec.getLsbD 0 = true ∧ c.intrap = false → entersHandler s t cx code slot addr data) ∧
  (c.tvec.getLsbD 0 = false ∨ c.intrap = true → stopsStrand s t cx code slot addr data)
/-- `s` with the gating of a core ended, if it was gated: its first bundle issues two cycles of the core later (R274). -/
def ungated (s : State) (core : Nat) : State :=
  let k := FMap.getD s.cores core {}
  if k.gated then { s with cores := FMap.put s.cores core { k with gated := false, wakeIn := 2 } } else s
/-- `s` with a context that runs again, its core not gated, and no other change. -/
def runsAgain (s : State) (cx : Nat) : State :=
  { ungated s (cx / 4) with ctxs := FMap.put s.ctxs cx { s.ctx cx with st := { (s.ctx cx).st with mode := .run } } }
/-- The alarm of a context has been reached (R91). -/
def alarmDue (s : State) (cx : Nat) : Prop :=
  (s.ctx cx).st.ctl.alarm ≠ 0 ∧ (s.ctx cx).st.ctl.alarm.toNat ≤ s.clock.toNat

/-- The first run of a context that holds an address. -/
def runAt (s : State) (cx a : Nat) (r : Run) : Prop := (s.ctx cx).runs.find? (fun r => r.va ≤ a ∧ a < r.va + r.size) = some r
/-- A code byte that can be fetched (R104). -/
def fetchable (s : State) (cx a : Nat) : Prop :=
  ∃ r, runAt s cx a r ∧ r.resident = true ∧ r.x = true ∧ r.isSealed = false ∧ s.sealTag (r.pa + (a - r.va)) = 0 ∧ r.co = false ∧
    s.unreadable (dieOf cx) (r.pa + (a - r.va)) 1 = false
/-- The cause of a code byte that cannot be fetched: FETCH_NR where it lies in a run that was not resident at dispatch, whether or not its
extent lacks x besides, which R104 does not say (the model's choice, assumption 51). -/
def fetchCode (s : State) (cx a code : Nat) : Prop :=
  ((∃ r, runAt s cx a r ∧ r.resident = false) → code = 4) ∧ ((∀ r, runAt s cx a r → r.resident = true) → code = 5)
/-- The fetch buffer holds these bytes. -/
def buffered (c : Ctx) (a n : Nat) : Prop := c.fetchBase ≤ a ∧ a + n ≤ c.fetchBase + c.fetchBuf.length
/-- The header in the fetch buffer at PC, as a number, and the length it gives (R95, R100). -/
def headerAt (c : Ctx) : Nat := leValue ((c.fetchBuf.drop (c.st.pc.toNat - c.fetchBase)).take 4)

/-- The last value that some entries give. -/
def lastOf {α : Type} (es : List Flight) (f : Flight → Option α) : Option α := (es.filterMap f).getLast?
/-- An entry whose readable cycle has come, and whose data, if it is promised, has landed. -/
def readable (s : State) (e : Flight) : Bool := e.left == 0 && (e.lands.map fun t => decide (t ≤ s.clock.toNat)).getD true
/-- A result that is due is not overtaken by an interlocked one of a later issue that has landed in its register in the same cycle (R87). -/
def prevails (c : Ctx) (e : Flight) (r : RegName) : Bool := !c.landRegs.any fun l => l.1 == r && decide (e.ord ≤ l.2)
def writesG (c : Ctx) (n : Nat) (e : Flight) : Option GVal := match e.op with
  | .g m v => if m = n ∧ prevails c e (.g m) = true then some v else none
  | _ => none
def writesV (c : Ctx) (n : Nat) (e : Flight) : Option VVal := match e.op with
  | .v m v => if m = n ∧ prevails c e (.v m) = true then some v else none
  | _ => none
def writesK (c : Ctx) (n : Nat) (e : Flight) : Option (BitVec 256) := match e.op with
  | .k m v => if m = n ∧ prevails c e (.k m) = true then some v else none
  | _ => none
def writesX (c : Ctx) (n : Nat) (e : Flight) : Option Latch :=
  e.latch.bind fun l => if l.1 = n ∧ (!c.landLatches.any fun m => m.1 == n && decide (e.ord ≤ m.2)) = true then some l.2 else none
/-- Two entries change the same tile, or the shadow buffer. -/
def sameTarget (e d : Flight) : Bool := e.op.target.isSome && e.op.target == d.op.target
/-- The entries that leave a table: those that are due, and those issued before one of them that change the same tile or buffer. -/
def leaving (due : Flight → Bool) : List Flight → List Flight
  | [] => []
  | e :: es => if due e || es.any (fun d => due d && sameTarget e d) then e :: leaving due es else leaving due es
def staying (due : Flight → Bool) : List Flight → List Flight
  | [] => []
  | e :: es => if due e || es.any (fun d => due d && sameTarget e d) then staying due es else e :: staying due es

end Sys2Proof.Claims

/-- R91, R105, R107, R154, R234, R252, R274: a due TIMER makes a waiting context run and is taken at its bundle boundary with `%alarm`
cleared, but stays pending in a handler; a known-answer mismatch and a template's fault are taken at the boundary; a sleep ends at its
tick, with MISSED_PROMISE where a copy promised by then has not landed; R104: a bundle with a byte that cannot be fetched faults. A byte
that is absent and not executable besides is FETCH_NR by the model's choice (assumption 51). -/
def Sys2Proof.Claims.TrapsBetweenBundles : Prop :=
  ∀ (s : State) (cx : Nat),
    let c := s.ctx cx
    (c.st.mode = .wait → alarmDue s cx → exec (.timerPending cx) s = .next (runsAgain s cx)) ∧
    (mayTrap s cx → alarmDue s cx → c.st.ctl.intrap = false →
      ∃ t, exec (.timer cx) s = .next t ∧ trapsOwn s t cx 0x16 7 0 s.clock.toNat ∧ (t.ctx cx).st.ctl.alarm = 0) ∧
    (c.st.ctl.intrap = true ∨ ¬ alarmDue s cx ∨ ¬ mayTrap s cx → exec (.timer cx) s = .next s) ∧
    (∀ chk, c.st.kat = some chk → mayTrap s cx →
      ∃ t, exec (.katMismatch cx) s = .next t ∧ trapsOwn s t cx 0x11 3 0 chk.toNat ∧ (t.ctx cx).st.kat = none) ∧
    (∀ f, c.st.lnsFault = some f → mayLearn s cx → f.slot < 16 → f.addr < 2 ^ 64 → f.data < 2 ^ 64 →
      f.cause ∉ [Cause.feRetry, .missedPromise, .katMismatch, .brk, .timer] →
      ∃ t, exec (.lnsFaultTaken cx) s = .next t ∧ stopsStrand s t cx f.cause.code f.slot f.addr f.data ∧
        (t.ctx cx).st.lnsFault = none) ∧
    (∀ t0 check, c.st.mode = .sleep t0 check → c.freeze = false → c.dormant = false →
      let missed := check = true ∧ ∃ k ∈ s.cmds, k.cx = cx ∧ k.isCopy = true ∧ k.promised ≤ t0
      (s.clock.toNat < t0 → exec (.sleepWake cx) s = .next s) ∧
      (t0 ≤ s.clock.toNat → ¬ missed → exec (.sleepWake cx) s = .next (runsAgain s cx)) ∧
      (t0 ≤ s.clock.toNat → missed → ∃ t, exec (.sleepWake cx) s = .next t ∧ trapsOwn s t cx 0x0C 6 0 t0)) ∧
    (mayTrap s cx → ∀ a code, fetchCode s cx a code → ¬ fetchable s cx a → a < 2 ^ 64 →
      let pc := c.st.pc.toNat
      let n := (Header.ofWord (BitVec.ofNat 32 (headerAt c))).length
      (pc ≤ a → a < pc + 4 → (∀ b, pc ≤ b → b < a → fetchable s cx b) →
        ∃ t, exec (.fetchFault cx) s = .next t ∧ stopsStrand s t cx code 7 a 0 ∧ (t.ctx cx).st.ctl.fcause.toNat / 2 ^ 16 = 0) ∧
      (buffered c pc 4 → pc + 4 ≤ a → a < pc + n → (∀ b, pc ≤ b → b < a → fetchable s cx b) →
        ∃ t, exec (.fetchFault cx) s = .next t ∧ stopsStrand s t cx code 7 a 0 ∧ (t.ctx cx).st.ctl.fcause.toNat / 2 ^ 16 = n % 64))

/-- R100, R102: a wait whose test is satisfied changes nothing but the fold of its bundle, and one whose test is not is marked
unsatisfied: mode 0 by the flag, mode 1 by its complement, mode 2 by the flag or DUE. A bundle of empty cycles leaves its fold and its
stop. A waiting context whose flags have changed runs again when DUE rises. -/
def Sys2Proof.Claims.WaitsAndEmptyBundles : Prop :=
  ∀ (s : State) (fold flag : BitVec 6),
    let b (n : Nat) : Bool := (s.flagsOf s.iss.cx).getLsbD n
    let after (ok : Bool) : State :=
      { s with iss := { s.iss with fold := fold.toNat, unsatisfied := if ok then s.iss.unsatisfied else true } }
    exec (.waitSet fold flag) s = .next (after (b flag.toNat)) ∧
    exec (.waitClr fold flag) s = .next (after (!b flag.toNat)) ∧
    exec (.waitDue fold flag) s = .next (after (b flag.toNat || b 38)) ∧
    (∀ stop, exec (.emptyBundle fold stop) s = .next { s with iss := { s.iss with fold := fold.toNat, stop := stop } }) ∧
    ∀ cx, (s.flagsOf cx).getLsbD 38 = true → (s.ctx cx).waitFlags.getLsbD 38 = false → (s.ctx cx).st.mode = .wait →
      (s.ctx cx).freeze = false → exec (.flagsDueRise cx) s = .next (runsAgain s cx)

/-- R85, R87, R267: the results of a context that are due leave the in-flight table and are written; of several for one register or
latch the last issued stays, an interlocked one that has landed in the cycle among them; every other register, latch and context is as it
was. Updates of one tile, or of the shadow buffer, leave in the order of their issue (R235; that an earlier one leaves with a later one is
the model's choice, assumption 73). -/
def Sys2Proof.Claims.DueResultsAreWritten : Prop :=
  ∀ (s : State) (cx : Nat),
    let c := s.ctx cx
    let es := leaving (readable s) c.st.flight
    ∃ t, exec (.resultReadable cx) s = .next t ∧ sameMemory s t ∧ (∀ x, x ≠ cx → t.ctx x = s.ctx x) ∧
      let d := t.ctx cx
      d.st.flight = staying (readable s) c.st.flight ∧
      (∀ n, n ≠ 0 → d.st.getG n = (lastOf es (writesG c n)).getD (c.st.getG n)) ∧ d.st.getG 0 = {} ∧
      (∀ n, d.st.getV n = (lastOf es (writesV c n)).getD (c.st.getV n)) ∧
      (∀ n, n ≠ 0 → d.st.getK n = (lastOf es (writesK c n)).getD (c.st.getK n)) ∧ d.st.getK 0 = BitVec.allOnes 256 ∧
      (∀ n, FMap.getD d.x n {} = (lastOf es (writesX c n)).getD (FMap.getD c.x n {})) ∧
      d.st.pc = c.st.pc ∧ d.st.spill = c.st.spill ∧ d.st.pend = c.st.pend ∧ d.st.b = c.st.b ∧ d.st.mode = c.st.mode

/-- R134, R234, R269, R270: a load whose promised cycle has come without its data is counted once, with MISS; the data lands by time; a
known-answer compare ends with KAT, a count, and a pending trap where the job asks for one; the divider's last cycle frees it. -/
def Sys2Proof.Claims.PromisesAndCompares : Prop :=
  ∀ (s : State) (cx : Nat),
    let c := s.ctx cx
    let now := s.clock.toNat
    let late (e : Flight) : Bool :=
      (if e.coreCount then e.left == 0 else decide (e.left ≤ 1)) && (e.lands.map fun t => decide (now < t)).getD false
    let kat (e : Flight) : Bool := e.left == 0 && (match e.op with
      | .mkat _ _ => true
      | _ => false)
    let counted (t : State) (k n : Nat) : Prop := ∀ slot, (s.taskOf cx).map (fun x => (x.jrec.headD 0).toNat / 2 ^ 40 % 256) = some slot →
      FMap.getD t.acct (slot * 16 + k) 0 = FMap.getD s.acct (slot * 16 + k) 0 + BitVec.ofNat 64 n
    (∀ n, n = (c.st.flight.filter fun e => late e && !e.missed).length → 0 < n →
      ∃ t, exec (.promiseStall cx) s = .next t ∧ sameMemory s t ∧ counted t 11 n ∧
        t.ctx cx = { c with
          mstatNow := (if c.mstatTick = now then c.mstatNow else 0) ||| 128, mstatTick := now
          st := { c.st with
            flight := c.st.flight.map fun e => if late e then { e with missed := true } else e
            ctl := { c.st.ctl with mstat := c.st.ctl.mstat ||| 128 } } }) ∧
    ((∀ e ∈ c.st.flight, late e = true → e.missed = true) → exec (.promiseStall cx) s = .next s) ∧
    (∀ i e tick, c.st.flight[i]? = some e → e.lands = some tick →
      ∃ t, exec (.promisedDataLand cx i) s = .next t ∧ sameMemory s t ∧
        (t.ctx cx).st.flight = c.st.flight.set i { e with lands := some (min tick now) } ∧
        sameRegisters c.st (t.ctx cx).st ∧ ∀ x, x ≠ cx → t.ctx x = s.ctx x) ∧
    (∀ e chk bad, c.st.flight.filter kat = [e] → e.op = .mkat chk bad → e.latch = none →
      ∃ t, exec (.mkatCompareEnd cx) s = .next t ∧ sameMemory s t ∧ sameRegisters c.st (t.ctx cx).st ∧
        (t.ctx cx).st.flight = c.st.flight.filter (fun e => !kat e) ∧
        (t.ctx cx).st.ctl.mstat = (if bad then c.st.ctl.mstat ||| 64 else c.st.ctl.mstat) ∧
        (bad = true → counted t 13 1 ∧ (s.kattrap cx = true → (t.ctx cx).st.kat = some chk)) ∧
        (bad = false ∨ s.kattrap cx = false → (t.ctx cx).st.kat = c.st.kat)) ∧
    ∀ core, (FMap.getD s.cores core {}).divBusy ≤ 1 → ∃ t, exec (.dividerFree core) s = .next t ∧ t.ctxs = s.ctxs ∧ sameMemory s t ∧
      t.cores = FMap.put s.cores core { FMap.getD s.cores core {} with divBusy := 0 }

namespace Sys2Proof.Claims

/-! ## Held bundles and engine commands (R174 to R177, R183 to R187, R201, R277, R321) -/

/-- FORM as `%fdata` gives it (R176, Table 07-6). -/
def formCode : Form → Nat | .plain => 0 | .wait => 1 | .take => 2 | .fill => 3 | .force => 4
/-- The word's bit allows a form (Table 07-7). -/
def formFits (form : Form) (full : Bool) : Prop :=
  ((form = .wait ∨ form = .take) ∧ full = true) ∨ (form = .fill ∧ full = false)
def formHolds (form : Form) : Prop := form = .wait ∨ form = .take ∨ form = .fill
/-- A held context whose S slot has been answered, and no other context changed. -/
def answered (s t : State) (cx : Nat) (h : Hold) (v : Word) : Prop :=
  t.ctx cx = { s.ctx cx with hold := some { h with got := some v } } ∧ ∀ x, x ≠ cx → t.ctx x = s.ctx x
/-- A hold whose form is about to be performed keeps the word and its bit as they stand, unless the form changes neither. -/
def keeping (s : State) (h : Hold) (w : Word64) (form : Form) : Hold := if form = .wait then h else { h with was := some (s.feNow w) }
/-- What the L slot of a hold waits for has come. -/
def slotLMet (s : State) (cx : Nat) (h : Hold) : Prop := h.synced = true ∨ ∀ l, h.lreq = some l → s.lReady cx l = true
/-- A context that holds with this hold, its S slot not answered yet, and not held after a power loss. -/
def holdsWith (s : State) (cx : Nat) (h : Hold) (r : HoldReq) : Prop :=
  (s.ctx cx).st.mode = .hold ∧ (s.ctx cx).hold = some h ∧ h.got = none ∧ h.req = some r ∧ (s.ctx cx).dawnHeld = false
/-- Nothing else stops a held full/empty form: its bundle's L slot waits for nothing, and no other slot would fault (R8, R189; that it
waits for every kind of L slot, and not for a fence alone, is the model's reading, assumption 80). -/
def formAlone (s : State) (cx : Nat) (h : Hold) : Prop := slotLMet s cx h ∧ s.heldFault cx h = none
/-- `s` as a bundle of context `cx` would see it. -/
def seenFrom (s : State) (cx : Nat) : State := { s with iss := { cx := cx } }
/-- The first command of a queue of a context's core is this one, and the context's own. -/
def headsQueue (s : State) (cx q : Nat) (c : Cmd) : Prop :=
  s.cmds.find? (fun c => c.cx / 4 = cx / 4 ∧ c.queue = q) = some c ∧ c.cx = cx
/-- The event bit of a command. -/
def eventSet (s t : State) (cx : Nat) (e : Option Nat) : Prop :=
  match e with
  | none => t.ctxs = s.ctxs
  | some n => (t.ctx cx).st = { (s.ctx cx).st with ctl := { (s.ctx cx).st.ctl with evt := (s.ctx cx).st.ctl.evt ||| (1#32 <<< n) } }
/-- `w'` is a barrier after `n` sectors, no more than it awaits, have been settled with a code (R183). -/
def settledBy (clock code n w w' : Nat) : Prop :=
  barAfter clock w w' (arrOf w) (secOf w - n) (if errOf w = 0 then code else errOf w)
/-- An interlocked result is overtaken by one of a later issue that has landed in its register in this cycle of its core, or in its latch
(R87). -/
def beatenG (c : Ctx) (p : Pend) : Bool := c.landRegs.any fun l => some l.1 == p.reg && decide (p.id < l.2)
def beatenX (c : Ctx) (p : Pend) (n : Nat) : Bool := c.landLatches.any fun l => l.1 == n && decide (p.id < l.2)
/-- A 32-bit word of a memory. -/
def word32 (m : Memory) (a : Nat) : Nat := Memory.num m a 4

end Sys2Proof.Claims

/-- R174, R176, R177, R184: at each try the home performs a held full/empty form where the word's bit allows it, as one event, and does
nothing otherwise, nor while the bundle's fence is not satisfied (R189, R190); a held `bar.wait` is answered, after the fence, once its
phase has passed, or with 1 when its limit has come first. That the form and the answer wait for any L slot of the bundle, `crew.sync` and
`task.end` included, is the model's reading (assumption 80). -/
def Sys2Proof.Claims.HeldAccessesAtTheirHomes : Prop :=
  ∀ (s : State) (cx : Nat) (h : Hold), s.stored = true →
    (∀ k form data addr space, holdsWith s cx h (.fe (.loc k) form data addr space) → formHolds form → k % 8 = 0 → padClean s k 8 →
      (formFits form (inSet s.locFull (k / 8)) → formAlone s cx h →
        ∃ t, exec (.feHomeTry cx) s = .next t ∧ answered s t cx (keeping s h (.loc k) form) (BitVec.ofNat 64 (Memory.num s.loc k 8)) ∧
          (if form = .fill then storedIn s.loc t.loc k 8 data.toNat else t.loc = s.loc) ∧ t.mem = s.mem ∧ t.full = s.full ∧
          ∀ w, inSet t.locFull w = if w = k / 8 then decide (form ≠ .take) else inSet s.locFull w) ∧
      (¬ formFits form (inSet s.locFull (k / 8)) ∨ ¬ slotLMet s cx h → exec (.feHomeTry cx) s = .next s)) ∧
    (∀ pa form data addr space, holdsWith s cx h (.fe (.dev pa) form data addr space) → formHolds form → pa % 8 = 0 →
      inLpddr pa = true → memClean s pa 8 → memClean s (tagAddr pa) 8 → unowned s pa 8 →
      (formFits form (inSet s.full (pa / 8)) → formAlone s cx h →
        ∃ t, exec (.feHomeTry cx) s = .next t ∧ answered s t cx (keeping s h (.dev pa) form) (BitVec.ofNat 64 (Memory.num s.mem pa 8)) ∧
          (if form = .fill then storedIn s.mem t.mem pa 8 data.toNat else t.mem = s.mem) ∧ t.loc = s.loc ∧ t.locFull = s.locFull ∧
          ∀ w, inSet t.full w = if w = pa / 8 then decide (form ≠ .take) else inSet s.full w) ∧
      (¬ formFits form (inSet s.full (pa / 8)) ∨ ¬ slotLMet s cx h → exec (.feHomeTry cx) s = .next s)) ∧
    (∀ k phase limit, holdsWith s cx h (.bar k phase limit) → padClean s k 16 →
      let w := Memory.num s.loc k 16
      let status : Word := if errOf w = 0 then 0 else 2
      let puts (v : Word) (i : Instr) : Prop := ∃ t, exec i s = .next t ∧ answered s t cx h v ∧ sameMemory s t
      (¬ slotLMet s cx h → exec (.feHomeTry cx) s = .next s ∧ exec (.barWaitTimeout cx) s = .next s) ∧
      (slotLMet s cx h → phaseOf w ≠ phase → puts status (.feHomeTry cx) ∧ puts status (.barWaitTimeout cx)) ∧
      (slotLMet s cx h → phaseOf w = phase → exec (.feHomeTry cx) s = .next s ∧
        (∀ n, limit = some n → n ≤ s.clock.toNat → puts 1 (.barWaitTimeout cx)) ∧
        ((∀ n, limit = some n → s.clock.toNat < n) → exec (.barWaitTimeout cx) s = .next s)))

/-- R175, R176, R191, R277, R310: a holding bundle is presented once nothing of its context is in flight, and holds; a held bundle commits
in one context cycle when what it waits for has come, a load with the value that its home answered; when the retry budget is spent the
bundle raises FE_RETRY, or its crew parks on a DEVICE word where the job parks. -/
def Sys2Proof.Claims.HoldsBeginAndEnd : Prop :=
  ∀ (s : State) (cx : Nat),
    let c := s.ctx cx
    let others (p : Nat → Prop) : Prop := ∀ e ∈ s.ctxs, e.2.task = c.task → e.1 ≠ cx → p e.1
    (∀ bs b o, mayTrap s cx → c.reissue = none → c.st.kat = none → (FMap.getD s.cores (cx / 4) {}).lns.mode ≠ .running →
      c.st.mode = .run → c.st.flight = [] → c.st.pend = [] → s.fetch cx = .bytes bs → decodeBundle bs = some b →
      b.head.wait = false → b.slots.map (fun x => x.2.2.toOption) = [some (.l (.crewSync o))] → Pred.holds o.p c.st.q = true →
      (¬ others fun x => s.syncPresent c.st.syncs x = true) →
      ∃ t h, exec (.holdingBundlePresent cx) s = .next t ∧ (t.ctx cx).st.mode = .hold ∧ (t.ctx cx).hold = some h ∧
        h.presented = s.clock.toNat ∧ h.lreq = some .crewSync ∧ h.req = none ∧ h.bytes = bs ∧ (t.ctx cx).st.pc = c.st.pc ∧
        sameRegisters c.st (t.ctx cx).st ∧ sameMemory s t) ∧
    (¬ mayTrap s cx ∨ c.st.flight ≠ [] ∨ c.st.pend ≠ [] → exec (.holdingBundlePresent cx) s = .next s) ∧
    (∀ h b o, c.st.mode = .hold → c.dormant = false → c.hold = some h → h.req = none → h.lreq = some .crewSync →
      decodeBundle h.bytes = some b → b.head.wait = false → b.slots.map (fun x => x.2.2.toOption) = [some (.l (.crewSync o))] →
      Pred.holds o.p h.q = true → c.task ≠ none → (FMap.getD s.cores (cx / 4) {}).lns.mode ≠ .running → c.st.flight = [] → h.g = c.st.g → h.v = c.st.v → h.k = c.st.k → h.q = c.st.q →
      ((others fun x => s.syncPresent c.st.syncs x = true ∧ ∀ r ∈ s.outReqs, r.cx = x → r.cmd ≠ none) →
        (∀ r ∈ s.outReqs, r.cx = cx → r.cmd ≠ none) →
        ∃ t, exec (.holdCommit cx) s = .next t ∧ sameMemory s t ∧ let d := t.ctx cx
          d.hold = none ∧ d.st.mode = .run ∧ d.st.syncs = c.st.syncs + 1 ∧ d.st.pc = c.st.pc + BitVec.ofNat 56 h.bytes.length ∧
          d.st.owed = b.head.fold.toNat ∧ d.cyc = c.cyc + 1 ∧ sameRegisters c.st d.st) ∧
      (h.synced = false → (¬ others fun x => s.syncPresent c.st.syncs x = true) → exec (.holdCommit cx) s = .next s)) ∧
    (∀ h b o v r, c.st.mode = .hold → c.dormant = false → c.hold = some h → h.req = some r → h.lreq = none → h.got = some v →
      decodeBundle h.bytes = some b → b.head.wait = false → b.head.stop = false → o.form = .take →
      b.slots.map (fun x => x.2.2.toOption) = [some (.s (.ldLoc o))] → Pred.holds o.p h.q = true → (FMap.getD s.cores (cx / 4) {}).lns.mode ≠ .running → c.st.flight = [] →
      localRow (seenFrom s cx) o.a (wordRowOff o.imm) < c.rows →
      ∃ t, exec (.holdCommit cx) s = .next t ∧ sameMemory s t ∧ let d := t.ctx cx
        d.hold = none ∧ d.st.mode = .run ∧ d.st.flight = [gEntry (seenFrom s cx) o.d 1 v (res64 v)] ∧
        d.st.pc = c.st.pc + BitVec.ofNat 56 h.bytes.length ∧ d.cyc = c.cyc + 1 ∧ sameRegisters c.st d.st) ∧
    (∀ h r, c.hold = some h → h.req = some r → h.got = none → exec (.holdCommit cx) s = .next s) ∧
    (∀ h w form data addr space, holdsWith s cx h (.fe w form data addr space) → formHolds form → addr < 2 ^ 64 → space < 3 →
      let full := match w with
        | .loc k => inSet s.locFull (k / 8) && !inSet s.locBad (k / 8)
        | .dev pa => inSet s.full (pa / 8) && !inSet s.bad (pa / 8) && !inSet s.bad (tagAddr pa / 8)
      (∀ pa, w = .dev pa → inLpddr pa = true) →
      (formFits form full ∨ s.clock.toNat < h.presented + h.budget ∨ (c.freeze = true ∧ h.synced = false) ∨ c.dormant = true → exec (.feBudgetSpent cx) s = .next s) ∧
      (¬ formFits form full → h.presented + h.budget ≤ s.clock.toNat → c.freeze = false → c.dormant = false →
        let u := (c.task.map s.rereadJob).getD s
        ((∃ k, w = .loc k) ∨ (∀ x, u.taskOf cx = some x → (x.jrec.headD 0).getLsbD 60 = false) →
          ∃ t, exec (.feBudgetSpent cx) s = .next t ∧ trapsOwn s t cx 0x0B 0 addr (formCode form + space * 8)) ∧
        (∀ pa key x p, w = .dev pa → c.task = some key → FMap.find u.tasks key = some x → (x.jrec.headD 0).getLsbD 60 = true →
          x.phase = .rest → u.park key pa form = some p →
          ∃ t, exec (.feBudgetSpent cx) s = .next t ∧ (t.ctx cx).hold = none ∧ (t.ctx cx).st.mode = .frozen ∧
            (t.ctx cx).freeze = true ∧ (t.ctx cx).st.pc = c.st.pc ∧
            (FMap.find t.tasks key).map (fun x => (x.phase, x.parkWord)) = some (.freezing .parked none 0 false, some pa))))

/-- R183, R187, R201, R321, R389: a sector that lands, or is settled in error, counts on its barrier; an interlocked result whose tick
has come is written to its register and latch, unless one of a later issue has landed there in the cycle (R87); a command at the head of its queue is performed, and once every request of it has been answered
it settles what it must, sets its event bit and leaves its queue; a contribution is added to its line element by element and counted toward its flag. -/
def Sys2Proof.Claims.EnginesComplete : Prop :=
  ∀ s : State, s.stored = true →
    (∀ core row slot, let k := padKey core 0 row (16 * (slot % 8))
      padClean s k 16 → let w := Memory.num s.loc k 16
      let lands (i : Instr) (code : Nat) : Prop := ∃ t w', exec i s = .next t ∧ storedIn s.loc t.loc k 16 w' ∧ sameButLoc s t ∧
        barAfter s.clock.toNat w w' (arrOf w) ((secOf w + 2 ^ 24 - 1) % 2 ^ 24) (if errOf w = 0 then code else errOf w)
      lands (.sectorLand core row slot) 0 ∧ ∀ code : Byte, lands (.sectorSettleError core row slot code) code.toNat) ∧
    (∀ cx p v r tick w, (s.ctx cx).st.pend.find? (fun q => q.id = p.id) = some p → p.kind = .value v r tick →
      (s.clock.toNat < tick → exec (.interlockedResultLand cx p.id w) s = .next s) ∧
      (tick ≤ s.clock.toNat → ∃ t, exec (.interlockedResultLand cx p.id w) s = .next t ∧ sameMemory s t ∧
        (∀ x, x ≠ cx → t.ctx x = s.ctx x) ∧ let c := s.ctx cx; let d := t.ctx cx
        d.st.pend = c.st.pend.filter (fun q => q.id ≠ p.id) ∧ d.st.flight = c.st.flight ∧
        (∀ n, n ≠ 0 → d.st.getG n = if p.reg = some (.g n) ∧ beatenG c p = false then ⟨v.setWidth 64, BitVec.ofNat 4 r⟩ else c.st.getG n) ∧
        (∀ n, d.st.getV n = if p.reg = some (.v n) ∧ beatenG c p = false then ⟨v, BitVec.ofNat 128 r⟩ else c.st.getV n) ∧
        (∀ n, d.st.getK n = c.st.getK n) ∧ (∀ n, p.latch ≠ some n ∨ beatenX c p n = true → FMap.getD d.x n {} = FMap.getD c.x n {}) ∧
        ∀ n, p.latch = some n → beatenX c p n = false → (FMap.getD d.x n {}).val = if p.vec then v else (v.setWidth 64).setWidth 1024)) ∧
    (∀ cx q c k, headsQueue s cx q c → c.started = true → (∀ r ∈ s.outReqs, r.cmd ≠ some c.id) →
      c.barrier = some k → 0 < c.sectors → padClean s k 16 →
      let w := Memory.num s.loc k 16
      c.code ≠ 0 → c.code < 256 → c.sectors ≤ secOf w →
      ∃ t w', exec (.commandComplete cx q) s = .next t ∧ storedIn s.loc t.loc k 16 w' ∧ settledBy s.clock.toNat c.code c.sectors w w' ∧
        t.cmds = s.cmds.filter (fun x => x.id ≠ c.id) ∧ eventSet s t cx c.evt ∧ t.mem = s.mem) ∧
    (∀ cx q c, headsQueue s cx q c → c.started = true →
      ((∀ r ∈ s.outReqs, r.cmd ≠ some c.id) → c.code = 0 → ∃ t, exec (.commandComplete cx q) s = .next t ∧ sameMemory s t ∧
        t.cmds = s.cmds.filter (fun x => x.id ≠ c.id) ∧ eventSet s t cx c.evt) ∧
      ((∃ r ∈ s.outReqs, r.cmd = some c.id) → exec (.commandComplete cx q) s = .next s)) ∧
    (∀ cx q c, headsQueue s cx q c → c.started = false → c.kind = .settle →
      exec (.commandComplete cx q) s = .next { s with cmds := s.cmds.map fun x => if x.id = c.id then { x with started := true } else x }) ∧
    (∀ cx q c a k n, headsQueue s cx q c → c.started = false → c.code = 0 → c.barrier = none →
      c.kind = .move [] [{ src := .dev a, dst := .loc k, n := n }] false → 0 < n → (∀ i < n, inLpddr (a + i) = true) → memClean s a n →
      s.lostLinks = [] → padClean s k n →
      ∃ t ps, exec (.commandComplete cx q) s = .next t ∧ t.mem = s.mem ∧ t.ctxs = s.ctxs ∧
        (∀ b, Memory.get t.loc b = if k ≤ b ∧ b < k + n then Memory.get s.mem (a + (b - k)) else Memory.get s.loc b) ∧
        (∀ w, inSet t.locFull w = (inSet s.locFull w || decide (k ≤ 8 * w ∧ 8 * w + 8 ≤ k + n))) ∧
        t.cmds = s.cmds.map fun x => if x.id = c.id then { x with started := true, written := ps } else x) ∧
    (∀ cx c ty row la flag cnt, headsQueue s cx 4 c → c.started = false → c.barrier = none → c.kind = .reduce ty row (.dev la) flag cnt →
      s.lostLinks = [] → s.boot.jobtab % 64 = 0 → (ty = .z32 ∨ ty = .s32) → la % 128 = 0 → inLpddr la = true → memClean s la 128 → unowned s la 128 → padClean s row 128 →
      (flag = none ∨ ∃ f, flag = some (.dev f) ∧ f % 64 ≤ 40 ∧ f % 8 = 0 ∧ inLpddr f = true ∧ memClean s f 8 ∧ unowned s f 8 ∧ cnt = 1 ∧
        (f + 8 ≤ la ∨ la + 128 ≤ f) ∧ s.reds = []) →
      ∃ t, exec (.redAddContribution cx) s = .next t ∧ t.loc = s.loc ∧ t.ctxs = s.ctxs ∧
        (∀ i < 32, let a := word32 s.mem (la + 4 * i); let b := word32 s.loc (row + 4 * i)
          word32 t.mem (la + 4 * i) = if ty = .z32 then (a + b) % 2 ^ 32
            else (clamp32 (signedN 32 a + signedN 32 b) % 2 ^ 32).toNat) ∧
        (flag = none → (∀ x, ¬ (la ≤ x ∧ x < la + 128) → Memory.get t.mem x = Memory.get s.mem x) ∧ t.full = s.full) ∧
        (∀ f, flag = some (.dev f) → Memory.num t.mem f 8 = 1 ∧ inSet t.full (f / 8) = true ∧ t.reds = [] ∧
          ∀ x, ¬ (la ≤ x ∧ x < la + 128) → ¬ (f ≤ x ∧ x < f + 8) → Memory.get t.mem x = Memory.get s.mem x))

/-- R185: the matched rotations of a crew of two that agree, in a row that both hold, exchange the row, and each settles 4 sectors on
the barrier of the receiving member; where the row counts differ no row moves, and every sector settles ABORTED. -/
def Sys2Proof.Claims.RotationsAreMatched : Prop :=
  ∀ (s : State) (task a b : Nat) (ca cb : Cmd) (ka kb k first m n : Nat) (dir : Bool),
    (s.ctxs.filter fun e => e.2.task = some task).map Prod.fst = [a, b] → s.stored = true →
    (s.ctx a).st.ctl.member = 0 → (s.ctx b).st.ctl.member = 1 → (s.ctx a).st.ended = false → (s.ctx b).st.ended = false →
    headsQueue s a 1 ca → headsQueue s b 1 cb → ca.kind = .rotate k first m dir → cb.kind = .rotate k first n dir →
    ca.barrier = some ka → cb.barrier = some kb → ca.sectors = 4 * m → cb.sectors = 4 * n → 0 < m → 0 < n → ca.id ≠ cb.id →
    let rowA := padKey (a / 4) (s.ctx a).rowBase first 0
    let rowB := padKey (b / 4) (s.ctx b).rowBase first 0
    let wa := Memory.num s.loc ka 16
    let wb := Memory.num s.loc kb 16
    let apart (x n y m : Nat) : Prop := x + n ≤ y ∨ y + m ≤ x
    padClean s ka 16 → padClean s kb 16 → apart ka 16 kb 16 → ca.sectors ≤ secOf wa → cb.sectors ≤ secOf wb →
    (m = 1 → n = 1 → first < (s.ctx a).rows → first < (s.ctx b).rows → padClean s rowA 128 → padClean s rowB 128 →
      apart rowA 128 rowB 128 → apart rowA 128 ka 16 → apart rowA 128 kb 16 → apart rowB 128 ka 16 → apart rowB 128 kb 16 →
      ∃ t wa' wb', exec (.rotCluMatch task) s = .next t ∧ t.ctxs = s.ctxs ∧ t.mem = s.mem ∧
        (∀ i < 128, Memory.get t.loc (rowA + i) = Memory.get s.loc (rowB + i) ∧
          Memory.get t.loc (rowB + i) = Memory.get s.loc (rowA + i)) ∧
        Memory.num t.loc ka 16 = wa' ∧ Memory.num t.loc kb 16 = wb' ∧ settledBy s.clock.toNat 0 4 wa wa' ∧
        settledBy s.clock.toNat 0 4 wb wb' ∧
        ∀ x, ¬ (rowA ≤ x ∧ x < rowA + 128) → ¬ (rowB ≤ x ∧ x < rowB + 128) → ¬ (ka ≤ x ∧ x < ka + 16) → ¬ (kb ≤ x ∧ x < kb + 16) →
          Memory.get t.loc x = Memory.get s.loc x) ∧
    (m ≠ n → ∃ t wa' wb', exec (.rotCluMatch task) s = .next t ∧ t.ctxs = s.ctxs ∧ t.mem = s.mem ∧
        Memory.num t.loc ka 16 = wa' ∧ Memory.num t.loc kb 16 = wb' ∧ settledBy s.clock.toNat 6 (4 * m) wa wa' ∧
        settledBy s.clock.toNat 6 (4 * n) wb wb' ∧
        ∀ x, ¬ (ka ≤ x ∧ x < ka + 16) → ¬ (kb ≤ x ∧ x < kb + 16) → Memory.get t.loc x = Memory.get s.loc x)

namespace Sys2Proof.Claims

/-! ## The selector, lock-step, tasks and address spaces (R157, R192, R194, R272 to R274, R284 to R288, R298 to R301, R329) -/

/-- The context that has the issue width of a core, and the one `d` places after it. -/
def runningOn (s : State) (core : Nat) : Nat := core * 4 + (FMap.getD s.cores core {}).running % 4
def after_ (s : State) (core d : Nat) : Nat := core * 4 + ((FMap.getD s.cores core {}).running % 4 + d) % 4
/-- A wait or holding bundle comes next, before which a group ends (R101, R175). -/
def boundedNext (s : State) (cx : Nat) : Prop :=
  ∃ bs b, s.fetch cx = .bytes bs ∧ decodeBundle bs = some b ∧ (b.head.wait = true ∨ ∃ w ∈ Bundle.words b, SlotWord.isHolding w = true)
/-- A context inside a group, which keeps the width (R269). -/
def insideGroup (s : State) (cx : Nat) : Prop :=
  let c := s.ctx cx
  c.task ≠ none ∧ c.st.mode = .run ∧ c.dormant = false ∧ c.dawnHeld = false ∧
    ¬ (c.st.owed = 0 ∧ (c.atBoundary = true ∨ boundedNext s cx))
/-- Another context of the core has been eligible for a quantum (R273). -/
def quantumSpent (s : State) (core : Nat) : Prop := ∃ i < 4, core * 4 + i ≠ runningOn s core ∧ 4096 ≤ (s.ctx (core * 4 + i)).eligFor
/-- The contexts that a placed task's members hold. -/
def crewContexts (t : Task) (p : Placement) : List Nat := p.members.map fun m => ((t.die * 32 + p.cluster) * 8 + m.1) * 4 + m.2.1
/-- A field of word `i` of a record. -/
def recField (w : List Nat) (i hi lo : Nat) : Nat := w.getD i 0 / 2 ^ lo % 2 ^ (hi + 1 - lo)
/-- A task record that a strand may read and the scheduler may write (R383), with its addresses and words. -/
def taskRecordAt (s : State) (addr : Word) (va pa : Nat) (w : List Nat) : Prop :=
  ∃ a, s.devCheck s.iss.cx (addr.toNat : Int) 128 true false false = .ok a ∧ a.pa = some pa ∧ s.spoiled pa 128 = false ∧ a.va = va ∧
    w = wordsOf (s.peek pa 128) ∧ inTags pa = false ∧ inLpddr pa = true
/-- The tasks of a level of a die. -/
def levelOf (s : State) (die l : Nat) : List Nat := FMap.getD (FMap.getD s.dies die {}).levels l []
/-- A byte of the LINK word of one of some records (R283). -/
def inLinks (ks : List Nat) (a : Nat) : Prop := ∃ k ∈ ks, k + 120 ≤ a ∧ a < k + 128
/-- Records lie in lines of 128 bytes (R283). -/
def onLines (ks : List Nat) : Prop := ∀ k ∈ ks, k % 128 = 0
/-- Nothing but LINKs of some records has been written. -/
def sameButLinks (s t : State) (ks : List Nat) : Prop :=
  (∀ a, ¬ inLinks ks a → Memory.get t.mem a = Memory.get s.mem a) ∧ t.loc = s.loc ∧ t.full = s.full ∧ t.locFull = s.locFull
/-- W0 of a record has been written with `v`, and LINKs of some records; no other byte of memory has changed. -/
def recordWritten (s t : State) (pa v : Nat) (ks : List Nat) : Prop :=
  Memory.num t.mem pa 8 = v ∧ ∀ a, ¬ (pa ≤ a ∧ a < pa + 8) → ¬ inLinks ks a → Memory.get t.mem a = Memory.get s.mem a
/-- A task is READY from now on, at the tail of its priority's level on its die, and its record says so with DEP 0; its LINK names no
record (that LINK holds an address, and 0 at the end, is the model's choice, assumption 77). -/
def becomesReady (s t : State) (pa : Nat) (x : Task) : Prop :=
  FMap.find t.tasks pa = some x ∧ x.state = .ready ∧ x.readyAt = s.clock.toNat ∧ x.level = x.prio ∧ x.phase = .rest ∧
  levelOf t x.die x.prio = levelOf s x.die x.prio ++ [pa] ∧ (FMap.getD t.dies x.die {}).decide = true ∧
  (onLines (pa :: levelOf s x.die x.prio) →
    recordWritten s t pa (x.die % 4 * 2 ^ 35 + 2 * 2 ^ 32) (pa :: levelOf s x.die x.prio) ∧ Memory.num t.mem (pa + 120) 8 = 0)
/-- What a record declares of its task (R283, R286). -/
def declares (w : List Nat) (j : List Word) (x : Task) : Prop :=
  x.job = recField w 1 63 52 ∧ x.prio = min (recField w 1 6 0) ((j.getD 0 0).toNat / 2 ^ 48 % 2 ^ 7) ∧ x.size = recField w 1 47 45 + 1 ∧
  x.acc = recField w 1 44 42 ∧ x.rows = recField w 1 38 25 ∧ x.spill = recField w 1 24 16 ∧ x.code = recField w 2 55 1 * 2 ∧
  x.sched = recField w 3 55 5 * 32 ∧ x.succ = recField w 12 55 3 * 8 ∧ x.nsucc = recField w 12 63 56 ∧ x.jrec = j
/-- The interlocked result `p` of a context has landed with a value in its register. -/
def landed (s t : State) (cx : Nat) (p : Pend) (v : Word) : Prop :=
  (∀ q ∈ (t.ctx cx).st.pend, q.id ≠ p.id) ∧
  ∀ n, n ≠ 0 → p.reg = some (.g n) → (t.ctx cx).st.getG n = ⟨v, res64 v⟩ ∧ ∀ m, m ≠ n → (t.ctx cx).st.getG m = (s.ctx cx).st.getG m

end Sys2Proof.Claims

/-- R273, R274: when the quantum has run out at a group boundary, the first eligible context after the running one gets the width; a gated
core wakes for a change of a context's `%flags` or for an eligible context, and issues two cycles later; R272: a line that arrives extends the fetch buffer, up to 128 bytes;
R157: when every member has arrived the whole crew enters the fused set, and a member that is in it already goes on with what it does; R329: an answered probe lets its bundle go on. -/
def Obligations.SelectorFetchAndLockStep : Prop :=
  ∀ s : State,
    (∀ core d, 0 < d → d < 4 → quantumSpent s core → ¬ insideGroup s (runningOn s core) →
      (∀ e, 0 < e → e < d → s.eligible (after_ s core e) = false) → s.eligible (after_ s core d) = true →
      ∃ t, exec (.quantumExpiry core) s = .next t ∧ runningOn t core = after_ s core d ∧ sameMemory s t ∧
        (t.ctx (after_ s core d)).eligFor = 0 ∧ ∀ x, sameRegisters (s.ctx x).st (t.ctx x).st) ∧
    (∀ core, ¬ quantumSpent s core ∨ insideGroup s (runningOn s core) → exec (.quantumExpiry core) s = .next s) ∧
    (∀ core, let k := FMap.getD s.cores core {}
      let same := (List.range 4).map (fun i => s.flagsOf (core * 4 + i)) = k.seen
      (k.gated = true → (¬ same ∨ ∃ i < 4, s.eligible (core * 4 + i) = true) →
        exec (.coreUngate core) s = .next { s with cores := FMap.put s.cores core { k with gated := false, wakeIn := 2 } }) ∧
      (k.gated = false ∨ (same ∧ ∀ i < 4, s.eligible (core * 4 + i) = false) → exec (.coreUngate core) s = .next s)) ∧
    (∀ cx, let c := s.ctx cx; let a := c.fetchBase + c.fetchBuf.length
      (c.fetchAt = none → exec (.fetchLineArrive cx) s = .next s) ∧
      (∀ r, c.fetchAt ≠ none → runAt s cx a r → r.resident = true →
        ∃ t, exec (.fetchLineArrive cx) s = .next t ∧ sameMemory s t ∧
          t.ctx cx = { c with fetchBuf := (c.fetchBuf ++ s.peek (r.pa + (a - r.va)) 64).take 128, fetchAt := none } ∧
          ∀ x, x ≠ cx → t.ctx x = s.ctx x)) ∧
    (∀ task x p, FMap.find s.tasks task = some x → x.place = some p → p.members ≠ [] →
      let ms := crewContexts x p
      let arrived := (∀ cx ∈ ms, ((s.ctx cx).st.mode = .fuseWait ∨ (s.ctx cx).st.ctl.fused = true) ∧ (s.ctx cx).freeze = false ∧
        (s.ctx cx).dormant = false ∧ (s.ctx cx).dawnHeld = false) ∧ ∃ cx ∈ ms, (s.ctx cx).st.mode = .fuseWait
      (arrived → ∃ t, exec (.fuseLineRise task) s = .next t ∧ sameMemory s t ∧
        (∀ cx ∈ ms, (t.ctx cx).st = { (s.ctx cx).st with
          mode := if (s.ctx cx).st.mode = .fuseWait then .run else (s.ctx cx).st.mode
          ctl := { (s.ctx cx).st.ctl with fused := true } }) ∧
        (∀ cx, cx ∉ ms → t.ctx cx = s.ctx cx) ∧ (FMap.find t.tasks task).map Task.fuseUp = some true) ∧
      (¬ arrived → exec (.fuseLineRise task) s = .next s)) ∧
    (∀ cx n, (s.ctx cx).probe = some n →
      exec (.mixsizeProbeAnswer cx) s =
        .next { ungated s (cx / 4) with ctxs := FMap.put s.ctxs cx { s.ctx cx with probe := none, probed := true } })

/-- R284: the conditions 3 to 8 of a valid task record, and condition 1. -/
def Sys2Proof.Claims.RecordConditions : Prop :=
  ∀ (w : List Nat) (readable : Nat → Bool) (store : Nat),
    let f := recField w
    (recIdle w = true ↔ f 0 34 32 = 0 ∨ f 0 34 32 = 6) ∧
    (recOk w readable store = true ↔
      (f 0 47 37 = 0 ∧ f 0 31 0 = 0 ∧ f 1 49 48 = 0 ∧ f 1 41 39 = 0 ∧ f 1 15 7 = 0 ∧ f 2 63 56 = 0 ∧ f 2 0 0 = 0 ∧ f 3 63 56 = 0 ∧
        f 3 4 0 = 0 ∧ f 12 2 0 = 0) ∧
      f 1 44 42 ≤ 4 ∧ f 1 38 25 ≤ 8192 ∧ f 1 24 16 ≤ 256 ∧
      (∀ i < 8, f (4 + i) 55 12 * 2 ^ 12 + f (4 + i) 11 0 * 2 ^ (12 + f (4 + i) 60 56) ≤ 2 ^ 56) ∧
      (w.getD 3 0 = 0 ∨ readable (w.getD 3 0) = true) ∧ (f 12 55 3 = 0 ∨ readable (f 12 55 3 * 8) = true) ∧
      (f 1 47 45 + 1) * (32768 + 128 * f 1 24 16 + 128 * f 1 38 25 + 16384 * f 1 44 42) ≤ store)

/-- R192, R286, R287: `task.spawn` answers 3 for a record that is not resident, 1 for another job's, 2 for one that is not valid, and 0
for one it accepts, which is READY with DEP 0 and HELD otherwise; `task.sig` answers the same as 2^64 minus the status, or DEP before
its decrement, and readies a HELD or SUSPENDED task whose DEP becomes 0. -/
def Sys2Proof.Claims.TaskInstructions : Prop :=
  ∀ (s : State) (o : OpLR), Pred.holds o.p s.cur.st.q = true → passes s o.a → Memory.wf s.mem = true →
    let die := dieHere s
    let job := s.jobOf s.iss.cx
    let both (v : Nat) : Prop :=
      (∃ t, exec (.taskSpawn o) s = .next t ∧ landsG s t o.d (BitVec.ofNat 64 v) ∧ sameMemory s t) ∧
      (∃ t, exec (.taskSig o) s = .next t ∧ landsG s t o.d (BitVec.ofNat 64 (2 ^ 64 - v)) ∧ sameMemory s t)
    (recordAbsentAt s (srcG s o.a) 128 → both 3) ∧
    ∀ va pa w, taskRecordAt s (srcG s o.a) va pa w →
      (recField w 1 63 52 ≠ job → both 1) ∧
      (recField w 1 63 52 = job → (s.jobRec die job).1 = none → both 2) ∧
      ∀ j, recField w 1 63 52 = job → (s.jobRec die job).1 = some j →
        (recOk w (readableIn s.cur.runs) (s.boot.savesz.toNat * 2 ^ 20) = false → both 2) ∧
        (recOk w (readableIn s.cur.runs) (s.boot.savesz.toNat * 2 ^ 20) = true →
          let dep := recField w 0 63 48
          let st := recField w 0 34 32
          (recIdle w = false → ∃ t, exec (.taskSpawn o) s = .next t ∧ landsG s t o.d 2 ∧ sameMemory s t) ∧
          (recIdle w = true → dep = 0 → ∃ t x, exec (.taskSpawn o) s = .next t ∧ landsG s t o.d 0 ∧ becomesReady s t pa x ∧
            declares w j x ∧ x.die = die ∧ x.va = va ∧ x.asn = (j.getD 0 0).toNat % 2 ^ 16) ∧
          (recIdle w = true → dep ≠ 0 → ∃ t x, exec (.taskSpawn o) s = .next t ∧ landsG s t o.d 0 ∧
            FMap.find t.tasks pa = some x ∧ x.state = .held ∧ declares w j x ∧ x.die = die ∧
            (pa % 128 = 0 → recordWritten s t pa (dep * 2 ^ 48 + die % 4 * 2 ^ 35 + 1 * 2 ^ 32) [pa] ∧ Memory.num t.mem (pa + 120) 8 = 0)) ∧
          (dep = 0 → ∃ t, exec (.taskSig o) s = .next t ∧ landsG s t o.d 0 ∧ sameMemory s t) ∧
          (dep ≠ 0 → ¬ (dep = 1 ∧ (st = 1 ∨ st = 5)) → ∃ t, exec (.taskSig o) s = .next t ∧ landsG s t o.d (BitVec.ofNat 64 dep) ∧
            storedIn s.mem t.mem pa 8 (w.getD 0 0 - 2 ^ 48) ∧ t.tasks = s.tasks) ∧
          (dep = 1 → (st = 1 ∨ st = 5) → ∃ t x, exec (.taskSig o) s = .next t ∧ landsG s t o.d 1 ∧ becomesReady s t pa x ∧
            (∀ y, FMap.find s.tasks pa = some y → x.die = y.die ∧ x.prio = y.prio) ∧
            (FMap.find s.tasks pa = none → declares w j x ∧ x.die = recField w 0 36 35)))

/-- R194, R301: `asn.retire` answers 1 without the right and 2 while a task names the ASN; else the ASN is RETIRING and the result
waits for the sweep, whose end removes the ASN's translations, frees the ASN, and lands 0 in every `asn.retire` of it. R173, R300: the
end of a `pagein` walk lands the drop count and a status, with a page request where no leaf was found. -/
def Sys2Proof.Claims.RetirementAndWalks : Prop :=
  ∀ s : State, Memory.wf s.mem = true →
    (∀ o : OpLR, Pred.holds o.p s.cur.st.q = true →
      let a := (srcG s o.a).toNat % 2 ^ 16
      let pa := s.boot.asntab + 16 * a
      let right := ∃ x, s.taskOf s.iss.cx = some x ∧ (x.jrec.headD 0).getLsbD 57 = true
      let busy := ∃ e ∈ s.tasks, e.2.state ≠ .idle ∧ e.2.state ≠ .ended ∧
        (e.2.asn = a ∨ ∃ j, (s.jobRec e.2.die e.2.job).1 = some j ∧ (j.getD 0 0).toNat % 2 ^ 16 = a)
      (¬ right → ∃ t, exec (.asnRetire o) s = .next t ∧ landsG s t o.d 1 ∧ sameMemory s t) ∧
      (right → busy → ∃ t, exec (.asnRetire o) s = .next t ∧ landsG s t o.d 2 ∧ sameMemory s t) ∧
      (right → ¬ busy → ∃ t p tick, exec (.asnRetire o) s = .next t ∧
        (t.ctx s.iss.cx).st = { s.cur.st with pend := s.cur.st.pend ++ [p] } ∧ p.kind = .sweep a tick ∧ s.clock.toNat < tick ∧
        p.reg = (if o.d.latchOnly then none else some (.g o.d.n.toNat)) ∧
        ((s.asnEntry a).1 ≠ 2 → inLpddr pa = true → storedIn s.mem t.mem pa 8 (Memory.num s.mem pa 8 % 2 ^ 62 + 2 * 2 ^ 62)) ∧
        ((s.asnEntry a).1 = 2 → sameMemory s t))) ∧
    (∀ asn, ∃ t, exec (.asnSweepEnd asn) s = .next t ∧
      (inLpddr (s.boot.asntab + 16 * asn) = true →
        storedIn s.mem t.mem (s.boot.asntab + 16 * asn) 8 (Memory.num s.mem (s.boot.asntab + 16 * asn) 8 % 2 ^ 62)) ∧
      (∀ d, (∀ e ∈ (FMap.getD t.dies d {}).tlb, e.1 ≠ asn) ∧ ∀ e ∈ (FMap.getD t.dies d {}).btb, e.asn ≠ asn) ∧
      (∀ d e, asn ≠ 0 → e ∈ (FMap.getD s.dies d {}).tlb → e.1 ≠ asn → e ∈ (FMap.getD t.dies d {}).tlb) ∧
      ∀ cx p tick, (s.ctx cx).st.pend.find? (fun q => q.id = p.id) = some p → p.kind = .sweep asn tick → beatenG (s.ctx cx) p = false →
        (∀ q ∈ (t.ctx cx).st.pend, q.id ≠ p.id) ∧ ∀ n, n ≠ 0 → p.reg = some (.g n) → (t.ctx cx).st.getG n = {}) ∧
    (∀ cx p va tick r, (s.ctx cx).st.pend.find? (fun q => q.id = p.id) = some p → p.kind = .walk va tick → beatenG (s.ctx cx) p = false → runAt s cx va r →
      let ends (v : Nat) (ok : State → Prop) : Prop :=
        ∃ t, exec (.pageinWalkEnd cx p.id) s = .next t ∧ landed s t cx p (BitVec.ofNat 64 v) ∧ ok t ∧ t.mem = s.mem
      (r.resident = true → ends (r.drops * 2 ^ 16 + 1) fun t => runAt t cx va { r with drops := 0 }) ∧
      (r.resident = false → (s.translate (cx / 1024) (s.asnOf cx) va).1 = none →
        ends (r.drops * 2 ^ 16 + 2) fun t => runAt t cx va { r with drops := 0 } ∧
          ∀ k x, (s.ctx cx).task = some k → FMap.find s.tasks k = some x → ∃ q,
            FMap.getD t.records x.job [] = FMap.getD s.records x.job [] ++ [q] ∧ q.kind = 2 ∧ q.addr = va ∧ q.data = 3 ∧ q.record = x.va) ∧
      (∀ l, r.resident = false → (s.translate (cx / 1024) (s.asnOf cx) va).1 = some l → l.va ≤ va → va < l.va + l.size →
        (s.ctx cx).runs.length ≤ 62 →
        ends (r.drops * 2 ^ 16 + 1) fun t => ∃ q, runAt t cx va q ∧ q.resident = true ∧ q.pa + (va - q.va) = l.pa + (va - l.va) ∧
          q.r = (r.r && l.r) ∧ q.w = (r.w && l.w) ∧ q.x = (r.x && l.x) ∧ q.lclass = l.lclass))

namespace Sys2Proof.Claims

/-! ## The scheduler (R75, R90, R286 to R294, R303 to R312) -/

/-- The head of the highest ready level of a die that holds a task; it stands in no other level, and its record may be written. -/
def topTask (s : State) (die level key : Nat) : Prop :=
  let ls := (FMap.getD s.dies die {}).levels
  FMap.sorted ls = true ∧ (∃ q, FMap.find ls level = some (key :: q)) ∧ (∀ l, level < l → FMap.getD ls l [] = []) ∧
    (∀ l, l ≠ level → key ∉ levelOf s die l) ∧ onLines (levelOf s die level) ∧ inLpddr key = true
/-- No ready level of a die lists a task. -/
def unlisted (t : State) (die key : Nat) : Prop := ∀ l, key ∉ FMap.getD (FMap.getD t.dies die {}).levels l []
/-- The job record of a task is this one, translated already, and lies apart from some task records. -/
def jobIs (s : State) (die job : Nat) (ks : List Nat) (j : List Word) : Prop :=
  s.jobRec die job = (some j, s) ∧ ∃ jp, s.jobPa die job = (some jp, s) ∧ ∀ k ∈ ks, jp + 64 ≤ k ∨ k + 128 ≤ jp
/-- A word of a job record, and a field of it. -/
def jobField (j : List Word) (i hi lo : Nat) : Nat := (j.getD i 0).toNat / 2 ^ lo % 2 ^ (hi + 1 - lo)
/-- A task is suspended, and its record says so with DEP 1 (R307); LINKs of some records change. -/
def becomesSuspended (s t : State) (key : Nat) (x : Task) (ks : List Nat) : Prop :=
  (FMap.find t.tasks key).map (fun y => (y.state, y.phase, y.place)) = some (.suspended, .rest, none) ∧
  recordWritten s t key (1 * 2 ^ 48 + x.die % 4 * 2 ^ 35 + 5 * 2 ^ 32) ks
/-- A record joins those that wait for their slot. -/
def recordPosted (s t : State) (job : Nat) (ok : FaultRecord → Prop) : Prop :=
  ∃ r, FMap.getD t.records job [] = FMap.getD s.records job [] ++ [r] ∧ ok r
/-- A cluster counts as awake for a placement (R291). -/
def awakeCluster (s : State) (k : Nat) : Prop := (FMap.getD s.clusters k {}).mode = .active ∧ (FMap.getD s.clusters k {}).eff ≠ 0
/-- No task holds a place on the die, and its cores work with free sequencers. -/
def emptyDie (s : State) (die : Nat) : Prop :=
  (∀ e ∈ s.tasks, e.2.place = none) ∧ ∀ i < 256, (FMap.getD s.cores (die * 256 + i) {}).working = true
/-- The working cores of a cluster. -/
def workingCores (s : State) (die cl : Nat) : Nat :=
  ((List.range 8).filter fun i => (FMap.getD s.cores ((die * 32 + cl) * 8 + i) {}).working).length
/-- The members of a crew on cores 0 up, each in context 0 from row 0. -/
def firstPlaces (n : Nat) : List (Nat × Nat × Nat) := (List.range n).map fun i => (i, 0, 0)
/-- A strand at its first dispatch (R75, R90, R294). -/
def firstStrand (x : Task) (member : Nat) : Strand :=
  let rec_ := x.va / 128 % 2 ^ 49
  let g := (rec_ * 0x9E3779B97F4A7C15 + member + 1) % 2 ^ 64
  { pc := BitVec.ofNat 56 x.code
    ctl := { job := BitVec.ofNat 12 x.job, record := BitVec.ofNat 49 rec_, crewM1 := BitVec.ofNat 3 (x.size - 1)
             member := BitVec.ofNat 3 member, spillSize := BitVec.ofNat 16 (128 * x.spill)
             rseed := BitVec.ofNat 64 (if g = 0 then 0x9E3779B97F4A7C15 else g) } }
/-- The one member of a placed crew of one: its core, context and first row. -/
def placedOne (x : Task) (cluster core slot row : Nat) : Prop :=
  x.place = some { cluster := cluster, members := [(core, slot, row)] } ∧ x.size = 1 ∧ core < 8 ∧ slot < 4
/-- The context of a place on a die. -/
def contextAt (die cluster core slot : Nat) : Nat := ((die * 32 + cluster) * 8 + core) * 4 + slot
/-- No push of sealed weights is in flight (R398). -/
def noSealedPush (st : Strand) : Prop := ∀ e ∈ st.flight, ∀ rows tag src, e.op ≠ .push rows tag true src
/-- Nothing of a context is on its way: commands, requests, interlocked results, promised data. -/
def quiet (s : State) (cx : Nat) : Prop :=
  (∀ c ∈ s.cmds, c.cx ≠ cx) ∧ (∀ r ∈ s.outReqs, r.cx ≠ cx) ∧ (s.ctx cx).st.pend = [] ∧
  ∀ e ∈ (s.ctx cx).st.flight, ∀ t, e.lands = some t → t ≤ s.clock.toNat
/-- A virtual address is translated already. -/
def cachedAt (s : State) (die asn va : Nat) (l : Leaf) : Prop := s.translate die asn va = (some l, s)

end Sys2Proof.Claims

/-- R289, R290, R291, R293, R301, R307, R309, R312: one decision of a die on the head of its highest ready level. A killed task ends; a
task of an invalid or halted job is suspended without a record; a retiring ASN and a crew larger than the working cores of every cluster
suspend it with one, and it is delivered where the task is its job's own supervisor, too (the model's reading, assumption 55); on an empty die the task is reserved in the first awake cluster, else in the first cluster with its wake requested; a READY task
whose effective level has risen, and that no decision has taken, moves to the tail of its new level. -/
def Sys2Proof.Claims.DispatchDecisions : Prop :=
  ∀ (s : State) (die : Nat),
    ((∀ l, FMap.getD (FMap.getD s.dies die {}).levels l [] = []) → FMap.sorted (FMap.getD s.dies die {}).levels = true →
      ∃ t, exec (.dispatchDecision die) s = .next t ∧ t.tasks = s.tasks ∧ sameMemory s t ∧ (FMap.getD t.dies die {}).decide = false) ∧
    (∀ level key x, topTask s die level key → FMap.find s.tasks key = some x → x.die = die → Memory.wf s.mem = true →
      let rec1 := Memory.num s.mem (key + 8) 8
      let suspends (ok : State → Prop) : Prop :=
        ∃ t, exec (.dispatchDecision die) s = .next t ∧ becomesSuspended s t key x (levelOf s die level) ∧ unlisted t die key ∧ ok t
      (∀ r, rec1 / 2 ^ 51 % 2 = 1 → s.jobRec die x.job = (r, s) →
        ∃ t, exec (.dispatchDecision die) s = .next t ∧ (FMap.find t.tasks key).map Task.state = some .ended ∧ unlisted t die key ∧
          Memory.num t.mem key 8 / 2 ^ 32 % 8 = 6 ∧ t.records = s.records) ∧
      (rec1 / 2 ^ 51 % 2 = 0 → s.jobRec die x.job = (none, s) → suspends fun t => t.records = s.records) ∧
      (∀ j, rec1 / 2 ^ 51 % 2 = 0 → jobIs s die x.job (levelOf s die level) j → x.jrec = j → x.saved = none →
        let asn := jobField j 0 15 0
        (jobField j 0 62 62 = 1 → suspends fun t => t.records = s.records) ∧
        (jobField j 0 62 62 = 0 → (s.asnEntry asn).1 = 2 → jobField j 2 55 7 * 128 ≠ x.va →
          suspends fun t => recordPosted s t x.job fun r => r.kind = 1 ∧ r.cause = 0x10 ∧ r.slot = 7 ∧ r.data = asn ∧ r.record = x.va) ∧
        (jobField j 0 62 62 = 0 → (s.asnEntry asn).1 ≠ 2 → (∀ cl < 32, workingCores s die cl < x.size) →
          suspends fun t => recordPosted s t x.job fun r => r.kind = 3 ∧ r.data = 1 ∧ r.record = x.va) ∧
        (jobField j 0 62 62 = 0 → (s.asnEntry asn).1 ≠ 2 → emptyDie s die → 0 < x.size → x.size ≤ 8 → x.acc ≤ 8 → x.rows ≤ 8192 →
          (x.extents.map fun w => w.toNat % 2 ^ 12 * 2 ^ (w.toNat / 2 ^ 56 % 2 ^ 5) + 1).sum ≤ 64 →
          let reserved (cl : Nat) (ok : State → Prop) : Prop :=
            ∃ t y, exec (.dispatchDecision die) s = .next t ∧ FMap.find t.tasks key = some y ∧ y.phase = .binding ∧ unlisted t die key ∧
              y.place = some { cluster := cl, members := firstPlaces x.size } ∧ s.clock.toNat < y.bindAt ∧ y.victims = [] ∧
              y.state = x.state ∧ t.boot.dispatched = true ∧ ok t ∧ sameButLinks s t (levelOf s die level)
          (∀ cl < 32, awakeCluster s (die * 32 + cl) → (∀ i < cl, ¬ awakeCluster s (die * 32 + i)) →
            reserved cl fun t => (FMap.getD t.dies die {}).dayQueue = (FMap.getD s.dies die {}).dayQueue) ∧
          ((∀ cl < 32, ¬ awakeCluster s (die * 32 + cl)) → (FMap.getD s.clusters (die * 32) {}).mode = .night →
            (FMap.getD s.clusters (die * 32) {}).waking = false → die * 32 ∉ (FMap.getD s.dies die {}).dayQueue →
            reserved 0 fun t => (FMap.getD t.dies die {}).dayQueue = (FMap.getD s.dies die {}).dayQueue ++ [die * 32])))) ∧
    (∀ key x, FMap.find s.tasks key = some x →
      let agei := (x.jrec.getD 1 0).toNat / 2 ^ 16 % 2 ^ 16
      let l := if (x.jrec.getD 0 0).getLsbD 61 = true then
          min 127 (x.prio + (s.clock.toNat - x.readyAt) / (max 1 agei * 65536)) else x.prio
      (x.state = .ready → x.phase = .rest → x.level < l → (∀ m, m ≠ x.level → key ∉ levelOf s x.die m) →
        FMap.sorted (FMap.getD s.dies x.die {}).levels = true → ∃ t, exec (.agingStep key) s = .next t ∧
          (FMap.find t.tasks key).map Task.level = some l ∧ levelOf t x.die l = levelOf s x.die l ++ [key] ∧
          (∀ m, m ≠ l → key ∉ levelOf t x.die m) ∧
          sameButLinks s t (key :: levelOf s x.die x.level ++ levelOf s x.die l)) ∧
      (x.state ≠ .ready ∨ x.phase ≠ .rest ∨ l ≤ x.level → exec (.agingStep key) s = .next s))

/-- R75, R90, R294, R303, R304, R305: a reserved crew binds once its cluster is awake: at first dispatch with the values of R75 and its
rows zero and empty, on resume with what was saved. A resident crew that is pre-empted freezes at its bundle boundary, drains, and is
saved with its registers and rows; its task goes to the head of its level, and the account slot counts a pre-emption. R392: a crew whose
saved state holds an uncorrectable error is suspended, no fault record is posted, and its job halts (R308). -/
def Sys2Proof.Claims.CrewsBindAndSave : Prop :=
  ∀ (s : State) (key : Nat) (x : Task) (cl co sl row : Nat), FMap.find s.tasks key = some x → placedOne x cl co sl row →
    s.stored = true → FMap.sorted s.ctxs = true →
    let cx := contextAt x.die cl co sl
    let lo := padKey (cx / 4) row 0 0
    let inRows (b : Nat) : Prop := lo ≤ b ∧ b < lo + 128 * x.rows
    row + x.rows ≤ 8192 → inLpddr key = true → (s.ctx cx).dawnHeld = false → (s.ctx cx).reissue = none →
    (x.phase = .binding → x.bindAt ≤ s.clock.toNat → awakeCluster s (x.die * 32 + cl) → x.victims = [] →
      ((FMap.getD s.cores (cx / 4) {}).working = true →
        (x.saved = none → x.sched = 0 →
          ∃ t, exec (.crewBind key) s = .next t ∧
            t.ctx cx = { task := some key, st := firstStrand x 0, runs := x.runs, rowBase := row, rows := x.rows, tiles := x.acc } ∧
            (∀ b, inRows b → Memory.get t.loc b = 0) ∧ (∀ b, ¬ inRows b → Memory.get t.loc b = Memory.get s.loc b) ∧
            (∀ w, inRows (8 * w) → inSet t.locFull w = false) ∧ (∀ c, c ≠ cx → t.ctx c = s.ctx c) ∧
            (FMap.find t.tasks key).map (fun y => (y.state, y.phase, y.boundAt)) = some (.resident, .rest, s.clock.toNat) ∧
            Memory.num t.mem key 8 / 2 ^ 32 % 8 = 3) ∧
        (x.saved ≠ none → x.savedBad = true → ∃ t, exec (.crewBind key) s = .next t ∧ t.ctxs = s.ctxs ∧ t.records = s.records ∧
          (FMap.find t.tasks key).map (fun y => (y.state, y.phase, y.place)) = some (.suspended, .rest, none) ∧
          ∀ jp, s.jobPa x.die x.job = (some jp, s) → inLpddr jp = true → (jp + 8 ≤ key ∨ key + 8 ≤ jp) → Memory.wf s.mem = true →
            Memory.num t.mem jp 8 / 2 ^ 62 % 2 = 1 ∧ Memory.num t.mem jp 8 % 2 ^ 62 = Memory.num s.mem jp 8 % 2 ^ 62) ∧
        (∀ m, x.saved = some [m] → x.savedBad = false → m.st.active.fills = [] → m.st.shadow.fills = [] → noSealedPush m.st → FMap.sorted m.rowBytes = true →
          (∀ e ∈ m.rowBytes, e.1 < 128 * x.rows) →
          ∃ t, exec (.crewBind key) s = .next t ∧ (t.ctx cx).st = m.st ∧ (t.ctx cx).task = some key ∧
            (∀ i < 128 * x.rows, Memory.get t.loc (lo + i) = FMap.getD m.rowBytes i 0) ∧
            (FMap.find t.tasks key).map (fun y => (y.state, y.phase, y.saved)) = some (.resident, .rest, none) ∧
            ∀ n, m.lns = some n → (FMap.getD t.cores (cx / 4) {}).lns = { n with owner := some cx })) ∧
      ((FMap.getD s.cores (cx / 4) {}).working = false → ∃ t, exec (.crewBind key) s = .next t ∧ t.ctxs = s.ctxs ∧
        sameButLinks s t (key :: levelOf s x.die x.level) ∧
        (FMap.find t.tasks key).map (fun y => (y.phase, y.place)) = some (.rest, none) ∧
        levelOf t x.die x.level = key :: levelOf s x.die x.level)) ∧
    (x.phase = .binding → s.clock.toNat < x.bindAt ∨ ¬ awakeCluster s (x.die * 32 + cl) → exec (.crewBind key) s = .next s) ∧
    (x.phase = .rest → x.state = .resident → (s.ctx cx).task = some key →
      ∃ t, exec (.preemption key) s = .next t ∧ (t.ctx cx).freeze = true ∧ (t.ctx cx).st = (s.ctx cx).st ∧ sameMemory s t ∧
        (FMap.find t.tasks key).map Task.phase = some (.freezing .ready none 0 false)) ∧
    (∀ after f m y, x.phase = .freezing after f m y → (s.ctx cx).freeze = true → (s.ctx cx).st.owed = 0 → (s.ctx cx).hold = none →
      (s.ctx cx).inStall = false → ((s.ctx cx).st.mode = .run ∨ (s.ctx cx).st.mode = .wait) → quiet s cx →
      ∃ t tick, exec (.preemption key) s = .next t ∧ (t.ctx cx).st.mode = .frozen ∧ (t.ctx cx).x = [] ∧ (t.ctx cx).fetchBuf = [] ∧
        sameRegisters (s.ctx cx).st (t.ctx cx).st ∧ (t.ctx cx).st.pc = (s.ctx cx).st.pc ∧ s.clock.toNat ≤ tick ∧
        (FMap.find t.tasks key).map Task.phase = some (.saving after tick f m y)) ∧
    (∀ tick f m, x.phase = .saving .ready tick f m false → tick ≤ s.clock.toNat → (s.ctx cx).rowBase = row →
      ∃ t q, exec (.preemption key) s = .next t ∧ FMap.find t.ctxs cx = none ∧
        (FMap.find t.tasks key).map (fun y => (y.state, y.phase, y.place, y.saved)) = some (.ready, .rest, none, some [q]) ∧
        sameRegisters (s.ctx cx).st q.st ∧ q.st.pc = (s.ctx cx).st.pc ∧ q.st.spill = (s.ctx cx).st.spill ∧ q.core = co ∧
        (∀ i < 128 * x.rows, FMap.getD q.rowBytes i 0 = Memory.get s.loc (lo + i)) ∧
        (∀ e ∈ q.st.flight, e.latch = none ∧ e.op ≠ .latchOnly) ∧
        levelOf t x.die x.prio = key :: levelOf s x.die x.prio ∧
        (let k := (x.jrec.getD 0 0).toNat / 2 ^ 40 % 2 ^ 8 * 16 + 10; FMap.getD t.acct k 0 = FMap.getD s.acct k 0 + 1))

/-- R177, R277, R278, R310, R311: a change of a word's bit marks the tasks parked on it whose form the new state allows, and its home takes
the word up; the word's next turn readies those that are PARKED, and the others stay. The save of a crew that parks leaves its task
PARKED, or READY at once where a change has marked it. -/
def Sys2Proof.Claims.ParkedTasksReturn : Prop :=
  (∀ (s : State) (key : Nat) (x : Task) (pa idx : Nat) (form : Form) (woken : List Nat), FMap.find s.tasks key = some x →
    Memory.wf s.mem = true → x.parkWord = some pa → inLpddr pa = true → formHolds form → Memory.num s.mem key 8 / 2 ^ 48 = 0 →
    inLpddr key = true →
    FMap.find (FMap.getD s.dies (homeDie pa) {}).parks (pa * 4096 + x.job) =
      some { job := x.job, word := pa, items := [(idx, key, form)], woken := woken } →
    FMap.sorted (FMap.getD s.dies (homeDie pa) {}).parks = true →
    (∀ p ∈ (FMap.getD s.dies (homeDie pa) {}).parks, p.2.word = pa → p.1 = pa * 4096 + x.job) →
    let marked := inSet woken key = true
    let returns (i : Instr) : Prop := ∃ t y, exec i s = .next t ∧ becomesReady s t key y ∧ y.prio = x.prio ∧ y.die = x.die ∧
      FMap.find (FMap.getD t.dies (homeDie pa) {}).parks (pa * 4096 + x.job) = none
    (∀ tick, x.phase = .saving .parked tick none 0 false → tick ≤ s.clock.toNat → x.place = none →
      (marked → returns (.parkSaveComplete key)) ∧
      (¬ marked → ∃ t, exec (.parkSaveComplete key) s = .next t ∧ t.full = s.full ∧
        (FMap.find t.tasks key).map (fun y => (y.state, y.phase, y.saved)) = some (.parked, .rest, some []) ∧
        Memory.num t.mem key 8 / 2 ^ 32 % 8 = 4)) ∧
    (x.state = .parked →
      (marked → returns (.parkedTaskRequeue pa)) ∧
      (¬ marked → ∃ t, exec (.parkedTaskRequeue pa) s = .next t ∧ t.tasks = s.tasks ∧ sameMemory s t)) ∧
    (x.phase = .rest → exec (.parkSaveComplete key) s = .next s)) ∧
  (∀ (s : State) (pa : Nat) (full : Bool) (k : Nat) (l : ParkList), inLpddr pa = true → pa % 8 = 0 → inSet s.bad (pa / 8) = false → inSet s.full (pa / 8) ≠ full →
    FMap.find (FMap.getD s.dies (homeDie pa) {}).parks k = some l → l.word = pa →
    let d := FMap.getD (s.setFull pa full).dies (homeDie pa) {}
    inSet (s.setFull pa full).full (pa / 8) = full ∧ pa ∈ d.waking ∧
    ∃ m, FMap.find d.parks k = some m ∧ m.items = l.items ∧
      ∀ key, key ∈ m.woken ↔ key ∈ l.woken ∨ ∃ i ∈ l.items, i.2.1 = key ∧
        ((i.2.2 = .wait ∨ i.2.2 = .take) ∧ full = true ∨ i.2.2 = .fill ∧ full = false ∨ i.2.2 = .force ∨ i.2.2 = .plain))

/-- R307, R308: the head record of a job is written into its slot once word 0 of the slot is empty, word 0 last and full, and FQPROD
moves on modulo the queue's size; while the slot is full the record waits; a fault queue that is not on an FE-tracked page halts the
job. -/
def Sys2Proof.Claims.FaultRecordsAreDelivered : Prop :=
  ∀ (s : State) (job : Nat),
    (FMap.getD s.records job [] = [] → exec (.faultRecordDelivery job) s = .next s) ∧
    ∀ r rest x j jp l, FMap.getD s.records job [] = r :: rest → FMap.find s.tasks r.task = some x → s.stored = true →
      s.jobRec x.die job = (some j, s) → s.jobPa x.die job = (some jp, s) →
      let prod := jobField j 6 31 0
      let n := 2 ^ jobField j 5 63 59
      let va := jobField j 5 55 6 * 64 + 64 * (prod % n)
      let sup := jobField j 2 55 7 * 128
      cachedAt s x.die (jobField j 0 15 0) va l →
      let pa := l.pa + (va - l.va)
      (l.fe = true → inSet s.full (pa / 8) = true → inSet s.bad (pa / 8) = false → inSet s.bad (tagAddr pa / 8) = false →
        exec (.faultRecordDelivery job) s = .next s) ∧
      (∀ m, l.fe = true → inLpddr pa = true → pa % 64 = 0 → memClean s pa 64 → inSet s.full (pa / 8) = false → unowned s pa 8 →
        unowned s (pa + 8) 56 → (jp + 64 ≤ pa ∨ pa + 64 ≤ jp) → (jp + 64 ≤ 4 * 0x3000000000) →
        cachedAt s x.die (jobField j 0 15 0) sup m → m.r = true → m.isSealed = false → m.co = false →
        (let k := m.pa + (sup - m.va)
         s.spoiled k 128 = false ∧ inLpddr k = true ∧ (k + 128 ≤ pa ∨ pa + 64 ≤ k) ∧ (k + 128 ≤ jp ∨ jp + 64 ≤ k) ∧
         1 < Memory.num s.mem k 8 / 2 ^ 32 % 8 ∧ Memory.num s.mem k 8 / 2 ^ 32 % 8 < 6) →
        ∃ t, exec (.faultRecordDelivery job) s = .next t ∧ FMap.getD t.records job [] = rest ∧ inSet t.full (pa / 8) = true ∧
          Memory.num t.mem pa 8 = (r.kind * 2 ^ 62 + r.cause * 2 ^ 40 + r.slot * 2 ^ 36 + r.len % 64 * 2 ^ 30 + r.member * 2 ^ 27) % 2 ^ 64 ∧
          (∀ i < 7, Memory.num t.mem (pa + 8 * (i + 1)) 8 =
            [r.record, r.addr, r.data, r.bundle, r.tick, r.place, 0].getD i 0 % 2 ^ 64) ∧
          Memory.num t.mem (jp + 48) 8 = (j.getD 6 0).toNat - prod + (prod + 1) % n ∧
          (∀ a, ¬ (pa ≤ a ∧ a < pa + 64) → ¬ (jp + 48 ≤ a ∧ a < jp + 56) → Memory.get t.mem a = Memory.get s.mem a) ∧
          t.tasks = s.tasks ∧ t.ctxs = s.ctxs) ∧
      (l.fe = false → inLpddr jp = true → ∃ t, exec (.faultRecordDelivery job) s = .next t ∧ FMap.getD t.records job [] = rest ∧
        Memory.num t.mem jp 8 / 2 ^ 62 % 2 = 1 ∧ Memory.num t.mem jp 8 % 2 ^ 62 = Memory.num s.mem jp 8 % 2 ^ 62)

namespace Sys2Proof.Claims

/-! ## Power (R357 to R388, Tables 18-1 to 18-10) -/

def clusterOf_ (s : State) (k : Nat) : Cluster := FMap.getD s.clusters k {}
def dieAt (s : State) (d : Nat) : Die := FMap.getD s.dies d {}
/-- A cluster holds a bound strand, or a context reserved for a dispatch. -/
def strandIn (s : State) (k : Nat) : Prop := ∃ e ∈ s.ctxs, e.1 / 32 = k ∧ e.2.task ≠ none
def reservedFor (s : State) (k : Nat) : Prop :=
  ∃ e ∈ s.tasks, e.2.phase = .binding ∧ ∃ p, e.2.place = some p ∧ e.2.die * 32 + p.cluster = k
/-- The number of slots of a pattern, and the pattern of the first slots of the ladder (R367). -/
def slotsIn (x : BitVec 16) : Nat := ((List.range 16).filter fun i => x.getLsbD i).length
def firstSlots (n : Nat) : BitVec 16 := BitVec.ofNat 16 ((([0, 8, 4, 12, 2, 10, 6, 14, 1, 9, 5, 13, 3, 11, 7, 15].take n).map (2 ^ ·)).sum)
/-- TARGET as it acts: 0 counts as ladder(1) where the cluster holds or awaits a strand. -/
def targetOf (s : State) (k : Nat) : BitVec 16 := if (clusterOf_ s k).target = 0 then firstSlots 1 else (clusterOf_ s k).target
/-- A thermal region of a cluster, and of its bank group. -/
def regionAt (s : State) (d r : Nat) : Therm := FMap.getD s.therm (64 * d + r) {}
def anyRegion (s : State) (k : Nat) (f : Therm → Prop) : Prop := f (regionAt s (k / 32) (k % 32)) ∨ f (regionAt s (k / 32) (32 + k % 32 / 2))
/-- The slot count that the caps leave a cluster (R367, R369, R380, R382). -/
def capIs (s : State) (k c : Nat) : Prop :=
  ∃ a b, (anyRegion s k (fun t => t.hard = true) → a = 4) ∧ (¬ anyRegion s k (fun t => t.hard = true) → a = 16) ∧
    ((s.govmode = true ∨ s.updPend = true) ∧ anyRegion s k (fun t => t.soft = true) → b = 8) ∧
    (¬ ((s.govmode = true ∨ s.updPend = true) ∧ anyRegion s k (fun t => t.soft = true)) → b = 16) ∧
    c = min (min a b) (dieAt s (k / 32)).capCount
/-- The governed target of a cluster (R367). -/
def governedIs (s : State) (k : Nat) (g : BitVec 16) : Prop :=
  (¬ strandIn s k ∧ ¬ reservedFor s k → g = 0) ∧
  (strandIn s k ∨ reservedFor s k → ∃ c, capIs s k c ∧ g = if c < slotsIn (targetOf s k) then firstSlots c else targetOf s k)
/-- One slew step: the lowest bit that may be set or cleared (R368). -/
def slewIs (eff g e : BitVec 16) : Prop :=
  (eff = g → e = eff) ∧
  (eff ≠ g → slotsIn eff ≤ slotsIn g → ∃ i < 16, g.getLsbD i = true ∧ eff.getLsbD i = false ∧
    (∀ j < i, ¬ (g.getLsbD j = true ∧ eff.getLsbD j = false)) ∧ e = eff ||| BitVec.ofNat 16 (2 ^ i)) ∧
  (slotsIn g < slotsIn eff → ∃ i < 16, eff.getLsbD i = true ∧ g.getLsbD i = false ∧
    (∀ j < i, ¬ (eff.getLsbD j = true ∧ g.getLsbD j = false)) ∧ e = eff &&& ~~~ BitVec.ofNat 16 (2 ^ i))
/-- Ticks before Nightfall (Table 18-4). -/
def nightTicks (s : State) : Nat := if s.nightdly = 0 then 4096 else s.nightdly.toNat
/-- Daybreak holds a request for a cluster. -/
def wakeAsked (s : State) (k : Nat) : Prop := (clusterOf_ s k).waking = true ∨ k ∈ (dieAt s (k / 32)).dayQueue
/-- A row that outlives the gating of its cluster: in a keep window, or of a crew that is bound there (Table 18-1). -/
def keptRow (s : State) (core row : Nat) : Prop :=
  row < 512 ∨ ∃ i < 4, (s.ctx (core * 4 + i)).task ≠ none ∧ (s.ctx (core * 4 + i)).rowBase ≤ row ∧
    row < (s.ctx (core * 4 + i)).rowBase + (s.ctx (core * 4 + i)).rows
/-- A scratchpad byte of a keep window. -/
def keepByte (k : Nat) : Prop := k % 2 ^ 20 < 512 * 128

/-- The model-update unit of a die, and a change to it alone. -/
def muOf (s : State) (d : Nat) : Mu := (dieAt s d).mu
def muBecomes (s t : State) (d : Nat) (m : Mu) : Prop :=
  t.dies = FMap.put s.dies d { dieAt s d with mu := m } ∧ t.mem = s.mem ∧ t.ctxs = s.ctxs ∧ t.wear = s.wear
/-- A page of memory. -/
def pageOf (m : Memory) (p : Nat) : List Byte := Memory.bytes m (p * 4096) 4096
/-- The journal area of a bank: the last 64 pages of its 32 MiB. -/
def bankOfPa (pa : Nat) : Nat := (pa - 2 ^ 40) / 2 ^ 25
def journalPage (bank i : Nat) : Nat := 2 ^ 28 + bank * 2 ^ 13 + 0x1FC0 + i

end Sys2Proof.Claims

/-- R365, R366, R367, R368: at a multiple of 256 ticks an awake cluster's pattern moves by one slot towards its governed target, the
lowest that may be set or cleared; at 0 with nothing bound or reserved the cluster goes to DOZE. At other ticks nothing moves. -/
def Sys2Proof.Claims.PatternsSlew : Prop :=
  ∀ (s : State) (k : Nat) (g e : BitVec 16), governedIs s k g → slewIs (clusterOf_ s k).eff g e →
    (s.clock.toNat % 256 ≠ 0 → exec (.slewStep k) s = .next s) ∧
    (s.clock.toNat % 256 = 0 → (clusterOf_ s k).mode = .active →
      ∃ t, exec (.slewStep k) s = .next t ∧ sameMemory s t ∧ t.ctxs = s.ctxs ∧
        let c := clusterOf_ t k
        c.eff = e ∧ (e ≠ 0 → c.mode = .active) ∧ (e = 0 → (strandIn s k ∨ reservedFor s k) → c.mode = .active) ∧
        (e = 0 → ¬ strandIn s k → ¬ reservedFor s k → c.mode = .doze ∧ c.since = s.clock.toNat) ∧
        (strandIn s k ∨ reservedFor s k → c.target = targetOf s k)) ∧
    (s.clock.toNat % 256 = 0 → (clusterOf_ s k).mode = .night → ∃ t, exec (.slewStep k) s = .next t ∧ sameMemory s t ∧
      (clusterOf_ t k).eff = (clusterOf_ s k).eff ∧ (clusterOf_ t k).mode = .night)

/-- R364, R365, R370, R371, R372: a cluster that has rested is spilled and gated, unless a wake is asked or the save store lacks room; its
strands are dormant, a SEALED buffer and a sealed push are their lists alone (R398), EFF is retained, and the rows outside keep windows
and crews are lost, which read zero from then on (the model's choice, assumption 23). A
dormant strand whose wake event has come queues its cluster; Daybreak wakes at most four clusters of a die, each from the head of the
queue, restores their strands and returns the save space that they took; its place is free at the cluster's first cycle. The tick of a
restore, which Table 18-5 only bounds, is the model's choice (assumption 99). -/
def Sys2Proof.Claims.NightfallAndDaybreak : Prop :=
  ∀ (s : State) (k : Nat),
    let c := clusterOf_ s k
    let d := dieAt s (k / 32)
    let now := s.clock.toNat
    (c.mode = .doze → now % 4096 = 0 → c.since + nightTicks s ≤ now → ¬ wakeAsked s k →
      exec (.nightfall k) s = .next { s with clusters := FMap.put s.clusters k { c with mode := .nightfall, timer := now + 2500 } }) ∧
    (c.mode = .active → now % 4096 = 0 → ¬ wakeAsked s k → strandIn s k →
      (∀ i < 8, let q := FMap.getD s.cores (k * 8 + i) {}; q.gated = true ∧ q.gatedSince + nightTicks s ≤ now) →
      (∀ e ∈ s.ctxs, e.1 / 32 = k → e.2.st.pend = [] ∧ ∀ m ∈ s.cmds, m.cx ≠ e.1) →
      let n := s.spillBytes k
      (n ≤ s.boot.savesz.toNat * 2 ^ 20 - d.saveUsed →
        ∃ t, exec (.nightfall k) s = .next t ∧ sameMemory s t ∧ (clusterOf_ t k).mode = .nightfall ∧
          (clusterOf_ t k).timer = now + (n + 63) / 64 + 2500 ∧ (dieAt t (k / 32)).saveUsed = d.saveUsed + n ∧
          (clusterOf_ t k).eff = c.eff ∧ (clusterOf_ t k).spilled = n ∧
          ∀ cx, cx / 32 = k → (s.ctx cx).task ≠ none → (t.ctx cx).dormant = true ∧
            (t.ctx cx).st = { (s.ctx cx).st with
              active := (s.ctx cx).st.active.saved, shadow := (s.ctx cx).st.shadow.saved
              flight := (s.ctx cx).st.flight.map Flight.sealedAway }) ∧
      (s.boot.savesz.toNat * 2 ^ 20 - d.saveUsed < n → exec (.nightfall k) s = .next s)) ∧
    (c.mode = .nightfall → c.timer ≤ now → s.stored = true →
      ∃ t, exec (.nightfall k) s = .next t ∧ (clusterOf_ t k).mode = .night ∧ t.mem = s.mem ∧ t.ctxs = s.ctxs ∧
        ∀ b, let core := b / 2 ^ 20
          (core / 8 = k → ¬ keptRow s core (b % 2 ^ 20 / 128) → Memory.get t.loc b = 0) ∧
          (core / 8 ≠ k ∨ keptRow s core (b % 2 ^ 20 / 128) → Memory.get t.loc b = Memory.get s.loc b)) ∧
    (c.mode = .nightfall → now < c.timer → exec (.nightfall k) s = .next s) ∧
    ((c.mode = .night ∨ c.mode = .daybreak) → exec (.nightfall k) s = .next s) ∧
    (∀ cx tick check, cx / 32 = k → (s.ctx cx).dormant = true → (s.ctx cx).dawnHeld = false → (s.ctx cx).st.mode = .sleep tick check →
      tick ≤ now → c.mode = .night → ¬ wakeAsked s k →
      exec (.dormantWakeEvent cx) s = .next { s with dies := FMap.put s.dies (k / 32) { d with dayQueue := d.dayQueue ++ [k] } }) ∧
    (∀ cx, (s.ctx cx).dormant = false → exec (.dormantWakeEvent cx) s = .next s) ∧
    (let busy := ((List.range 32).filter fun i => (clusterOf_ s (k / 32 * 32 + i)).waking).length
     (c.waking = false → d.dayQueue.head? = some k → busy < 4 → c.mode = .night →
      ∃ t, exec (.daybreak k) s = .next t ∧ sameMemory s t ∧ (dieAt t (k / 32)).dayQueue = d.dayQueue.drop 1 ∧
        clusterOf_ t k = { c with mode := .daybreak, waking := true, eff := 0, timer := now + 12750 + (c.spilled + 63) / 64 }) ∧
     (c.waking = false → d.dayQueue.head? ≠ some k ∨ 4 ≤ busy → exec (.daybreak k) s = .next s)) ∧
    (c.waking = true → c.mode = .active → exec (.daybreak k) s = .next (if c.eff.getLsbD (now % 16) then
      { s with clusters := FMap.put s.clusters k { c with waking := false } } else s)) ∧
    (c.waking = true → c.mode = .daybreak → c.timer ≤ now →
      (∀ cx, cx / 32 = k → (s.ctx cx).st.active.fills = [] ∧ (s.ctx cx).st.shadow.fills = [] ∧ noSealedPush (s.ctx cx).st) →
      ∃ t, exec (.daybreak k) s = .next t ∧ sameMemory s t ∧ t.boot.dawn = s.boot.dawn.filter (fun j => j ≠ k) ∧
        (clusterOf_ t k).spilled = 0 ∧ (dieAt t (k / 32)).saveUsed = d.saveUsed - c.spilled ∧
        ∀ cx, cx / 32 = k → (t.ctx cx).dormant = false ∧ (t.ctx cx).st = (s.ctx cx).st ∧ (t.ctx cx).dawnHeld = (s.ctx cx).dawnHeld)

/-- R369, R378 to R382: the current estimate every 64 ticks and its cap every 256; the damage integral of a sample, with the nearest
integer to 256 × 2^((T − 85) / 10), and the SOFT and HARD bits as the integral and the budgets make them, with the alert and the power
controller's interrupt when SOFT rises; the watchdog, its kick, and HARDB, whose first write counts. -/
def Obligations.LimitsAndGovernor : Prop :=
  ∀ s : State,
    let judged (t : State) (d r D hardb : Nat) (x : Therm) : Prop :=
      let y := regionAt t d r
      let rises := x.softb.toNat ≤ D ∧ x.soft = false
      y.d.toNat = D ∧ y.hardb.toNat = hardb ∧ y.softb = x.softb ∧ y.allow = x.allow ∧ y.soft = decide (x.softb.toNat ≤ D) ∧
      y.hard = (if hardb ≤ D then true else if D < hardb - hardb / 8 then false else x.hard) ∧
      t.mgmtOut = s.mgmtOut ++ (if rises then [.alert d r] else []) ∧ t.powerIrqs = s.powerIrqs ++ (if rises then [(d, r)] else [])
    (∀ (d : Nat) (amps : BitVec 16), let x := dieAt s d
      (s.clock.toNat % 64 ≠ 0 → exec (.currentLimitStep d amps) s = .next s) ∧
      (s.clock.toNat % 64 = 0 → exec (.currentLimitStep d amps) s = .next { s with dies := FMap.put s.dies d { x with
        iest := amps
        capCount := if s.clock.toNat % 256 ≠ 0 then x.capCount else if x.ilim.toNat < amps.toNat then max 1 (x.capCount - 1)
          else if 16 * amps.toNat < 15 * x.ilim.toNat then min 16 (x.capCount + 1) else x.capCount } })) ∧
    (∀ (d r : Nat) (temp : BitVec 16), r < 60 ∨ (r = 60 ∧ d < 2) →
      let x := regionAt s d r
      let m := temp.toInt - 40
      let sampled (D : Nat) : Prop := ∃ t, exec (.thermalSample d r temp) s = .next t ∧ judged t d r D x.hardb.toNat x ∧
        (regionAt t d r).temp = temp
      (∀ n : Nat, -80 < m → m < 2640 → (n = 0 ∨ (2 * n - 1) ^ 80 ≤ 2 ^ (m + 80).toNat) → 2 ^ (m + 80).toNat < (2 * n + 1) ^ 80 →
        sampled (min (2 ^ 32 - 1) (x.d.toNat + n - x.allow.toNat))) ∧
      (m ≤ -80 → sampled (x.d.toNat - x.allow.toNat)) ∧ (2640 ≤ m → sampled (2 ^ 32 - 1))) ∧
    (∀ (d r : Nat) (temp : BitVec 16), ¬ (r < 60 ∨ (r = 60 ∧ d < 2)) → exec (.thermalSample d r temp) s = .next s) ∧
    exec .watchdogExpiry s = .next (if s.lastKick + 12500000 ≤ s.clock.toNat then { s with govmode := true } else s) ∧
    exec .kick s = .next (if s.boot.powerRefused then s else { s with lastKick := s.clock.toNat, govmode := false }) ∧
    ∀ (d r : Nat) (v : BitVec 32), let x := regionAt s d r
      (x.hardbWritten = true → exec (.hardbWrite d r v) s = .next s) ∧
      (x.hardbWritten = false → r < 64 → ∃ t, exec (.hardbWrite d r v) s = .next t ∧ judged t d r x.d.toNat v.toNat x ∧
        (regionAt t d r).hardbWritten = true ∧ (regionAt t d r).temp = x.temp)

/-- R384, R385, R397: the commands of a model update in the states of Table 18-8, and the end of the copy. A command that its state does
not take sets ERR to SEQ and nothing else. A page that reads back at its first attempt is staged in a free journal page of its bank,
and copied to its destination at the end; a worn page stops the transaction in its state. That an accepted command clears ERR, and
that WEAR leaves the state while staging as it was, is the model's reading (assumption 63). -/
def Obligations.ModelUpdate : Prop :=
  ∀ (s : State) (d : Nat), Memory.wf s.mem = true →
    let m := muOf s d
    let refused (i : Instr) (code : Byte) : Prop := ∃ t, exec i s = .next t ∧ muBecomes s t d { m with err := code }
    ((m.mode = .idle ∨ m.mode = .done) → ∃ t, exec (.muOpen d) s = .next t ∧
      muBecomes s t d { m with mode := .opened, stxn := m.txn, staged := 0, err := 0 }) ∧
    (m.mode = .opened ∨ m.mode = .staging ∨ m.mode = .committing → refused (.muOpen d) 1) ∧
    (m.mode ≠ .opened → m.mode ≠ .staging → refused (.muStage d) 1 ∧ refused (.muAbort d) 1) ∧
    (m.mode ≠ .staging → refused (.muCommit d) 1) ∧
    (m.mode = .opened ∨ m.mode = .staging →
      (∃ t, exec (.muAbort d) s = .next t ∧
        muBecomes s t d { m with mode := .idle, err := 0, journal := m.journal.filter fun j => j.committed || j.txn != m.stxn.toNat }) ∧
      let dst := m.dst.toNat * 4096
      let src := m.src.toNat * 4096
      let bank := bankOfPa dst
      let inRange := 2 ^ 40 + d * 2 ^ 33 ≤ dst ∧ dst < 2 ^ 40 + (d + 1) * 2 ^ 33 ∧ dst % 2 ^ 25 < 0x1FC0000 ∧ d < 4 ∧ inLpddr src = true
      (¬ (2 ^ 40 ≤ dst ∧ dst < 2 ^ 40 + 2 ^ 35 ∧ dst % 2 ^ 25 < 0x1FC0000) → refused (.muStage d) 4) ∧
      (inRange → (∀ i < 64, ∃ j ∈ m.journal, j.page = journalPage bank i) → refused (.muStage d) 3) ∧
      (∀ i < 64, inRange → m.keyslot = 0 → (∀ j ∈ m.journal, j.page ≠ journalPage bank i) →
        (∀ n < i, ∃ j ∈ m.journal, j.page = journalPage bank n) →
        let p := journalPage bank i
        let w := (FMap.getD s.wear p 0).toNat
        (m.wearlim.toNat ≤ w → refused (.muStage d) 5) ∧
        (w < m.wearlim.toNat → ∃ t, exec (.muStage d) s = .next t ∧
          (Config.pageWriteHolds s.free = true → pageOf t.mem p = pageOf s.mem m.src.toNat ∧ (muOf t d).mode = .staging ∧
            (muOf t d).staged = m.staged + 1 ∧ (muOf t d).err = 0 ∧ (muOf t d).retries = 1 ∧
            (FMap.getD t.wear p 0).toNat = min (2 ^ 32 - 1) (w + 1) ∧
            ∃ j, (muOf t d).journal = m.journal ++ [j] ∧ j.txn = m.stxn.toNat ∧ j.dest = m.dst.toNat ∧ j.page = p ∧ j.committed = false ∧
              j.crc = crc32c (pageOf s.mem m.src.toNat)) ∧
          ∀ a, a / 4096 ≠ p → Memory.get t.mem a = Memory.get s.mem a))) ∧
    (m.mode = .staging → ∃ t n, exec (.muCommit d) s = .next t ∧ s.clock.toNat ≤ n ∧
      muBecomes s t d { m with mode := .committing, err := 0, doneAt := n
                               journal := m.journal.map fun j => if j.txn = m.stxn.toNat then { j with committed := true } else j }) ∧
    (m.mode ≠ .committing ∨ m.failed = true → exec (.muCommitDone d) s = .next s) ∧
    (∀ j, m.mode = .committing → m.failed = false → m.journal.filter (fun j => j.txn = m.stxn.toNat) = [j] → j.dest ≠ j.page → j.sealTag = 0 →
      (FMap.getD s.wear j.dest 0).toNat < m.wearlim.toNat →
      ∃ t, exec (.muCommitDone d) s = .next t ∧ (Config.pageWriteHolds s.free = true → pageOf t.mem j.dest = pageOf s.mem j.page ∧
        (muOf t d).mode = .done ∧ (muOf t d).journal = m.journal.filter fun j => j.txn ≠ m.stxn.toNat) ∧
        ∀ a, a / 4096 ≠ j.dest → Memory.get t.mem a = Memory.get s.mem a) ∧
    (∀ j js, m.mode = .committing → m.failed = false → m.journal.filter (fun j => j.txn = m.stxn.toNat) = j :: js →
      m.wearlim.toNat ≤ (FMap.getD s.wear j.dest 0).toNat → ∃ t, exec (.muCommitDone d) s = .next t ∧
        muBecomes s t d { m with err := 5, failed := true })

/-- R357 to R362, R373 to R377, R381, R388: a power failure turns the module off with an image of its strands; LPDDR6, its full/empty
bits and the rows above the keep windows are lost, MRAM and the keep windows stay, and a shutdown for temperature keeps the module off
until power is removed. Boot sets READY, restores a valid image with its clock and its keep windows, and holds its strands until the
release, which waits for the last restore; without an image the clock counts from 0. A release writes back the scheduler's words; a
discard frees the restored contexts. R386: before that, boot discards pages that no commit record covers and copies a committed one
again; where it cannot be written it stays for the next boot, which is the model's reading (assumption 84). R402: refused boot or
management firmware stops the boot. R357: a held bundle whose access has been performed commits first, and any other is withdrawn. -/
def Obligations.DuskBootAndDawn : Prop :=
  ∀ s : State, s.stored = true →
    (s.boot.powered = true → s.boot.held = false → (∀ e ∈ s.ctxs, ∀ h, e.2.hold = some h → h.commits = false) → FMap.sorted s.ctxs = true →
      ∀ i ∈ [Instr.powerFail, .overtempShutdown], ∃ t img, exec i s = .next t ∧ t.boot.powered = false ∧
        t.boot.locked = decide (i = .overtempShutdown) ∧ t.image = some img ∧ img.valid = true ∧ img.crcOk = true ∧ img.clock = s.clock ∧
        img.modid = s.boot.modid ∧ t.ctxs = [] ∧ t.full = [] ∧ t.cmds = [] ∧ t.agenda = [] ∧
        (∀ a, Memory.get t.mem a = if a < 4 * 0x3000000000 then 0 else Memory.get s.mem a) ∧
        (∀ b, (keepByte b → Memory.get t.loc b = Memory.get s.loc b) ∧ (¬ keepByte b → Memory.get t.loc b = 0)) ∧
        ∀ cx, (s.ctx cx).task ≠ none → ∃ c, FMap.find img.ctxs cx = some c ∧ sameRegisters (s.ctx cx).st c.st ∧
          c.st.pc = (s.ctx cx).st.pc ∧ c.st.owed = (s.ctx cx).st.owed ∧ c.x = (s.ctx cx).x ∧ c.runs = (s.ctx cx).runs ∧
          c.st.flight.length = (s.ctx cx).st.flight.length ∧ c.dormant = true ∧ c.dawnHeld = true ∧ c.hold = none ∧
          ((s.ctx cx).st.mode = .hold → c.st.mode = .run)) ∧
    (∀ cx h b o v r, s.boot.powered = true → s.boot.held = false → FMap.sorted s.ctxs = true → (s.ctx cx).task ≠ none →
      (∀ e ∈ s.ctxs, e.1 ≠ cx → e.2.hold = none) → (s.ctx cx).st.mode = .hold → (s.ctx cx).hold = some h → h.req = some r →
      h.lreq = none → h.got = some v → decodeBundle h.bytes = some b → b.head.wait = false → b.head.stop = false → o.form = .take →
      b.slots.map (fun x => x.2.2.toOption) = [some (.s (.ldLoc o))] → Pred.holds o.p h.q = true →
      (FMap.getD s.cores (cx / 4) {}).lns.mode ≠ .running → (s.ctx cx).st.flight = [] →
      localRow (seenFrom s cx) o.a (wordRowOff o.imm) < (s.ctx cx).rows →
      ∃ t img c, exec .powerFail s = .next t ∧ t.image = some img ∧ FMap.find img.ctxs cx = some c ∧ c.hold = none ∧ c.st.mode = .run ∧
        c.st.pc = (s.ctx cx).st.pc + BitVec.ofNat 56 h.bytes.length ∧
        c.st.flight.map Flight.op = [(gEntry (seenFrom s cx) o.d 1 v (res64 v)).op] ∧ sameRegisters (s.ctx cx).st c.st) ∧
    (s.boot.powered = false → exec .powerFail s = .next { s with boot := { s.boot with locked := false } } ∧
      exec .overtempShutdown s = .next s ∧ (s.boot.locked = true → exec .powerOnBoot s = .next s)) ∧
    (s.boot.powered = false → s.boot.locked = false → (∀ d, (muOf s d).journal = []) →
      ∃ t, exec .powerOnBoot s = .next t ∧ t.boot.powered = true ∧ t.mem = s.mem ∧ t.boot.fw = s.free ∧
        (t.boot.powerRefused = true ↔ fwAccepted s.free 2 = false) ∧
        (fwAccepted s.free 0 = false ∨ fwAccepted s.free 1 = false → t.boot.ready = s.boot.ready ∧ t.ctxs = s.ctxs ∧ t.clock = 0) ∧
        (fwAccepted s.free 0 = true → fwAccepted s.free 1 = true → t.boot.ready = true ∧
          (s.image = none → t.boot.image = 0 ∧ t.ctxs = s.ctxs ∧ t.clock = 0 ∧ sameMemory s t) ∧
          (∀ img, s.image = some img → img.valid = true → img.crcOk = true →
            t.boot.image = 1 ∧ (t.boot.held = true ↔ img.ctxs ≠ []) ∧ t.clock = img.clock ∧ t.boot.modid = img.modid ∧ t.ctxs = img.ctxs ∧
            t.tasks = img.tasks ∧ t.loc = img.loc ∧ t.locFull = img.locFull ∧ t.full = s.full) ∧
          (∀ img, s.image = some img → (img.valid = false ∨ img.crcOk = false) →
            t.boot.image = 2 ∧ t.image = none ∧ t.ctxs = s.ctxs ∧ t.clock = 0 ∧ sameMemory s t))) ∧
    (∀ d < 4, s.boot.powered = false → s.boot.locked = false → fwAccepted s.free 0 = true → fwAccepted s.free 1 = true →
      (∀ e, e ≠ d → (muOf s e).journal = []) →
      let m := muOf s d
      let settles (ok : State → Prop) : Prop := ∃ t, exec .powerOnBoot s = .next t ∧ (muOf t d).mode = .idle ∧ ok t
      ((∀ j ∈ m.journal, j.committed = false) → settles fun t => t.mem = s.mem ∧ (muOf t d).journal = []) ∧
      ∀ j, m.journal.filter Journal.committed = [j] → j.dest ≠ j.page → let w := (FMap.getD s.wear j.dest 0).toNat
        (w < m.wearlim.toNat → settles fun t => (Config.pageWriteHolds (s.free + 1) = true → pageOf t.mem j.dest = pageOf s.mem j.page ∧
            (muOf t d).journal = [] ∧ (muOf t d).err = 0) ∧ ∀ a, a / 4096 ≠ j.dest → Memory.get t.mem a = Memory.get s.mem a) ∧
        (m.wearlim.toNat ≤ w → settles fun t => t.mem = s.mem ∧ (muOf t d).journal = [j] ∧ (muOf t d).err = 5)) ∧
    (s.boot.held = false → exec .release s = .next s ∧ exec .discard s = .next s) ∧
    (s.boot.held = true → s.boot.dawn ≠ [] →
      exec .release s = .next { s with boot := { s.boot with releaseReq := true } }) ∧
    (s.boot.held = true → s.boot.dawn = [] → (s.image.map Image.owed).getD [] = [] →
      ∃ t, exec .release s = .next t ∧ t.boot.held = false ∧ t.boot.releaseReq = false ∧ t.loc = s.loc ∧
        (∀ cx, (s.ctx cx).dawnHeld = true → t.ctx cx = { s.ctx cx with dawnHeld := false }) ∧
        ∀ key w0 w15, (s.image.map Image.recs).getD [] = [(key, w0, w15)] → inLpddr key = true → inLpddr (key + 120) = true →
          Memory.num t.mem key 8 = w0 % 2 ^ 64 ∧ Memory.num t.mem (key + 120) 8 = w15 % 2 ^ 64) ∧
    (s.boot.held = true → FMap.sorted s.ctxs = true → ∃ t, exec .discard s = .next t ∧ sameMemory s t ∧ t.boot.held = false ∧ t.boot.image = 3 ∧
      (∀ cx, (s.ctx cx).dawnHeld = true → FMap.find t.ctxs cx = none) ∧ (∀ cx, (s.ctx cx).dawnHeld = false → t.ctx cx = s.ctx cx) ∧
      ∀ cx, (s.ctx cx).dawnHeld = true → (∀ e ∈ s.ctxs, e.1 / 32 = cx / 32 → e.2.dawnHeld = true) → ¬ reservedFor t (cx / 32) →
        (clusterOf_ t (cx / 32)).mode = .night)

namespace Sys2Proof.Claims

/-! ## Links, alarms and counters (R11, R323 to R326, R393 to R396, R401, R406, R407) -/

def portAt (s : State) (p : Nat) : Port := FMap.getD s.ports p {}
/-- Port `p` has changed to `x`, and no other. -/
def portBecomes (s t : State) (p : Nat) (x : Port) : Prop := ∀ q, portAt t q = if q = p then x else portAt s q
/-- A 32-bit counter that saturates, raised by 1. -/
def counted (v w : BitVec 32) : Prop := w.toNat = min (2 ^ 32 - 1) (v.toNat + 1)
/-- The tags of a source module and die that a home keeps. -/
def keptOf (s : State) (t : Tag) (home : Nat) : List Applied :=
  s.applied.filter fun a => a.tag.mod = t.mod ∧ a.tag.die = t.die ∧ a.home = home
/-- A tag is older than another, modulo 2^21. -/
def olderThan (a b : Nat) : Prop := 0 < (b + 2 ^ 21 - a) % 2 ^ 21 ∧ (b + 2 ^ 21 - a) % 2 ^ 21 < 2 ^ 20
/-- The leaf through which a destination reaches a request's range, in an address space that is valid and open to peers. -/
def peerLeaf (s : State) (sh : Shard) (va n : Nat) (l : Leaf) : Prop :=
  (s.asnEntry sh.asn).1 = 1 ∧ (s.asnEntry sh.asn).2.1 = true ∧ cachedAt s (sh.port % 4) sh.asn va l ∧ va + n ≤ l.va + l.size
/-- A leaf that neither a seal nor a compute-only mark closes. -/
def openLeaf (s : State) (l : Leaf) (va : Nat) : Prop := l.isSealed = false ∧ s.sealTag (l.pa + (va - l.va)) = 0 ∧ l.co = false
/-- An answer with its CRC, and a request's and an answer's that are good (R394). -/
def answerOf (tag : Tag) (code : Option Byte) (v : BitVec 1024) : Answer :=
  { tag := tag, code := code, value := v, crc := answerCrc tag code v }
def goodShard (sh : Shard) : Prop := sh.crc = shardCrc sh.tag sh.asn sh.op
def goodAnswer (tag : Tag) (code : Byte) (v : BitVec 1024) (crc : BitVec 32) : Prop := crc = answerCrc tag (some code) v
/-- A port carries traffic: it is up and does not retrain (R396). -/
def carriesOn (s : State) (p : Nat) : Prop := p < 9 ∧ (portAt s p).rate ≠ 3 ∧ (portAt s p).retrain = none
/-- An answer has been sent, and nothing else. -/
def answers (s : State) (tag : Tag) (code : Option Byte) (v : BitVec 1024) : State := { s with replies := s.replies ++ [answerOf tag code v] }
/-- The request has been performed and answered; a writing request is remembered at its home with its result, and a home keeps up to
4,096 of a source. -/
def appliedOnce (s t : State) (sh : Shard) (home : Nat) (writes : Bool) (v : BitVec 1024) : Prop :=
  let noted : Applied := { tag := sh.tag, home := home, result := v }
  t.replies = s.replies ++ [answerOf sh.tag (some 0) v] ∧ (writes = false → t.applied = s.applied) ∧
  (writes = true → noted ∈ t.applied ∧ (∀ a ∈ t.applied, a ∈ s.applied ∨ a = noted) ∧
    (∀ a ∈ s.applied, a ∉ keptOf s sh.tag home → a ∈ t.applied) ∧
    ((keptOf s sh.tag home).length < 4096 → ∀ a ∈ s.applied, a ∈ t.applied) ∧
    ((keptOf s sh.tag home).length ≤ 4096 → (keptOf t sh.tag home).length ≤ 4096))
/-- What is not memory, an answer or the filter. -/
def sameStrands (s t : State) : Prop := t.ctxs = s.ctxs ∧ t.loc = s.loc ∧ t.host0 = s.host0 ∧ t.host1 = s.host1 ∧ t.outReqs = s.outReqs
/-- The request that is outstanding under a tag. -/
def outstanding (s : State) (tag : Tag) (r : OutReq) : Prop := s.outReqs.find? (fun q => q.tag = tag) = some r
/-- It is outstanding no longer. -/
def ended (s t : State) (tag : Tag) : Prop := t.outReqs = s.outReqs.filter fun q => q.tag ≠ tag
/-- No other request is held back behind it. -/
def noneHeld (s : State) (tag : Tag) : Prop := ∀ q ∈ s.outReqs, q.tag ≠ tag → q.waiting = false
/-- A counter of an account slot. -/
def acctOf (s : State) (slot i : Nat) : Word := FMap.getD s.acct (slot * 16 + i) 0

end Sys2Proof.Claims

/-- R11, R396: a sample sets MINMARG to the least code of the lanes; the sixteenth in a row below DNTH steps the port down, or takes it
down from the lowest rate; with AUTOUP, a margin at or above UPTH for 2^30 ticks steps it up, as UP does; a step retrains the port
within 25,000 ticks and counts in STEPS. A port of the host interface that trains is up. That STEPS saturates, that going down and
coming up count in it, and that AUTOUP does not bring a down port up is the model's choice (assumption 85). An answer that waited for a
port is sent when one has retrained. -/
def Obligations.PortsChangeRate : Prop :=
  (∀ (s : State) (p : Nat) (ms : List Byte) (m : Byte), m ∈ ms → (∀ b ∈ ms, m ≤ b) →
    let x := portAt s p
    let low := if m < x.dnth then x.low + 1 else 0
    let high := if m < x.upth then none else some (x.highSince.getD s.clock.toNat)
    let rises := x.autoup = true ∧ x.rate ≠ 0 ∧ ∃ t, high = some t ∧ t + 2 ^ 30 ≤ s.clock.toNat
    ∃ t, exec (.eyeMarginSample p ms) s = .next t ∧ sameMemory s t ∧ t.ctxs = s.ctxs ∧
      (x.rate = 3 ∨ (low < 16 ∧ ¬ rises) → portBecomes s t p { x with minmarg := m, low := low, highSince := high }) ∧
      (x.rate = 2 → 16 ≤ low → ∃ n, counted x.steps n ∧
        portBecomes s t p { x with minmarg := m, rate := 3, low := 0, highSince := none, steps := n, retrain := none }) ∧
      (x.rate ≠ 3 → x.rate ≠ 2 → 16 ≤ low → ∃ n d, counted x.steps n ∧ d ≤ 25000 ∧
        portBecomes s t p { x with minmarg := m, rate := x.rate + 1, low := 0, highSince := none, steps := n
                                   retrain := some (s.clock.toNat + d) }) ∧
      (x.rate ≠ 3 → low < 16 → rises → ∃ n d, counted x.steps n ∧ d ≤ 25000 ∧
        portBecomes s t p { x with minmarg := m, rate := x.rate - 1, low := 0, highSince := none, steps := n
                                   retrain := some (s.clock.toNat + d) })) ∧
  (∀ (s : State) (p : Nat), let x := portAt s p
    (x.rate = 0 → exec (.portUp p) s = .next s) ∧
    (x.rate ≠ 0 → ∃ t n d, exec (.portUp p) s = .next t ∧ counted x.steps n ∧ d ≤ 25000 ∧ sameMemory s t ∧ t.ctxs = s.ctxs ∧
      portBecomes s t p { x with rate := x.rate - 1, low := 0, highSince := none, steps := n, retrain := some (s.clock.toNat + d) }) ∧
    ∃ t, exec (.portRetrainEnd p) s = .next t ∧ portBecomes s t p { x with retrain := none } ∧ sameMemory s t ∧
      (p < 9 → x.rate ≠ 3 → t.replies = s.replies ++ s.repliesDue ∧ t.repliesDue = [])) ∧
  ∀ (s : State) (p : Nat) (flit : Bool), exec (.pcieLinkUp p flit) s =
    .next { s with linkUp := FMap.put s.linkUp p true, linkFlit := FMap.put s.linkFlit p flit }

/-- R282, R323, R325, R394: a shard that fails its CRC is dropped and counted, with a negative acknowledgement where its header is intact;
one whose tag its home has applied is answered from that home's filter; one older than all of a full filter is discarded; any other is
performed once at the home that its address space gives, or answered SEALED or XLAT. The ranges named lie in one page. A port that is
down or retrains brings nothing (R396). That a tag is stale only where its filter is full (assumption 62), and that CRCDROP saturates
(assumption 85), is the model's. -/
def Sys2Proof.Claims.ShardsAreAppliedOnce : Prop :=
  ∀ (s : State) (sh : Shard), s.stored = true →
    let x := portAt s sh.port
    let writes := match sh.op with | .load _ _ => false | _ => true
    let runs (t : State) : Prop := exec (.shardReceive sh) s = .next t
    let isNew (home : Nat) : Prop := writes = true → (∀ a ∈ keptOf s sh.tag home, a.tag ≠ sh.tag) ∧
      ((keptOf s sh.tag home).length < 4096 ∨ ∃ a ∈ keptOf s sh.tag home, ¬ olderThan sh.tag.seq a.tag.seq)
    ((portAt s sh.port).rate = 3 ∨ (portAt s sh.port).retrain ≠ none → runs s) ∧
    (carriesOn s sh.port → ¬ goodShard sh → ∃ t n, runs t ∧ counted x.crcdrop n ∧ portBecomes s t sh.port { x with crcdrop := n } ∧
      t.replies = s.replies ++ (if sh.headerOk then [answerOf sh.tag none 0] else []) ∧ t.mem = s.mem ∧ t.applied = s.applied) ∧
    (∀ home, carriesOn s sh.port → goodShard sh → writes = true → s.homeOfOp (sh.port % 4) sh.asn sh.op = some home →
      (∀ a, s.applied.find? (fun a => a.tag = sh.tag ∧ a.home = home) = some a → runs (answers s sh.tag (some 0) a.result)) ∧
      (4096 ≤ (keptOf s sh.tag home).length → (∀ a ∈ keptOf s sh.tag home, olderThan sh.tag.seq a.tag.seq) → runs s)) ∧
    (∀ va n, carriesOn s sh.port → goodShard sh → 0 < n →
      (sh.op = .load va n ∨ (∃ d f, sh.op = .store va d f ∧ d.length = n) ∨ (∃ op c e, sh.op = .atomic op va c e ∧ n = 8)) →
      ((s.asnEntry sh.asn).1 ≠ 1 ∨ (s.asnEntry sh.asn).2.1 = false → runs (answers s sh.tag (some 5) 0)) ∧
      ∀ l, peerLeaf s sh va n l → ¬ openLeaf s l va → runs (answers s sh.tag (some 4) 0)) ∧
    (∀ va n l, let pa := l.pa + (va - l.va)
      let home := homeOf pa
      let done (t : State) (wr : Bool) (v : BitVec 1024) : Prop := runs t ∧ appliedOnce s t sh home wr v ∧ sameStrands s t
      carriesOn s sh.port → goodShard sh → isNew home → 0 < n → va % 4096 + n ≤ 4096 → peerLeaf s sh va n l → openLeaf s l va → inLpddr pa = true →
      memClean s pa n → unowned s pa n →
      (sh.op = .load va n → n ≤ 128 → l.r = true →
        ∃ t, done t false (BitVec.ofNat 1024 (Memory.num s.mem pa n)) ∧ sameMemory s t) ∧
      (∀ d f, sh.op = .store va d f → d.length = n → l.w = true → ∃ t, done t true 0 ∧ storedIn s.mem t.mem pa n (leValue d) ∧
        (f = false ∨ l.fe = false → t.full = s.full) ∧
        (f = true → l.fe = true → ∀ w, pa ≤ 8 * w → 8 * w + 8 ≤ pa + n → inSet t.full w = true)) ∧
      (∀ r ∈ atomicRows, ∀ c e, sh.op = .atomic r.2.2.2.2.1 va c e → n = 8 → l.r = true → l.w = true →
        let old := Memory.num s.mem pa 8
        ∃ t, done t true ((atomicValue r.2.2.2.2.1 64 old).setWidth 1024) ∧
          storedOpt s.mem t.mem pa 8 (r.2.2.2.2.2 64 old c.toNat e.toNat)) ∧
      (∀ row cnt, sh.op = .reduce .s32 va row 0 cnt ∨ sh.op = .addElems .s32 va row → n = 128 → row.length = 128 → l.w = true →
        ∃ t, done t true 0 ∧
          (∀ i < 32, word32 t.mem (pa + 4 * i) =
            (clamp32 (signedN 32 (word32 s.mem (pa + 4 * i)) + signedN 32 (leValue ((row.drop (4 * i)).take 4))) % 2 ^ 32).toNat) ∧
          ∀ a, ¬ (pa ≤ a ∧ a < pa + 128) → Memory.get t.mem a = Memory.get s.mem a))

/-- R325, R326, R395: a request that is answered negatively, or not within 50,000 ticks, is sent again with its tag, at most three
times, and then ends in LINK_LOST; an answer ends it and lands its value, or its failure, and sends the request that was held back
behind it (R323); a command's sectors settle. A port that carries the transmission counts it; one that is down or retrains brings no
answer (R396), and an answer whose CRC is wrong is dropped and counted (R394). That RETX, LOST and CRCDROP saturate is the model's
choice (assumption 85). -/
def Sys2Proof.Claims.RequestsEndOnce : Prop :=
  ∀ (s : State) (tag : Tag) (port : Nat) (crc : BitVec 32), carriesOn s port →
    let again (i : Instr) (r : OutReq) : Prop := ∃ t p, exec i s = .next t ∧ sameMemory s t ∧ t.ctxs = s.ctxs ∧
      t.outReqs = s.outReqs.map (fun q => if q.tag = tag then { q with tries := q.tries + 1, sent := s.clock.toNat, port := p } else q) ∧
      (((portAt s p).rate ≠ 3 ∧ (portAt s p).retrain = none ∧
          ∃ n, counted (portAt s p).retx n ∧ portBecomes s t p { portAt s p with retx := n }) ∨
        ((∀ q < 9, (portAt s q).rate = 3 ∨ (portAt s q).retrain ≠ none) ∧ t.ports = s.ports)) ∧ r.tag = tag
    let lost (i : Instr) (r : OutReq) : Prop := ∃ t n, exec i s = .next t ∧ ended s t tag ∧ sameMemory s t ∧
      counted (portAt s r.port).lost n ∧ portBecomes s t r.port { portAt s r.port with lost := n } ∧
      ∀ p, r.pend = some p.id → (s.ctx r.cx).st.pend.find? (fun q => q.id = p.id) = some p → p.vec = false → beatenG (s.ctx r.cx) p = false →
        landed s t r.cx p 0
    (∀ bad i, bad < 9 → ¬ carriesOn s bad → (i = .shardNak ⟨tag, bad⟩ ∨ ∃ code v, i = .shardAck tag code ⟨v, bad, crc⟩) → exec i s = .next s) ∧
    (∀ code v, ¬ goodAnswer tag code v crc → ∃ t n, exec (.shardAck tag code ⟨v, port, crc⟩) s = .next t ∧ counted (portAt s port).crcdrop n ∧
      portBecomes s t port { portAt s port with crcdrop := n } ∧ t.outReqs = s.outReqs ∧ t.ctxs = s.ctxs ∧ sameMemory s t) ∧
    ((∀ r ∈ s.outReqs, r.tag ≠ tag) → exec (.shardNak ⟨tag, port⟩) s = .next s ∧ exec (.retransmitTimeout tag) s = .next s ∧
      ∀ code v, goodAnswer tag code v crc → exec (.shardAck tag code ⟨v, port, crc⟩) s = .next s) ∧
    (∀ r q, s.outReqs = [r, q] → r.tag = tag → q.tag ≠ tag → r.cmd = none → q.waiting = true →
      ∀ code v, goodAnswer tag code v crc → ∃ t p, exec (.shardAck tag code ⟨v, port, crc⟩) s = .next t ∧ sameMemory s t ∧
        t.outReqs = [{ q with waiting := false, sent := s.clock.toNat, port := p }]) ∧
    (∀ r, outstanding s tag r → noneHeld s tag →
      (r.tries < 3 → again (.shardNak ⟨tag, port⟩) r) ∧
      (s.clock.toNat < r.sent + 50000 → exec (.retransmitTimeout tag) s = .next s) ∧
      (r.tries < 3 → r.sent + 50000 ≤ s.clock.toNat → again (.retransmitTimeout tag) r) ∧
      (3 ≤ r.tries → r.cmd = none → lost (.shardNak ⟨tag, port⟩) r) ∧
      (3 ≤ r.tries → r.cmd = none → r.sent + 50000 ≤ s.clock.toNat → lost (.retransmitTimeout tag) r) ∧
      (∀ v p, r.cmd = none → r.pend = some p.id → (s.ctx r.cx).st.pend.find? (fun q => q.id = p.id) = some p → p.vec = false →
        beatenG (s.ctx r.cx) p = false →
        (goodAnswer tag 0 v crc → ∃ t, exec (.shardAck tag 0 ⟨v, port, crc⟩) s = .next t ∧ ended s t tag ∧ sameMemory s t ∧ landed s t r.cx p (v.setWidth 64)) ∧
        ∀ code, code ≠ 0 → goodAnswer tag code v crc → ∃ t, exec (.shardAck tag code ⟨v, port, crc⟩) s = .next t ∧ ended s t tag ∧ sameMemory s t ∧ landed s t r.cx p 0) ∧
      (∀ code v, r.cmd = none → r.pend = none → (∀ a n, r.op ≠ .load a n) → goodAnswer tag code v crc →
        ∃ t, exec (.shardAck tag code ⟨v, port, crc⟩) s = .next t ∧ ended s t tag ∧ sameMemory s t ∧
        t.ctxs = s.ctxs) ∧
      (∀ code v id c k, r.cmd = some id → s.cmds.find? (fun c => c.id = id) = some c → c.barrier = some k → r.dst = none →
        r.secs = [] → 0 < r.sectors → r.sectors ≤ secOf (Memory.num s.loc k 16) → padClean s k 16 → Memory.wf s.loc = true →
        goodAnswer tag code v crc → ∃ t w', exec (.shardAck tag code ⟨v, port, crc⟩) s = .next t ∧ ended s t tag ∧ storedIn s.loc t.loc k 16 w' ∧ t.ctxs = s.ctxs ∧
          settledBy s.clock.toNat code.toNat r.sectors (Memory.num s.loc k 16) w'))

/-- R393, R401, R407: a tamper alarm erases every key slot, every SEALED buffer and every push on its way to one, and records its cause; CLR clears a die's error
counters; SLOTCLR zeroes every counter of one slot. R406: an interval's energy is divided among the slots that held contexts of the
cluster in proportion to their context-ticks, in nanojoules with the remainder kept, or goes to the idle counter; that each share is a whole number
of nanojoules is the model's reading (assumption 67). -/
def Obligations.AlarmsAndCounters : Prop :=
  ∀ s : State,
    (∀ c bit, (c, bit) ∈ [(Tamper.volt, 1#5), (.clock, 2#5), (.temp, 4#5), (.mesh, 8#5)] →
      ∃ t, exec (.tamperAlarm c) s = .next t ∧ t.keys = [] ∧ t.tamper = s.tamper ||| 16 ||| bit ∧ sameMemory s t ∧ t.seals = s.seals ∧
        ∀ cx, sameRegisters (s.ctx cx).st (t.ctx cx).st ∧
          (t.ctx cx).st.active = (if (s.ctx cx).st.active.sealed then {} else (s.ctx cx).st.active) ∧
          (t.ctx cx).st.shadow = (if (s.ctx cx).st.shadow.sealed then {} else (s.ctx cx).st.shadow) ∧ noSealedPush (t.ctx cx).st) ∧
    (∀ d, exec (.errcntClr d) s = .next { s with dies := FMap.put s.dies d { dieAt s d with corr := 0, uncorr := 0, lastPa := 0 } }) ∧
    (∀ slot : Byte, FMap.sorted s.acct = true → ∃ t, exec (.slotclr slot) s = .next t ∧ sameMemory s t ∧ t.ctxs = s.ctxs ∧
      ∀ n i, i < 16 → acctOf t n i = if n = slot.toNat then 0 else acctOf s n i) ∧
    (∀ k e, (∀ h ∈ s.held, h.1 / 256 ≠ k) → exec (.energyInterval k e) s = .next { s with idleEnergy := s.idleEnergy + e }) ∧
    (∀ k e, let mine := s.held.filter fun h => h.1 / 256 = k
      let total := (mine.map Prod.snd).sum
      FMap.sorted s.held = true → 0 < total →
      ∃ t, exec (.energyInterval k e) s = .next t ∧ sameMemory s t ∧ t.idleEnergy = s.idleEnergy ∧ (∀ h ∈ t.held, h.1 / 256 ≠ k) ∧
        (∀ h ∈ mine, let n := h.1 % 256
          let nj := FMap.getD s.energyRem n 0 + e * h.2 / total
          FMap.getD t.energyRem n 0 = nj % 1000 ∧ acctOf t n 9 = acctOf s n 9 + BitVec.ofNat 64 (nj / 1000)) ∧
        ∀ n i, i < 16 → (i ≠ 9 ∨ ∀ h ∈ mine, h.1 % 256 ≠ n) → acctOf t n i = acctOf s n i)

namespace Sys2Proof.Claims

/-! ## Registers of the host interface (R13 to R26, R363) -/

def fnAt (s : State) (port fn : Nat) : Fn := FMap.getD s.fns (port * 65 + fn) {}
def headOf (s : State) (st : StreamId) : StreamHead := FMap.getD (fnAt s st.port st.fn).heads st.head {}
/-- A stream head changed, and nothing else. -/
def withHead (s : State) (st : StreamId) (h : StreamHead) : State :=
  let f := fnAt s st.port st.fn
  { s with fns := FMap.put s.fns (st.port * 65 + st.fn) { f with heads := FMap.put f.heads st.head h } }
/-- A word of a function's MSI-X table changed, and nothing else. -/
def withMsix (s : State) (port fn i : Nat) (v : BitVec 32) : State :=
  let f := fnAt s port fn
  { s with fns := FMap.put s.fns (port * 65 + fn) { f with msix := FMap.put f.msix i v } }
/-- EN or BUSY is set. -/
def inUse (h : StreamHead) : Prop := h.en = true ∨ h.wait ≠ .none ∨ h.levels ≠ []
/-- A ring that is refused at enable. -/
def ringRefused (h : StreamHead) : Prop := h.log2 < 12 ∨ 20 < h.log2 ∨ h.base.getLsbD 1 = true
/-- The levels, buffers, waits and the level-0 predicate of a head as ABORT and CLRERR leave them. -/
def emptied (h : StreamHead) : StreamHead := { h with levels := [], loop := none, window := none, wait := .none, pred0 := true }
/-- A vector has been raised: its message is sent, or its pending bit is set where it is masked. -/
def raised (s t : State) (port fn vec : Nat) : Prop :=
  let v := vec % (if fn = 0 then 64 else 8)
  let word (i : Nat) : Nat := (FMap.getD (fnAt s port fn).msix (4 * v + i) 0).toNat
  ((FMap.getD (fnAt s port fn).msix (4 * v + 3) 1).getLsbD 0 = true → t.irqs = s.irqs ∧
    (∀ i < 64, (fnAt t port fn).pending.getLsbD i = ((fnAt s port fn).pending.getLsbD i || decide (i = v)))) ∧
  ((FMap.getD (fnAt s port fn).msix (4 * v + 3) 1).getLsbD 0 = false → (fnAt t port fn).pending = (fnAt s port fn).pending ∧
    t.irqs = s.irqs ++ [{ port := port, fn := fn, vec := v, addr := word 1 * 2 ^ 32 + word 0, data := word 2, tick := s.clock.toNat }])
/-- A stream has stopped at the packet at hand with an error; with ERRIRQ its vector is raised. Nothing else has changed. -/
def haltsAt (s t : State) (st : StreamId) (code level : Nat) (addr : Nat) : Prop :=
  let h := headOf s st
  (headOf t st).err = code ∧ (headOf t st).level = level ∧ (headOf t st).erraddr = BitVec.ofNat 64 addr ∧
  (headOf t st).halted = true ∧ (headOf t st).wait = .none ∧ (headOf t st).rptr = h.rptr ∧ (headOf t st).done = h.done ∧
  (h.errirq = true → raised s t st.port st.fn h.errvec.toNat) ∧ (h.errirq = false → t.irqs = s.irqs) ∧ sameMemory s t ∧ t.ctxs = s.ctxs ∧
  t.tasks = s.tasks
/-- A semaphore's owner and the tick of its last claim, and the write instruction of a code by a port. -/
def semAt (s : State) (n : Nat) : Nat × Nat := ((FMap.getD s.sems n {}).owner.toNat, (FMap.getD s.sems n {}).since)
def semInstr (port n code : Nat) : Instr :=
  if code = 0 then .semRelease port n else if code = 3 then .semForcedRelease port n else .semClaim port n
/-- One write of a semaphore by a port. -/
def semAfter (x : Nat × Nat) (port code now : Nat) : Nat × Nat :=
  if code = port + 1 ∧ (x.1 = 0 ∨ x.1 = port + 1) then (port + 1, now)
  else if code = 0 ∧ x.1 = port + 1 then (0, x.2)
  else if code = 3 ∧ x.1 ≠ 0 ∧ x.1 ≠ port + 1 ∧ x.2 + 1250000000 ≤ now then (0, x.2)
  else x
/-- Only semaphore `n` may differ, and the tie bit. -/
def sameButSem (s t : State) (n : Nat) : Prop :=
  (∀ m, m ≠ n → semAt t m = semAt s m) ∧ t.ctxs = s.ctxs ∧ t.fns = s.fns ∧ sameMemory s t ∧ t.clock = s.clock
/-- A thermal region has become `x`, with SOFT and HARD as its integral and budgets make them, the alert and the power controller's
interrupt where SOFT rises, and nothing else (R379, R380). -/
def budgetsJudged (s t : State) (k : Nat) (x : Therm) : Prop :=
  let y : Therm := { x with
    soft := decide (x.softb.toNat ≤ x.d.toNat)
    hard := if x.hardb.toNat ≤ x.d.toNat then true else if x.d.toNat < x.hardb.toNat - x.hardb.toNat / 8 then false else x.hard }
  let rises := y.soft = true ∧ (FMap.getD s.therm k {}).soft = false
  t.therm = FMap.put s.therm k y ∧ t.mgmtOut = s.mgmtOut ++ (if rises then [.alert (k / 64) (k % 64)] else []) ∧
  t.powerIrqs = s.powerIrqs ++ (if rises then [(k / 64, k % 64)] else []) ∧ sameMemory s t ∧ t.ctxs = s.ctxs ∧ t.dies = s.dies ∧
  t.clusters = s.clusters ∧ t.boot = s.boot
/-- Bits hi..lo of a written value. -/
def part (v : Word) (hi lo : Nat) : Nat := v.toNat / 2 ^ lo % 2 ^ (hi + 1 - lo)

end Sys2Proof.Claims

/-- R14: a write of FUNC_JOB_n sets BOUND and JOB while every stream head of VF n is idle, and is ignored otherwise. -/
def Sys2Proof.Claims.FuncJobIsKeptWhileInUse : Prop :=
  ∀ (s : State) (port vf : Nat) (v : Word),
    ((∀ i < 4, ¬ inUse (headOf s ⟨port, vf + 1, i⟩)) →
      exec (.funcJobWrite port vf v) s = .next { s with funcJob := FMap.put s.funcJob (port * 64 + vf) (v &&& 0x80000FFF#64) }) ∧
    ((∃ i < 4, inUse (headOf s ⟨port, vf + 1, i⟩)) → exec (.funcJobWrite port vf v) s = .next s)

/-- R16, R17, R18: a write of a semaphore has the effect of Table 01-4; of two writes in one cycle the owner's comes first, of two claims
of a free one the port that the tie bit names wins and the bit flips, and of one claim and another write the claim takes effect. -/
def Sys2Proof.Claims.Semaphores : Prop :=
  ∀ (s : State) (n : Nat),
    (∀ port code, port < 2 → code ∈ [0, 3, port + 1] →
      ((FMap.getD s.sems n {}).cycle = some s.clock.toNat → (FMap.getD s.sems n {}).firstPort = port) →
      ∃ t, exec (semInstr port n code) s = .next t ∧ semAt t n = semAfter (semAt s n) port code s.clock.toNat ∧ sameButSem s t n ∧
        t.tie = s.tie) ∧
    (∀ c0 c1, c0 ∈ [0, 1, 3] → c1 ∈ [0, 2, 3] → s.tie ≤ 1 → (semAt s n).1 < 3 → (FMap.getD s.sems n {}).cycle ≠ some s.clock.toNat →
      let now := s.clock.toNat
      let x := semAt s n
      ∀ i j, (i = semInstr 0 n c0 ∧ j = semInstr 1 n c1) ∨ (i = semInstr 1 n c1 ∧ j = semInstr 0 n c0) →
        ∃ t u, exec i s = .next t ∧ exec j t = .next u ∧ sameButSem s u n ∧
          (x.1 = 0 → c0 = 1 → c1 = 2 → semAt u n = (s.tie + 1, now) ∧ u.tie = 1 - s.tie) ∧
          (¬ (x.1 = 0 ∧ c0 = 1 ∧ c1 = 2) → u.tie = s.tie) ∧
          (x.1 = 0 → c0 = 1 → c1 ≠ 2 → semAt u n = (1, now)) ∧ (x.1 = 0 → c0 ≠ 1 → c1 = 2 → semAt u n = (2, now)) ∧
          (x.1 = 0 → c0 ≠ 1 → c1 ≠ 2 → semAt u n = x) ∧
          (x.1 = 1 → semAt u n = semAfter (semAfter x 0 c0 now) 1 c1 now) ∧
          (x.1 = 2 → semAt u n = semAfter (semAfter x 1 c1 now) 0 c0 now))

/-- R20 to R23, R26: the doorbell sets WPTR; EN starts a stream, or ends in BAD_RING for an illegal ring; clearing EN pauses it and keeps
all else; ABORT empties it, sets RPTR to WPTR and clears the error; CLRERR empties it and restarts at RPTR. LEVEL 0 and SH_ERRADDR of
BAD_RING, what CLRERR keeps, the level-0 predicate that ABORT and CLRERR leave true, and that ABORT counts nothing in SH_DONE are the
model's choice (assumption 29). -/
def Sys2Proof.Claims.StreamRegisters : Prop :=
  ∀ (s : State) (st : StreamId),
    let h := headOf s st
    (∀ v : Word, exec (.doorbell st v) s = .next (withHead s st { h with wptr := part v 19 3 * 8 })) ∧
    (h.en = true → exec (.streamEnable st) s = .next s) ∧
    (h.en = false → ¬ ringRefused h → exec (.streamEnable st) s = .next (withHead s st { h with en := true })) ∧
    (h.en = false → ringRefused h → ∃ t, exec (.streamEnable st) s = .next t ∧ (headOf t st).en = true ∧
      haltsAt s t st 0x12 0 (h.base.toNat / 4096 * 4096 + h.rptr)) ∧
    exec (.streamPause st) s = .next (withHead s st { h with en := false }) ∧
    exec (.abort st) s = .next (withHead s st { emptied h with rptr := h.wptr, halted := false, err := 0, skipFrom := none }) ∧
    exec (.clrerr st) s = .next (withHead s st { emptied h with halted := false, err := 0 })

/-- R15: a Function Level Reset returns a function's stream heads and MSI-X state to reset and leaves FUNC_JOB and running tasks alone;
that of a PF covers every VF of its port and frees the port's semaphores; a link-down acts as it. -/
def Sys2Proof.Claims.FunctionLevelResets : Prop :=
  ∀ s : State, FMap.sorted s.fns = true →
    let keeps (t : State) : Prop := t.funcJob = s.funcJob ∧ t.ctxs = s.ctxs ∧ sameMemory s t ∧ t.irqs = s.irqs ∧ t.tasks = s.tasks
    let whole (t : State) (port : Nat) : Prop := keeps t ∧ (∀ f < 65, fnAt t port f = {}) ∧
      (∀ k, k / 65 ≠ port → FMap.getD t.fns k {} = FMap.getD s.fns k {}) ∧
      ∀ n, semAt t n = if (semAt s n).1 = port + 1 then (0, (semAt s n).2) else semAt s n
    (∀ port fn, fn ≠ 0 → ∃ t, exec (.functionLevelReset port fn) s = .next t ∧ keeps t ∧ fnAt t port fn = {} ∧ t.sems = s.sems ∧
      ∀ k, k ≠ port * 65 + fn → FMap.getD t.fns k {} = FMap.getD s.fns k {}) ∧
    (∀ port, ∃ t, exec (.functionLevelReset port 0) s = .next t ∧ whole t port ∧ t.linkUp = s.linkUp) ∧
    ∀ port, ∃ t, exec (.linkDown port) s = .next t ∧ whole t port ∧ FMap.getD t.linkUp port false = false

/-- R5, R6, R13, R20, R363, Tables 18-3 to 19-6: a write of a register that has no row of its own sets its RW fields, clears the bits
of a W1C field, and leaves RO and reserved fields and every register that it does not name; an MSI-X vector that is unmasked while its
pending bit is set sends its message, and the bit is cleared. -/
def Sys2Proof.Claims.RegisterWrites : Prop :=
  ∀ (s : State) (v : Word),
    let wrote (off : Nat) (t : State) : Prop := exec (.registerWrite .mgmt off v) s = .next t
    (∀ st : StreamId, st.head < 4 → let h := headOf s st
      exec (.registerWrite (.bar st.port st.fn) (0x1000 + 0x40 * st.head) v) s = .next (withHead s st
        (if h.en then h else { h with base := BitVec.ofNat 64 (part v 63 12 * 4096 + part v 1 0) })) ∧
      exec (.registerWrite (.bar st.port st.fn) (0x1018 + 0x40 * st.head) v) s = .next (withHead s st
        { h with errirq := v.getLsbD 16, errvec := BitVec.ofNat 8 (part v 15 8), log2 := if h.en then h.log2 else part v 23 19 })) ∧
    (∀ port fn i, i < 4 * (if fn = 0 then 64 else 8) → i % 4 ≠ 3 →
      exec (.registerWrite (.bar port fn) (0x3000 + 4 * i) v) s = .next (withMsix s port fn i (v.setWidth 32))) ∧
    (∀ port fn i, i < (if fn = 0 then 64 else 8) → v.getLsbD 0 = true →
      exec (.registerWrite (.bar port fn) (0x300C + 16 * i) v) s = .next (withMsix s port fn (4 * i + 3) 1)) ∧
    (∀ port fn i, i < (if fn = 0 then 64 else 8) → v.getLsbD 0 = false → let f := fnAt s port fn
      let word (j : Nat) : Nat := (FMap.getD f.msix (4 * i + j) 0).toNat
      (f.pending.getLsbD i = false →
        exec (.registerWrite (.bar port fn) (0x300C + 16 * i) v) s = .next (withMsix s port fn (4 * i + 3) 0)) ∧
      (f.pending.getLsbD i = true → ∃ t, exec (.registerWrite (.bar port fn) (0x300C + 16 * i) v) s = .next t ∧ sameMemory s t ∧
        t.ctxs = s.ctxs ∧ FMap.getD (fnAt t port fn).msix (4 * i + 3) 1 = 0 ∧
        (∀ j < 64, (fnAt t port fn).pending.getLsbD j = (f.pending.getLsbD j && decide (j ≠ i))) ∧
        t.irqs = s.irqs ++ [{ port := port, fn := fn, vec := i, addr := word 1 * 2 ^ 32 + word 0, data := word 2, tick := s.clock.toNat }])) ∧
    (s.boot.ready = true → wrote 0x10 { s with boot := { s.boot with jobtab := part v 55 6 * 64 } }) ∧
    (s.boot.ready = true → wrote 0x18 { s with boot := { s.boot with asntab := part v 55 4 * 16 } }) ∧
    (s.boot.ready = false → wrote 0x10 s ∧ wrote 0x18 s ∧ wrote 0x20 s ∧ wrote 0x28 s) ∧
    (s.boot.ready = true → s.boot.dispatched = false → wrote 0x20 { s with boot := { s.boot with savesz := BitVec.ofNat 16 (part v 15 0) } } ∧
      (part v 8 0 ≤ 287 → wrote 0x28 { s with boot := { s.boot with modid := BitVec.ofNat 9 (part v 8 0) } })) ∧
    (s.boot.dispatched = true → wrote 0x20 s ∧ wrote 0x28 s) ∧
    wrote 0x40 { s with nightdly := BitVec.ofNat 32 (part v 63 32) } ∧ wrote 0x48 { s with updPend := v.getLsbD 8 } ∧
    (∀ d < 4, wrote (0x50 + 8 * d) { s with dies := FMap.put s.dies d { dieAt s d with ilim := BitVec.ofNat 16 (part v 15 0) } }) ∧
    (∀ k < 128, ∃ t, wrote (0x1000 + 8 * k) t ∧ sameMemory s t ∧ (∀ j, j ≠ k → clusterOf_ t j = clusterOf_ s j) ∧
      (part v 31 16 ≠ 0 → clusterOf_ t k = { clusterOf_ s k with target := BitVec.ofNat 16 (part v 31 16) }) ∧
      (part v 31 16 = 0 → strandIn s k ∨ reservedFor s k → (clusterOf_ t k).target = 1) ∧
      (part v 31 16 = 0 → ¬ (strandIn s k ∨ reservedFor s k) → (clusterOf_ t k).target = 0)) ∧
    (∀ k < 256, let x := FMap.getD s.therm k {}
      (∃ t, wrote (0x2000 + 16 * k) t ∧ budgetsJudged s t k { x with allow := BitVec.ofNat 12 (part v 15 4) }) ∧
      ∃ t, wrote (0x2008 + 16 * k) t ∧ budgetsJudged s t k { x with softb := BitVec.ofNat 32 (part v 31 0) }) ∧
    (∀ d < 4, let m := muOf s d
      let mu (x : Mu) : State := { s with dies := FMap.put s.dies d { dieAt s d with mu := x } }
      wrote (0x4000 + 0x40 * d) (mu { m with txn := BitVec.ofNat 16 (part v 63 48), keyslot := BitVec.ofNat 8 (part v 47 40) }) ∧
      wrote (0x4008 + 0x40 * d) (mu { m with src := BitVec.ofNat 36 (part v 47 12) }) ∧
      wrote (0x4010 + 0x40 * d) (mu { m with dst := BitVec.ofNat 36 (part v 47 12) }) ∧
      wrote (0x4020 + 0x40 * d) (mu { m with wearlim := BitVec.ofNat 32 (part v 31 0) })) ∧
    (∀ p < 9, ∃ t, wrote (0x5000 + 0x20 * p) t ∧ sameMemory s t ∧ portBecomes s t p { portAt s p with
      dnth := BitVec.ofNat 8 (part v 55 48), upth := BitVec.ofNat 8 (part v 47 40), autoup := v.getLsbD 9 }) ∧
    wrote 0x6000 { s with tamper := s.tamper &&& ~~~ BitVec.ofNat 5 (part v 4 0) } ∧
    ∀ off, 0x6108 ≤ off → off < 0x7000 → wrote off s

namespace Sys2Proof.Claims

/-! ## Packets (R21 to R44) -/

/-- The predicate of the current level, and the position of the packet at hand. -/
def predOf (h : StreamHead) : Bool := match h.levels with | [] => h.pred0 | l :: _ => l.pred
def posOf (h : StreamHead) : Nat := match h.levels with | [] => h.rptr | l :: _ => l.pos
/-- The current level's predicate set, and its position moved. -/
def withPred (h : StreamHead) (b : Bool) : StreamHead :=
  match h.levels with | [] => { h with pred0 := b } | l :: r => { h with levels := { l with pred := b } :: r }
def movedTo (h : StreamHead) (p : Nat) : StreamHead :=
  match h.levels with | [] => { h with rptr := p % 2 ^ h.log2 } | l :: r => { h with levels := { l with pos := p } :: r }
/-- `h'` is `h` after the packet at hand, of `n` bytes, has retired (R32, R44): it counts once, and the level goes on after it; at the
end of a loop body the next pass starts, or the pk.loop retires too. -/
def retires (h h' : StreamHead) (n : Nat) : Prop :=
  let g : StreamHead := { h with wait := .none, done := h.done + 1 }
  ((∀ l, h.loop = some l → l.level ≠ h.levels.length) → h' = movedTo g (posOf h + n)) ∧
  ∀ l, h.loop = some l → l.level = h.levels.length →
    (l.at_ + n < l.body.length → h' = movedTo { g with loop := some { l with at_ := l.at_ + n } } (l.start + (l.at_ + n))) ∧
    (l.body.length ≤ l.at_ + n → 1 < l.left → h' = movedTo { g with loop := some { l with at_ := 0, left := l.left - 1 } } l.start) ∧
    (l.body.length ≤ l.at_ + n → l.left ≤ 1 → h' = movedTo { g with loop := none, done := h.done + 2 } (l.start + l.body.length))
/-- The packet's address where it stands, as SH_ERRADDR reports it, and a stop there. -/
def stopAddr (h : StreamHead) : Nat := match h.levels with | [] => h.base.toNat / 4096 * 4096 + h.rptr | l :: _ => l.pos
def stops (s t : State) (st : StreamId) (code : Nat) : Prop :=
  haltsAt s t st code (headOf s st).levels.length (stopAddr (headOf s st)) ∧ (headOf t st).levels = (headOf s st).levels
/-- The packet of a header is performed: it is not skipped under its predicate. -/
def performs (s : State) (h : PkH) : Prop := h.pe = false ∨ predOf (headOf s h.st) = true
/-- The packet has retired in `t`; nothing of the strands has changed. -/
def done_ (s t : State) (h : PkH) : Prop := retires (headOf s h.st) (headOf t h.st) (8 * h.len.toNat) ∧ t.ctxs = s.ctxs
/-- A range of device memory as the stream's job reaches it: the leaf, the physical address; no seal, no error and no field of the
scheduler meets it. -/
def streamLeaf (s : State) (st : StreamId) (va n pa : Nat) (l : Leaf) : Prop :=
  ∃ j, s.headRec st = (some j, s) ∧ cachedAt s st.port (jobField j 0 15 0) va l ∧ l.va ≤ va ∧ va + n ≤ l.va + l.size ∧ openLeaf s l va ∧
    pa = l.pa + (va - l.va) ∧ inLpddr pa = true ∧ memClean s pa n ∧ unowned s pa n
/-- A range that the stream's job does not reach: no leaf for its first byte, or one that is closed or lacks the permission. -/
def closedTo (s : State) (st : StreamId) (va : Nat) (ok : Leaf → Prop) : Prop :=
  ∃ j, s.headRec st = (some j, s) ∧ ((s.translate st.port (jobField j 0 15 0) va).1 = none ∨
    ∃ l, cachedAt s st.port (jobField j 0 15 0) va l ∧ (¬ openLeaf s l va ∨ ¬ ok l))
/-- The bytes of data words. -/
def wordsNum (ws : List Word) : Nat := leValue (ws.flatMap fun w => leBytes 8 w.toNat)
/-- A HOST store or FetchAdd has been issued: its packet waits for the completion (R43), which may fail, and always does while the
link is down. A posted write may have been performed though its flushing read fails. -/
def issuesHost (flushes : Bool) (s t : State) (h : PkH) (addr n v : Nat) : Prop :=
  let m := s.hostMem h.st.port
  let m' := t.hostMem h.st.port
  ∃ due ok, headOf t h.st = { headOf s h.st with wait := .hostWrite h due ok } ∧ s.clock.toNat < due ∧
    (ok = true → storedIn m m' addr n v) ∧ (ok = false → m' = m ∨ (flushes = true ∧ storedIn m m' addr n v)) ∧
    (FMap.getD s.linkUp h.st.port false = false → ok = false ∧ m' = m) ∧
    t.hostMem (1 - h.st.port) = s.hostMem (1 - h.st.port) ∧ t.mem = s.mem ∧ t.full = s.full ∧ t.ctxs = s.ctxs
def posted (s t : State) (h : PkH) (addr n v : Nat) : Prop := issuesHost true s t h addr n v
def fetchAdds (s t : State) (h : PkH) (addr n v : Nat) : Prop := issuesHost false s t h addr n v
/-- The word that a comparison packet reads. -/
def wordRead (s : State) (st : StreamId) (sp : PkSpace) (addr w : Word) : Prop :=
  match sp with
  | .dev => ∃ pa l, streamLeaf s st addr.toNat 8 pa l ∧ l.r = true ∧ w = BitVec.ofNat 64 (Memory.num s.mem pa 8)
  | .host => FMap.getD s.linkUp st.port false = true ∧ w = BitVec.ofNat 64 (Memory.num (s.hostMem st.port) addr.toNat 8)
def holdsOf (c : PkCmp) (w mask v : Word) : Bool :=
  match c with
  | .eq => w &&& mask = v &&& mask
  | .ne => w &&& mask ≠ v &&& mask
  | .geu => (v &&& mask).toNat ≤ (w &&& mask).toNat
  | .ltu => (w &&& mask).toNat < (v &&& mask).toNat
/-- A HOST access may end in HOST_ABORT instead (assumption 8). -/
def orAborts (s : State) (i : Instr) (st : StreamId) (sp : PkSpace) (ok : State → Prop) : Prop :=
  ∃ t, exec i s = .next t ∧ sameMemory s t ∧ (ok t ∨ (sp = .host ∧ stops s t st 0x0C))
/-- Bytes of the current level that lie ahead, and the bytes that the window holds there. -/
def coverage (h : StreamHead) : Nat :=
  match h.levels with | [] => (h.wptr + 2 ^ h.log2 - h.rptr % 2 ^ h.log2) % 2 ^ h.log2 | l :: _ => l.stop - l.pos
def windowHolds (h : StreamHead) (n : Nat) (bs : List (Option Byte)) : Prop :=
  h.window = some (posOf h, bs) ∧ bs.length = min (max 512 n) (coverage h) / 8 * 8 ∧ n ≤ coverage h ∧ n % 8 = 0 ∧ h.loop = none ∧
  h.skipFrom = none ∧ (h.levels = [] → h.rptr < 2 ^ h.log2)

end Sys2Proof.Claims

/-- R28, R44: a packet whose predicate is false retires without any other effect. -/
def Sys2Proof.Claims.SkippedPackets : Prop :=
  ∀ (s : State) (h : PkH), h.pe = true → predOf (headOf s h.st) = false →
    ∀ i : Instr, (i = .pkNop h ∨ (∃ sp a d, i = .pkWriteStore h sp a d) ∨ (∃ sp a v, i = .pkWriteAdd h sp a v) ∨
        (∃ a d, i = .pkWriteForce h a d) ∨ (∃ p a q b n, i = .pkCopy h p a q b n) ∨ (∃ sp c a m v, i = .pkPred h sp c a m v) ∨
        (∃ sp a n, i = .pkCall h sp a n) ∨ i = .pkRet h ∨ i = .pkFfence h ∨ (∃ sp c a m v l, i = .pkWaitmem h sp c a m v l) ∨
        (∃ d a, i = .pkLaunch h d a) ∨ (∃ sp f a v, i = .pkSignal h sp f a v) ∨ (∃ j, i = .pkJob h j) ∨ (∃ v, i = .pkIrq h v)) →
      ∃ k, retires (headOf s h.st) k (8 * h.len.toNat) ∧ exec i s = .next (withHead s h.st k)

/-- R24, R25, R28 to R30, R37, R43: pk.nop retires; a pk.write stores its words, adds, or also sets words full; pk.copy moves bytes; a
device address out of reach ends in XLAT and one without a job in BAD_JOB, with nothing stored; a HOST store waits for its completion.
XLAT for a FORCE write outside an FE-tracked page and for a sealed or compute-only page are the model's reading (assumptions 24 and
35). -/
def Sys2Proof.Claims.PacketsThatWrite : Prop :=
  ∀ (s : State) (h : PkH) (addr : Word), s.stored = true → performs s h →
    let st := h.st
    let a := addr.toNat
    let mayWrite (l : Leaf) : Prop := l.w = true
    let mayMove (l : Leaf) : Prop := l.r = true ∧ l.w = true
    let mayForce (l : Leaf) : Prop := l.w = true ∧ l.fe = true
    let noJob := s.headRec st = (none, s)
    let wrote (i : Instr) (pa n v : Nat) : Prop := ∃ t, exec i s = .next t ∧ done_ s t h ∧ storedIn s.mem t.mem pa n v ∧ t.full = s.full ∧
      t.loc = s.loc
    let ends (i : Instr) (code : Nat) : Prop := ∃ t, exec i s = .next t ∧ stops s t st code
    (∃ t, exec (.pkNop h) s = .next t ∧ done_ s t h ∧ sameMemory s t) ∧
    (∀ ds : List Word, ds ≠ [] → let n := 8 * ds.length
      (∀ pa l, streamLeaf s st a n pa l → l.w = true → wrote (.pkWriteStore h .dev addr ds) pa n (wordsNum ds)) ∧
      (closedTo s st a mayWrite → ends (.pkWriteStore h .dev addr ds) 0x0B) ∧ (noJob → ends (.pkWriteStore h .dev addr ds) 0x0E) ∧
      (∃ t, exec (.pkWriteStore h .host addr ds) s = .next t ∧ posted s t h a n (wordsNum ds)) ∧
      (∀ pa l, streamLeaf s st a n pa l → l.w = true → l.fe = true → ∃ t, exec (.pkWriteForce h addr ds) s = .next t ∧ done_ s t h ∧
        storedIn s.mem t.mem pa n (wordsNum ds) ∧ (pa % 8 = 0 → pa + n ≤ 4 * 0x3000000000 →
          ∀ w, inSet t.full w = (inSet s.full w || decide (pa / 8 ≤ w ∧ w < pa / 8 + ds.length)))) ∧
      (closedTo s st a mayForce → ends (.pkWriteForce h addr ds) 0x0B) ∧ (noJob → ends (.pkWriteForce h addr ds) 0x0E)) ∧
    (∀ v : Word,
      (∀ pa l, streamLeaf s st a 8 pa l → l.r = true → l.w = true →
        wrote (.pkWriteAdd h .dev addr v) pa 8 (Memory.num s.mem pa 8 + v.toNat)) ∧
      (closedTo s st a mayMove → ends (.pkWriteAdd h .dev addr v) 0x0B) ∧ (noJob → ends (.pkWriteAdd h .dev addr v) 0x0E) ∧
      ∃ t, exec (.pkWriteAdd h .host addr v) s = .next t ∧ fetchAdds s t h a 8 (Memory.num (s.hostMem st.port) a 8 + v.toNat)) ∧
    (∀ (src : Word) (sp dp : PkSpace), ∃ t, exec (.pkCopy h sp src dp addr 0) s = .next t ∧ done_ s t h ∧ sameMemory s t) ∧
    (∀ (src : Word) (n : BitVec 32) (ps pd : Nat) (ls ld : Leaf), n ≠ 0 → streamLeaf s st src.toNat n.toNat ps ls → ls.r = true →
      streamLeaf s st a n.toNat pd ld → ld.w = true → (ps + n.toNat ≤ pd ∨ pd + n.toNat ≤ ps) →
      wrote (.pkCopy h .dev src .dev addr n) pd n.toNat (Memory.num s.mem ps n.toNat)) ∧
    (∀ (src : Word) (n : BitVec 32) (ps pd : Nat) (ls ld : Leaf), n ≠ 0 → streamLeaf s st src.toNat n.toNat ps ls → ls.r = true →
      streamLeaf s st a n.toNat pd ld → ld.w = true → ∃ t, exec (.pkCopy h .dev src .dev addr n) s = .next t ∧ done_ s t h ∧
        t.full = s.full ∧ t.loc = s.loc ∧ (∀ b, ¬ (pd ≤ b ∧ b < pd + n.toNat) → Memory.get t.mem b = Memory.get s.mem b) ∧
        ∀ i < n.toNat, Memory.get t.mem (pd + i) = Memory.get s.mem (ps + i) ∨
          (pd ≤ ps + i ∧ ps + i < pd + n.toNat ∧ Memory.get t.mem (pd + i) = Memory.get t.mem (ps + i))) ∧
    (∀ (src : Word) (n : BitVec 32) (pd : Nat) (ld : Leaf), n ≠ 0 → streamLeaf s st a n.toNat pd ld → ld.w = true →
      ∃ t, exec (.pkCopy h .host src .dev addr n) s = .next t ∧ (stops s t st 0x0C ∨
        (done_ s t h ∧ storedIn s.mem t.mem pd n.toNat (Memory.num (s.hostMem st.port) src.toNat n.toNat) ∧ t.full = s.full))) ∧
    (∀ (src : Word) (n : BitVec 32) (ps : Nat) (ls : Leaf), n ≠ 0 → streamLeaf s st src.toNat n.toNat ps ls → ls.r = true →
      ∃ t, exec (.pkCopy h .dev src .host addr n) s = .next t ∧ posted s t h a n.toNat (Memory.num s.mem ps n.toNat)) ∧
    (∀ (src : Word) (n : BitVec 32), n ≠ 0 → (closedTo s st src.toNat (fun l => l.r = true) → ends (.pkCopy h .dev src .dev addr n) 0x0B))

/-- R26, R36, R43: pk.job sets the job of a PF's stream, is PRIV on a VF and BAD_JOB without a record; pk.irq raises a vector below the
table's size and is BAD_VEC above; the completion of a HOST write retires its packet, or ends it in HOST_ABORT. That a vector which no
mask bit has been written for is masked is taken from PCI Express (assumption 20). -/
def Sys2Proof.Claims.JobsVectorsAndCompletions : Prop :=
  (∀ (s : State) (h : PkH) (n : BitVec 12), performs s h →
    (h.st.fn ≠ 0 → ∃ t, exec (.pkJob h n) s = .next t ∧ stops s t h.st 0x0D) ∧
    (h.st.fn = 0 → (s.jobRec h.st.port n.toNat).1 = none → ∃ t, exec (.pkJob h n) s = .next t ∧ stops s t h.st 0x0E) ∧
    (h.st.fn = 0 → (s.jobRec h.st.port n.toNat).1 ≠ none → ∃ t, exec (.pkJob h n) s = .next t ∧
      retires { headOf s h.st with job := n } (headOf t h.st) (8 * h.len.toNat) ∧ t.ctxs = s.ctxs ∧ sameMemory s t)) ∧
  (∀ (s : State) (h : PkH) (v : BitVec 11), performs s h → let size := if h.st.fn = 0 then 64 else 8
    (size ≤ v.toNat → ∃ t, exec (.pkIrq h v) s = .next t ∧ stops s t h.st 0x11) ∧
    (v.toNat < size → ∃ t, exec (.pkIrq h v) s = .next t ∧ raised s t h.st.port h.st.fn v.toNat ∧ done_ s t h ∧ sameMemory s t)) ∧
  ∀ (s : State) (st : StreamId),
    (∀ h due ok, (headOf s st).wait = .hostWrite h due ok → h.st = st →
      (∃ t, exec (.hostWriteComplete st true) s = .next t ∧ done_ s t h ∧ sameMemory s t) ∧
      ∃ t, exec (.hostWriteComplete st false) s = .next t ∧ stops s t st 0x0C) ∧
    ((headOf s st).wait = .none → ∀ ok, exec (.hostWriteComplete st ok) s = .next s)

/-- R31: pk.pred sets the level's predicate to the comparison of the masked word; pk.waitmem retires on a true one and otherwise reads
again every 4,096 ticks, up to the read at its limit, which ends it in WAIT_TIMEOUT. -/
def Sys2Proof.Claims.PacketsThatCompare : Prop :=
  ∀ (s : State) (h : PkH) (sp : PkSpace) (c : PkCmp) (addr mask v : Word),
    let st := h.st
    let k := headOf s st
    let now := s.clock.toNat
    (∀ w, performs s h → wordRead s st sp addr w →
      orAborts s (.pkPred h sp c addr mask v) st sp (fun t =>
        retires (withPred k (holdsOf c w mask v)) (headOf t st) (8 * h.len.toNat) ∧ t.ctxs = s.ctxs) ∧
      ∀ tlim : BitVec 24, orAborts s (.pkWaitmem h sp c addr mask v tlim) st sp (fun t => t.ctxs = s.ctxs ∧
        (holdsOf c w mask v = true → done_ s t h) ∧
        (holdsOf c w mask v = false → ∃ limit, headOf t st = { k with wait := .waitmem h sp c addr mask v (now + 4096) limit } ∧
          limit = if tlim = 0 then none else some (now + tlim.toNat * 65536)))) ∧
    (∀ w next limit, k.wait = .waitmem h sp c addr mask v next limit → wordRead s st sp addr w →
      orAborts s (.waitmemRead st) st sp (fun t => t.ctxs = s.ctxs ∧
        (holdsOf c w mask v = true → done_ s t h) ∧
        (holdsOf c w mask v = false → (∀ n, limit = some n → now < n) →
          headOf t st = { k with wait := .waitmem h sp c addr mask v (next + 4096) limit }) ∧
        (holdsOf c w mask v = false → (∃ n, limit = some n ∧ n ≤ now) → stops s t st 0x10))) ∧
    (k.wait = .none → exec (.waitmemRead st) s = .next s) ∧
    (performs s h → sp = .dev → closedTo s st addr.toNat (fun l => l.r = true) → ∀ tlim,
      (∃ t, exec (.pkPred h sp c addr mask v) s = .next t ∧ stops s t st 0x0B) ∧
      ∃ t, exec (.pkWaitmem h sp c addr mask v tlim) s = .next t ∧ stops s t st 0x0B)

/-- R32, R33, R40, R44: pk.loop reads its body into the loop buffer, or passes over it with COUNT 0; pk.call opens the next level with its
predicate true, at most two deep; pk.ret and the end of a buffer close it, and the caller goes on after its pk.call, each retirement
counted; pk.ffence discards the window. That pk.call translates and checks its whole DEVICE buffer when it is performed, and that a
sealed or compute-only page gives XLAT, are the model's reading (assumptions 25 and 35). -/
def Sys2Proof.Claims.LoopsAndLevels : Prop :=
  ∀ (s : State) (h : PkH),
    let st := h.st
    let k := headOf s st
    let ends (i : Instr) (code : Nat) : Prop := ∃ t, exec i s = .next t ∧ stops s t st code
    let becomes (i : Instr) (ok : StreamHead → Prop) : Prop :=
      ∃ t, exec i s = .next t ∧ ok (headOf t st) ∧ sameMemory s t ∧ t.ctxs = s.ctxs ∧ t.tasks = s.tasks
    (∀ (count : BitVec 16) (body : BitVec 10), let n := 16 + body.toNat
      (performs s h → k.loop ≠ none → ends (.pkLoop h count body) 0x08) ∧
      (k.loop = none → (count = 0 ∨ ¬ performs s h) → (k.levels ≠ [] ∨ (k.skipFrom = none ∧ n ≤ coverage k)) →
        becomes (.pkLoop h count body) fun k' => retires k k' n) ∧
      (k.loop = none → count = 0 → k.levels = [] → k.skipFrom = none → coverage k < n →
        becomes (.pkLoop h count body) fun k' => ∃ x, retires k x n ∧ k' = { x with skipFrom := some k.rptr }) ∧
      (performs s h → k.loop = none → count ≠ 0 → k.skipFrom = none → coverage k < n → exec (.pkLoop h count body) s = .next s) ∧
      (∀ bs, performs s h → count ≠ 0 → windowHolds k n bs → becomes (.pkLoop h count body) fun k' =>
        k' = { movedTo k (posOf k + 16) with loop := some { level := k.levels.length, start := posOf k + 16
                                                            body := (bs.take n).drop 16, left := count.toNat, at_ := 0 } })) ∧
    (∀ (sp : PkSpace) (addr : Word) (n : BitVec 24), performs s h →
      let opens : Prop := becomes (.pkCall h sp addr n) fun k' => k' = { k with
        levels := { sp := sp, pos := addr.toNat, stop := addr.toNat + n.toNat, pred := true } :: k.levels, window := none }
      (2 ≤ k.levels.length → ends (.pkCall h sp addr n) 0x06) ∧
      (k.levels.length < 2 → sp = .host → opens) ∧
      (∀ pa l, k.levels.length < 2 → sp = .dev → streamLeaf s st addr.toNat n.toNat pa l → l.r = true → opens) ∧
      (k.levels.length < 2 → sp = .dev → n ≠ 0 → closedTo s st addr.toNat (fun l => l.r = true) → ends (.pkCall h sp addr n) 0x0B) ∧
      (k.levels.length < 2 → sp = .dev → s.headRec st = (none, s) → ends (.pkCall h sp addr n) 0x0E)) ∧
    (performs s h → k.levels = [] → ends (.pkRet h) 0x07) ∧
    (∀ l r, performs s h → k.levels = l :: r → k.wait = .none →
      ((∀ x, k.loop = some x → x.level ≠ k.levels.length) → becomes (.pkRet h) fun k' =>
        retires { k with levels := r, window := none, done := k.done + 1 } k' 24) ∧
      (∀ x, k.loop = some x → x.level = k.levels.length → becomes (.pkRet h) fun k' =>
        retires { k with levels := r, window := none, loop := none, done := k.done + 2 } k' 24)) ∧
    (∀ l r, k.levels = l :: r → k.wait = .none →
      (l.pos = l.stop → becomes (.bufferEnd st) fun k' => retires { k with levels := r, window := none } k' 24) ∧
      (l.pos ≠ l.stop → exec (.bufferEnd st) s = .next s)) ∧
    (k.levels = [] → exec (.bufferEnd st) s = .next s) ∧
    (∀ x, performs s h → k.loop = some x → x.level = k.levels.length → ends (.pkFfence h) 0x09) ∧
    (performs s h → (∀ x, k.loop = some x → x.level ≠ k.levels.length) →
      becomes (.pkFfence h) fun k' => retires { k with window := none } k' (8 * h.len.toNat))

/-- R34, R35, R284, R286, R388: pk.launch waits for boot, checks the record against the stream's job, and gives it to the scheduler of the
die, which queues it or holds it; pk.signal waits until every task that its stream launched has ended, and stores its value. That a
pk.signal with FORCE on a page that is not FE-tracked ends in XLAT is the model's reading (assumption 24). -/
def Obligations.LaunchesAndSignals : Prop :=
  ∀ (s : State) (h : PkH), s.stored = true →
    let st := h.st
    let k := headOf s st
    let ends (i : Instr) (code : Nat) : Prop := ∃ t, exec i s = .next t ∧ stops s t st code
    (∀ (die : BitVec 2) (addr : Word), performs s h →
      let i : Instr := .pkLaunch h die addr
      (s.boot.ready = false → exec i s = .next s) ∧
      (s.boot.ready = true → s.headRec st = (none, s) → ends i 0x0E) ∧
      (∀ j, s.boot.ready = true → s.headRec st = (some j, s) → let asn := jobField j 0 15 0
        ((s.jobRead st.port asn addr.toNat 128).1 = none → ends i 0x0B) ∧
        ∀ pa, s.jobRead st.port asn addr.toNat 128 = (some pa, s) →
          let w := wordsOf (s.peek pa 128)
          let job := recField w 1 63 52
          let good := recIdle w = true ∧ recOk w (fun a => ((s.translate die.toNat asn a).1.map Leaf.r).getD false)
            (s.boot.savesz.toNat * 2 ^ 20) = true
          ((s.jobRec die.toNat job).1 = none → ends i 0x0E) ∧
          ∀ jr, s.jobRec die.toNat job = (some jr, s) →
            (job ≠ s.headJob st → ends i 0x0F) ∧
            (job = s.headJob st → ¬ good → ends i 0x0B) ∧
            (job = s.headJob st → good → ∃ t x, exec i s = .next t ∧ done_ s t h ∧ FMap.find t.tasks pa = some x ∧ declares w jr x ∧
              x.die = die.toNat ∧ x.va = addr.toNat ∧ x.asn = jobField jr 0 15 0 ∧ x.stream = some st ∧
              (inLpddr pa = true → recField w 0 63 48 = 0 → becomesReady s t pa x) ∧
              (recField w 0 63 48 ≠ 0 → x.state = .held ∧ (inLpddr pa = true → pa % 128 = 0 →
                recordWritten s t pa (recField w 0 63 48 * 2 ^ 48 + die.toNat * 2 ^ 35 + 2 ^ 32) [pa] ∧
                Memory.num t.mem (pa + 120) 8 = 0))))) ∧
    (∀ (sp : PkSpace) (force : Bool) (addr v : Word),
      let may (l : Leaf) : Prop := l.w = true ∧ (force = true → l.fe = true)
      let i : Instr := .pkSignal h sp force addr v
      (performs s h → (sp = .host ∨ ∃ pa l, streamLeaf s st addr.toNat 8 pa l ∧ may l) →
        exec i s = .next (withHead s st { k with wait := .signal h sp force addr v })) ∧
      (performs s h → sp = .dev → closedTo s st addr.toNat may → ends i 0x0B) ∧
      (k.wait = .signal h sp force addr v →
        ((∃ e ∈ s.tasks, e.2.stream = some st ∧ e.2.state ≠ .ended) → exec (.pkSignalStore st) s = .next s) ∧
        ((∀ e ∈ s.tasks, e.2.stream = some st → e.2.state = .ended) →
          (∀ pa l, sp = .dev → streamLeaf s st addr.toNat 8 pa l → may l → ∃ t, exec (.pkSignalStore st) s = .next t ∧ done_ s t h ∧
            storedIn s.mem t.mem pa 8 v.toNat ∧ (force = false → t.full = s.full) ∧
            (force = true → pa % 8 = 0 → ∀ w, inSet t.full w = (inSet s.full w || decide (w = pa / 8)))) ∧
          (sp = .host → ∃ t, exec (.pkSignalStore st) s = .next t ∧ posted s t h addr.toNat 8 v.toNat) ∧
          (sp = .dev → closedTo s st addr.toNat may → ends (.pkSignalStore st) 0x0B)))) ∧
    (k.wait = .none → exec (.pkSignalStore st) s = .next s)

namespace Sys2Proof.Claims

/-! ## The management port and the root of trust (R19, R363, R399, R402 to R404) -/

/-- The module has power, and its boot has not been refused (R402). -/
def answering (s : State) : Prop := s.boot.powered = true ∧ (s.boot.ready = true ∨ s.boot.bootAt ≠ none)
/-- A message has been sent, and nothing else has happened. -/
def tells (s : State) (m : MgmtMsg) : State := { s with mgmtOut := s.mgmtOut ++ [m] }
def flag (b : Bool) : Nat := if b then 1 else 0
/-- What registers of the window read as, by offset (Tables 18-3 to 19-9). -/
def windowValue (s : State) (off : Nat) (v : Word) : Prop :=
  (off = 0x0000 → part v 7 6 = s.boot.image.toNat ∧ part v 5 5 = flag s.boot.held ∧ part v 4 4 = flag s.boot.ready ∧ part v 63 8 = 0) ∧
  (off = 0x0010 → v = BitVec.ofNat 64 s.boot.jobtab) ∧ (off = 0x0018 → v = BitVec.ofNat 64 s.boot.asntab) ∧
  (off = 0x0020 → part v 15 0 = s.boot.savesz.toNat ∧ part v 63 16 = 0) ∧
  (off = 0x0028 → part v 8 0 = s.boot.modid.toNat ∧ part v 63 9 = 0) ∧
  (off = 0x0040 → part v 63 32 = s.nightdly.toNat ∧ part v 31 0 = 0) ∧
  (off = 0x0048 → (part v 9 9 = 1 ↔ s.govmode = true ∨ s.updPend = true) ∧ part v 8 8 = flag s.updPend) ∧
  (∀ d < 4, off = 0x0050 + 8 * d → part v 31 16 = (dieAt s d).iest.toNat ∧ part v 15 0 = (dieAt s d).ilim.toNat) ∧
  (∀ k < 128, off = 0x1000 + 8 * k → part v 63 48 = (clusterOf_ s k).eff.toNat ∧
    (∀ g, governedIs s k g → part v 47 32 = g.toNat) ∧
    ((clusterOf_ s k).target ≠ 0 → part v 31 16 = (clusterOf_ s k).target.toNat) ∧
    part v 7 0 = match (clusterOf_ s k).mode with | .active => 0 | .doze => 1 | .night => 2 | .nightfall => 3 | .daybreak => 4) ∧
  (∀ k < 256, let t := FMap.getD s.therm k {}
    (off = 0x2000 + 16 * k → part v 63 32 = t.d.toNat ∧ part v 31 16 = t.temp.toNat ∧ part v 15 4 = t.allow.toNat ∧
      part v 1 1 = flag t.hard ∧ part v 0 0 = flag t.soft) ∧
    (off = 0x2008 + 16 * k → part v 63 32 = t.hardb.toNat ∧ part v 31 0 = t.softb.toNat)) ∧
  (∀ d < 4, let m := muOf s d
    (off = 0x4018 + 0x40 * d → part v 63 48 = m.stxn.toNat ∧ part v 47 40 = m.err.toNat ∧ part v 39 32 = m.retries.toNat ∧
      part v 31 16 = m.staged.toNat) ∧
    (off = 0x4020 + 0x40 * d → part v 63 32 = (FMap.getD s.wear m.dst.toNat 0).toNat ∧ part v 31 0 = m.wearlim.toNat)) ∧
  (∀ p < 9, let x := portAt s p
    (off = 0x5000 + 0x20 * p → part v 63 56 = x.minmarg.toNat ∧ part v 55 48 = x.dnth.toNat ∧ part v 47 40 = x.upth.toNat ∧
      part v 9 9 = flag x.autoup ∧ part v 1 0 = x.rate.toNat) ∧
    (off = 0x5008 + 0x20 * p → part v 63 32 = x.feccorr.toNat ∧ part v 31 0 = x.fecunc.toNat) ∧
    (off = 0x5010 + 0x20 * p → part v 63 32 = x.crcdrop.toNat ∧ part v 31 0 = x.retx.toNat) ∧
    (off = 0x5018 + 0x20 * p → part v 63 32 = x.lost.toNat ∧ part v 31 0 = x.steps.toNat)) ∧
  (off = 0x6000 → part v 4 0 = s.tamper.toNat ∧ part v 63 5 = 0) ∧
  (∀ i, 1 ≤ i → i < 256 → off = 0x6100 + 8 * i → let k := FMap.getD s.keys i {}
    part v 63 63 = flag k.loaded ∧ part v 15 0 = k.asn.toNat ∧ part v 62 16 = 0) ∧
  (∀ d < 4, (off = 0x7100 + 0x20 * d → v = (dieAt s d).corr) ∧ (off = 0x7108 + 0x20 * d → v = (dieAt s d).uncorr) ∧
    (off = 0x7110 + 0x20 * d → v = (dieAt s d).lastPa.setWidth 64)) ∧
  (∀ n i, n < 256 → i < 16 → off = 0x80000 + 0x800 * n + 8 * i → v = acctOf s n i) ∧
  (0x6900 ≤ off → off < 0x7000 → v = 0) ∧ (off < 2 ^ 32 → off % 8 ≠ 0 → v = 0) ∧
  ∀ n < 32, off = 2 ^ 32 + 4 * n → let x := semAt s n
    v.toNat = if x.1 = 0 then 0 else min 255 ((s.clock.toNat - x.2) / 2 ^ 24) * 2 ^ 24 + x.1
/-- The step of its own that a write of the window causes. -/
def windowEvent (off : Nat) (v : Word) (i : Instr) : Prop :=
  (off = 0x0008 ∧ part v 1 0 = 1 ∧ i = .release) ∨ (off = 0x0008 ∧ part v 1 0 = 2 ∧ i = .discard) ∨
  (off = 0x0048 ∧ part v 7 0 = 0xA5 ∧ i = .kick) ∨
  (∃ k < 256, off = 0x2008 + 16 * k ∧ i = .hardbWrite (k / 64) (k % 64) (BitVec.ofNat 32 (part v 63 32))) ∨
  (∃ d < 4, off = 0x4000 + 0x40 * d ∧
    (part v 2 0, i) ∈ [(1, Instr.muOpen d), (2, .muStage d), (3, .muCommit d), (4, .muAbort d)]) ∨
  (∃ p < 9, off = 0x5000 + 0x20 * p ∧ part v 8 8 = 1 ∧ i = .portUp p) ∨
  (off = 0x7000 ∧ i = .slotclr (BitVec.ofNat 8 (part v 7 0))) ∨
  (∃ d < 4, off = 0x7118 + 0x20 * d ∧ part v 0 0 = 1 ∧ i = .errcntClr d)
/-- Offsets whose writes cause no step of their own, whatever is written. -/
def plainOffset (off : Nat) : Prop :=
  off ∈ [0x0000, 0x0010, 0x0018, 0x0020, 0x0028, 0x0040, 0x0050, 0x0058, 0x0060, 0x0068, 0x6000] ∨
  (0x1000 ≤ off ∧ off < 0x1400) ∨ (0x2000 ≤ off ∧ off < 0x3000 ∧ off % 16 = 0)
/-- The responder of a channel: 0 is the management port, 1 + p the Data Object Exchange capability of port p's PF. -/
def spdmOf (s : State) (ch : Nat) : Spdm := FMap.getD s.spdm ch {}
/-- A channel carries messages: the management port of a module with power, and a PF's capability while its link is up. -/
def channelOpen (s : State) (ch : Nat) : Prop :=
  s.boot.powered = true ∧ (ch = 0 ∨ ((ch = 1 ∨ ch = 2) ∧ FMap.getD s.linkUp (ch - 1) false = true))
/-- A message comes plainly, or as a record of the channel's handshake or session whose AES-256-GCM tag is right for `req`. -/
def rightTag (s : State) (via : SpdmVia) (req : List Byte) : Prop :=
  let x := spdmOf s via.ch
  ∀ g, via.tag = some g → (x.exchanging = true ∨ x.session = true) ∧
    (sessionSeal via.ch x.id x.reqSecret x.reqSeq req).2 = leBytes 16 g.toNat
def arrives (s : State) (via : SpdmVia) (req : List Byte) : Prop := channelOpen s via.ch ∧ rightTag s via req
/-- The responder once a message has been taken, and once it has been answered: the records of each direction are counted. -/
def taken (x : Spdm) (via : SpdmVia) : Spdm := if via.tag.isSome then { x with reqSeq := x.reqSeq + 1 } else x
def said (x : Spdm) (via : SpdmVia) : Spdm := if via.tag.isSome then { x with resSeq := x.resSeq + 1 } else x
/-- A message of version 1.3: its code, two parameters and its body. -/
def spdmMsg (code p1 p2 : Byte) (body : List Byte) : List Byte := [0x13, code, p1, p2] ++ body
/-- The responder `x` of the channel has answered `m`, as a record where the request came as one; it is `y` from then on, and nothing but
the key store may have changed besides. -/
def answersOn (s t : State) (via : SpdmVia) (x : Spdm) (m : List Byte) (y : Spdm) : Prop :=
  let r := sessionSeal via.ch x.id x.resSecret x.resSeq m
  t.mgmtOut = s.mgmtOut ++ [if via.tag.isSome then .secured via.ch (r.1 ++ r.2) else .spdm via.ch m] ∧
  (∀ ch, spdmOf t ch = if ch = via.ch then y else spdmOf s ch) ∧ t.ctxs = s.ctxs ∧ sameMemory s t ∧ t.tamper = s.tamper
/-- A step that the responder answers so, the key store as it was. -/
def replies_ (s : State) (i : Instr) (via : SpdmVia) (x : Spdm) (m : List Byte) (y : Spdm) : Prop :=
  ∃ t, exec i s = .next t ∧ answersOn s t via x m y ∧ t.keys = s.keys
/-- ERROR with a code; the responder changes no more. -/
def refusesWith (s : State) (i : Instr) (via : SpdmVia) (code : Byte) : Prop :=
  let x := taken (spdmOf s via.ch) via
  replies_ s i via x (spdmMsg 0x7F code 0 []) (said x via)
/-- A measurement block's value (Table 19-8). -/
def blockIs (s : State) (i : Nat) (v : List Byte) : Prop :=
  let f := s.boot.fw
  let image (k : Nat) : List Byte := sha3 (Config.fwImage (3 * f + k))
  (i = 1 → v = sha3 Config.romImage) ∧
  (i = 2 → ∃ k, v = image k ∧ (fwAccepted f 0 = true → fwAccepted f 1 = false → k = 1) ∧
    (fwAccepted f 0 = true → fwAccepted f 1 = true → fwAccepted f 2 = false → k = 2) ∧
    (fwAccepted f 0 = false ∨ (fwAccepted f 1 = true ∧ fwAccepted f 2 = true) → k = 0)) ∧
  (i = 3 → v = image 2) ∧ (i = 4 → v = image 1) ∧
  (i = 5 → v = (List.range 3).flatMap (fun k => leBytes 8 (Config.fusedVersion k)) ++
    ((List.range 4).filter Config.keyRevoked).flatMap Config.fusedHash ++ [BitVec.ofNat 8 (flag Config.debugDisabled)]) ∧
  (i = 6 → v.length = 8 * 255 ∧ ∀ j < 255, let k := FMap.getD s.keys (j + 1) {}
    leValue ((v.drop (8 * j)).take 8) = flag k.loaded * 2 ^ 63 + k.asn.toNat) ∧
  (i = 7 → leValue v = s.tamper.toNat ∧ v.length = 8)
/-- A vendor-defined message of R399. -/
def vendorMsg (code : Byte) (body : List Byte) : List Byte := spdmMsg code 0 0 (leBytes 2 body.length ++ body)

end Sys2Proof.Claims

/-- R16, R19, R363, R402, Tables 18-3 to 19-9: the controller sets the dynamic address; a register read answers the register's fields, and
zero where no table lists the offset, and the read view of a semaphore (at offsets that are the model's choice, assumption 33); a register
write sets the fields, causes the steps that it names, and is answered. A module whose boot was refused answers none of these. -/
def Sys2Proof.Claims.ManagementPort : Prop :=
  ∀ s : State,
    (∀ a : BitVec 7, exec (.i3cDynamicAddress a) s = .next { s with i3cAddr := some a }) ∧
    (¬ answering s → ∀ off v c, exec (.mctpControl c) s = .next s ∧ exec (.vdmRegisterRead off) s = .next s ∧
      exec (.vdmRegisterWrite off v) s = .next s) ∧
    (answering s → ∀ off v,
      (∀ c, exec (.mctpControl c) s = .next (tells s (.mctp c))) ∧
      (∃ x, exec (.vdmRegisterRead off) s = .next (tells s (.readData off x)) ∧ windowValue s off x) ∧
      (∃ t, exec (.vdmRegisterWrite off v) s = .next t) ∧
      ∃ u, exec (.registerWrite .mgmt off v) s = .next u ∧
        (plainOffset off → exec (.vdmRegisterWrite off v) s = .next (tells u (.writeDone off))) ∧
        ∀ i w, windowEvent off v i → exec i u = .next w → exec (.vdmRegisterWrite off v) s = .next (tells w (.writeDone off)))

/-- R402, R403, R404: on the management port and on the capability of each PF the responder answers each request of its set in the order of
negotiation, session and measurement, and any other with ERROR; on a channel that is down it answers nothing. A record whose AES-256-GCM
tag is wrong is not taken. The blocks of measurements are those of Table 19-8. Codes, layouts, the order of requests and what a signature
or a key covers are those of DSP0274 and DSP0277 (assumption 22), and keys, images and random bytes are free (assumption 10). -/
def Sys2Proof.Claims.AttestationMessages : Prop :=
  ∀ s : State,
    let via := s.mail
    let x0 := spdmOf s via.ch
    let x := taken x0 via
    let replies (i : Instr) (m : List Byte) (y : Spdm) : Prop := replies_ s i via y m (said y via)
    let secured (i : Instr) (ok : Prop) : Prop := (x0.session = true → via.tag.isSome = true → ok) ∧
      (x0.session = false ∨ via.tag = none → refusesWith s i via 4)
    (∀ slot o l a b c v, ¬ channelOpen s via.ch →
      ∀ i ∈ [Instr.getVersion, .getCapabilities, .negotiateAlgorithms, .getDigests, .getCertificate slot o l,
        .challenge a, .getMeasurements b, .keyExchange c, .finish v, .heartbeat, .keyUpdate, .endSession], exec i s = .next s) ∧
    (channelOpen s via.ch → ¬ rightTag s via (spdmMsg 0xE8 0 0 []) →
      exec .heartbeat s = .next (tells s (.spdm via.ch (spdmMsg 0x7F 6 0 [])))) ∧
    (let req : List Byte := [0x10, 0x84, 0, 0]; let rsp : List Byte := [0x10, 0x04, 0, 0, 0, 1, 0, 0x13]
      arrives s via req → replies_ s .getVersion { via with tag := none } x rsp { versioned := true, vca := req ++ rsp }) ∧
    (let req := spdmMsg 0xE1 via.p1 via.p2 via.body; arrives s via req →
      (x0.versioned = true → ∃ m, m.take 4 = [0x13, 0x61, 0, 0] ∧
        replies .getCapabilities m { x with capable := true, vca := x.vca ++ req ++ m }) ∧
      (x0.versioned = false → refusesWith s .getCapabilities via 4)) ∧
    (let req := spdmMsg 0xE3 via.p1 via.p2 via.body; arrives s via req →
      (x0.capable = true → ∃ m, m.take 4 = [0x13, 0x63, 3, 0] ∧
        replies .negotiateAlgorithms m { x with negotiated := true, vca := x.vca ++ req ++ m }) ∧
      (x0.capable = false → refusesWith s .negotiateAlgorithms via 4)) ∧
    (let req := spdmMsg 0x81 0 0 []; arrives s via req →
      (x0.negotiated = true → let m := spdmMsg 0x01 1 1 (sha3 Config.certChain)
        replies .getDigests m { x with certs := x.certs ++ req ++ m }) ∧
      (x0.negotiated = false → refusesWith s .getDigests via 4)) ∧
    (∀ (slot : Byte) (o l : BitVec 16), let req := spdmMsg 0x82 slot 0 (leBytes 2 o.toNat ++ leBytes 2 l.toNat); arrives s via req →
      (x0.negotiated = true → slot = 0 → o.toNat < Config.certChain.length →
        let part := (Config.certChain.drop o.toNat).take l.toNat
        let m := spdmMsg 0x02 0 0 (leBytes 2 part.length ++ leBytes 2 (Config.certChain.length - o.toNat - part.length) ++ part)
        replies (.getCertificate slot o l) m { x with certs := x.certs ++ req ++ m }) ∧
      (x0.negotiated = true → slot ≠ 0 ∨ Config.certChain.length ≤ o.toNat → refusesWith s (.getCertificate slot o l) via 1) ∧
      (x0.negotiated = false → refusesWith s (.getCertificate slot o l) via 4)) ∧
    (∀ (slot sm : Byte) (n : BitVec 256) (cx : Word), let i : Instr := .challenge ⟨slot, sm, n, cx⟩
      let req := spdmMsg 0x83 slot sm (leBytes 32 n.toNat ++ leBytes 8 cx.toNat); arrives s via req →
      (x0.negotiated = true → slot = 0 → ∃ r : List Byte, r.length = 32 ∧
        let m := spdmMsg 0x03 0 1 (sha3 Config.certChain ++ r ++ (if sm = 0 then [] else sha3 s.measureAll) ++ [0, 0] ++ leBytes 8 cx.toNat)
        replies i (m ++ spdmSign "responder-challenge_auth signing" (x.vca ++ x.certs ++ req ++ m)) { x with certs := [] }) ∧
      (x0.negotiated = true → slot ≠ 0 → refusesWith s i via 1) ∧ (x0.negotiated = false → refusesWith s i via 4)) ∧
    (∀ (k : Byte) (nn : Option (BitVec 256)) (cx : Word), let i : Instr := .getMeasurements ⟨k, nn, cx⟩
      let req := spdmMsg 0xE0 (BitVec.ofNat 8 (flag nn.isSome)) k ((nn.map fun v => leBytes 32 v.toNat ++ [0]).getD [] ++ leBytes 8 cx.toNat)
      let block (j : Nat) (v : List Byte) : List Byte :=
        [BitVec.ofNat 8 j, 1] ++ leBytes 2 (v.length + 3) ++ [BitVec.ofNat 8 (j - 1)] ++ leBytes 2 v.length ++ v
      let tells_ (p1 count : Byte) (bs : List Byte) : Prop := ∃ r : List Byte, r.length = 32 ∧
        let m := spdmMsg 0x60 p1 0 ([count] ++ leBytes 3 bs.length ++ bs ++ r ++ [0, 0] ++ leBytes 8 cx.toNat)
        (nn ≠ none → replies i (m ++ spdmSign "responder-measurements signing" (x.vca ++ (x.measured ++ req ++ m)))
          { x with measured := [] }) ∧
        (nn = none → replies i m { x with measured := x.measured ++ req ++ m })
      arrives s via req →
      (x0.negotiated = true → k = 0 → tells_ 7 0 []) ∧
      (x0.negotiated = true → 1 ≤ k.toNat → k.toNat ≤ 7 → ∃ v, blockIs s k.toNat v ∧ tells_ 0 1 (block k.toNat v)) ∧
      (x0.negotiated = true → k = 255 → ∃ vs : List (List Byte), vs.length = 7 ∧ (∀ j < 7, blockIs s (j + 1) (vs.getD j [])) ∧
        tells_ 0 7 ((List.range 7).flatMap fun j => block (j + 1) (vs.getD j []))) ∧
      (x0.negotiated = true → 7 < k.toNat → k.toNat < 255 → refusesWith s i via 1) ∧
      (x0.negotiated = false → refusesWith s i via 4)) ∧
    (∀ (slot sm : Byte) (ses : BitVec 16) (pol : Byte) (r : BitVec 256) (e : BitVec 768) (ex : List Byte),
      let i : Instr := .keyExchange ⟨slot, sm, ses, pol, r, e, ex⟩
      let point := leBytes 96 e.toNat
      let q := (beValue (point.take 48), beValue (point.drop 48))
      let d := Config.ephemeral s.free % (ecN - 1) + 1
      let req := spdmMsg 0xE4 sm slot (leBytes 2 ses.toNat ++ [pol, 0] ++ leBytes 32 r.toNat ++ point ++ leBytes 2 ex.length ++ ex)
      arrives s via req →
      (x0.negotiated = false ∨ via.tag ≠ none → refusesWith s i via 4) ∧
      (x0.negotiated = true → via.tag = none → slot ≠ 0 ∨ ecOn q = false → refusesWith s i via 1) ∧
      (x0.negotiated = true → via.tag = none → slot = 0 → ecOn q = true → match ecMul ecBase d 384, ecMul q d 384 with
        | some mine, some shared => ∃ rnd : List Byte, rnd.length = 32 ∧
          let m := spdmMsg 0x64 0 0 (leBytes 2 s.free ++ [0, 0] ++ rnd ++ beBytes 48 mine.1 ++ beBytes 48 mine.2 ++
            (if sm = 0 then [] else sha3 s.measureAll) ++ [0, 0])
          let th := x.vca ++ sha3 Config.certChain ++ req ++ m
          let sig := spdmSign "responder-key_exchange_rsp signing" th
          let hs := hmac (List.replicate 64 0) (beBytes 48 shared.1)
          let res := spdmDerive hs "rsp hs data" (sha3 (th ++ sig)) 64
          let mac := hmac (spdmDerive res "finished" [] 64) (sha3 (th ++ sig))
          replies i (m ++ sig ++ mac) { x with
            exchanging := true, session := false, th := th ++ sig ++ mac, handshake := hs, id := leBytes 2 ses.toNat ++ leBytes 2 s.free
            reqSecret := spdmDerive hs "req hs data" (sha3 (th ++ sig)) 64, resSecret := res, reqSeq := 0, resSeq := 0 }
        | _, _ => refusesWith s i via 1)) ∧
    (∀ v : BitVec 512, let head := spdmMsg 0xE5 0 0 []; let req := head ++ leBytes 64 v.toNat; arrives s via req →
      let right := hmac (spdmDerive x0.reqSecret "finished" [] 64) (sha3 (x0.th ++ head)) = leBytes 64 v.toNat
      (x0.exchanging = false ∨ via.tag = none → refusesWith s (.finish v) via 4) ∧
      (x0.exchanging = true → via.tag ≠ none → ¬ right → refusesWith s (.finish v) via 6) ∧
      (x0.exchanging = true → via.tag ≠ none → right →
        let rsp := spdmMsg 0x65 0 0 []
        let master := hmac (spdmDerive x0.handshake "derived" [] 64) (List.replicate 64 0)
        let hash := sha3 (x0.th ++ req ++ rsp)
        replies_ s (.finish v) via x rsp { said x via with
          exchanging := false, session := true, th := [], handshake := [], reqSeq := 0, resSeq := 0
          reqSecret := spdmDerive master "req app data" hash 64, resSecret := spdmDerive master "rsp app data" hash 64 })) ∧
    (arrives s via (spdmMsg 0xE8 0 0 []) → secured .heartbeat (replies .heartbeat (spdmMsg 0x68 0 0 []) x)) ∧
    (let op := via.p1
      let mk := via.p2
      arrives s via (spdmMsg 0xE9 op mk []) →
      let i : Instr := .keyUpdate
      let next (k : List Byte) : List Byte := spdmDerive k "traffic upd" [] 64
      let m := spdmMsg 0x69 op mk []
      secured i ((op = 1 → replies i m { x with reqSecret := next x.reqSecret, reqSeq := 0 }) ∧
        (op = 2 → replies i m { x with reqSecret := next x.reqSecret, reqSeq := 0, resSecret := next x.resSecret, resSeq := 0 }) ∧
        (op = 3 → replies i m x) ∧ (op = 0 ∨ 3 < op.toNat → refusesWith s i via 1))) ∧
    (arrives s via (spdmMsg 0xEC via.p1 0 []) → secured .endSession
      (replies_ s .endSession via x (spdmMsg 0x6C 0 0 []) { said x via with session := false, id := [], reqSecret := [], resSecret := [] }))

/-- R399: KEY_SET loads a slot's key pair and ASN inside a secured session, replacing what it held, and is refused for slot 0, for equal
keys and outside a session; KEY_CLEAR empties a slot. A refused message changes no slot. Their payloads are the model's choice
(assumption 22). -/
def Sys2Proof.Claims.KeyStore : Prop :=
  ∀ (s : State) (slot : Byte) (asn : BitVec 16) (k1 k2 : BitVec 256),
    let via := s.mail
    let x0 := spdmOf s via.ch
    let x := taken x0 via
    let inside := x0.session = true ∧ via.tag ≠ none
    let done (i : Instr) (code : Byte) (f : Nat → KeySlot) : Prop := ∃ t, exec i s = .next t ∧
      answersOn s t via x (vendorMsg 0x7E [code]) (said x via) ∧ (∀ n, FMap.getD t.keys n {} = f n) ∧ t.seals = s.seals
    let set : Instr := .keySet slot asn k1 k2
    let clear : Instr := .keyClear slot
    (arrives s via (vendorMsg 0xFE ([0, slot] ++ leBytes 2 asn.toNat ++ leBytes 32 k1.toNat ++ leBytes 32 k2.toNat)) →
      (inside → slot ≠ 0 → k1 ≠ k2 →
        done set 0 fun n => if n = slot.toNat then { loaded := true, asn := asn, k1 := k1, k2 := k2 } else FMap.getD s.keys n {}) ∧
      (inside → slot = 0 ∨ k1 = k2 → refusesWith s set via 1) ∧ (¬ inside → refusesWith s set via 4)) ∧
    (arrives s via (vendorMsg 0xFE [1, slot]) →
      (inside → slot ≠ 0 → FMap.sorted s.keys = true → done clear 1 fun n => if n = slot.toNat then {} else FMap.getD s.keys n {}) ∧
      (inside → slot = 0 → refusesWith s clear via 1) ∧ (¬ inside → refusesWith s clear via 4))

namespace Sys2Proof.Claims

/-! ## The machine as a whole -/

/-- What word `n` of a bundle leaves, `u` being what its instruction makes of `s`: one whose action has to follow a PEER access that an
earlier slot of the bundle has just sent is put off (R192, R333; assumption 87), and a read of the prefix table is kept, to be made again
should power fail (R358). -/
def wordLeaves (bs : List Byte) (w : SlotWord) (n : Nat) (s u : State) : State :=
  match SlotWord.afterPeer w with
  | none => u
  | some d =>
    if Pred.holds (SlotWord.pred w) s.cur.st.q = true ∧ s.peerBusy s.iss.cx = true ∧ u.iss.faulted = none then s.defer bs n d
    else if SlotWord.readsTable w = true then s.noteRedo u bs n else u
/-- The instructions of a bundle's words run one after another from `s`, and end in `t`; the first fault ends them (R106). -/
def inOrder (bs : List Byte) : List (SlotWord × Nat) → State → State → Prop
  | [], s, t => t = s
  | (w, n) :: ws, s, t => (s.iss.faulted ≠ none → t = s) ∧
    (s.iss.faulted = none → ∃ u, exec w.instr s = .next u ∧ inOrder bs ws (wordLeaves bs w n s u) t)
/-- A word of slot S. -/
def inSlotS : SlotWord → Prop
  | .s _ => True
  | _ => False
/-- The words of a bundle, each with its place among them: those of slot S are `xs` and those of the other slots `ys`. -/
def parted (b : Bundle) (xs ys : List (SlotWord × Nat)) : Prop :=
  (xs ++ ys).map (·.1) = Bundle.words b ∧ (xs ++ ys).map (·.2) = List.range (xs ++ ys).length ∧
  (∀ w ∈ xs, inSlotS w.1) ∧ ∀ w ∈ ys, ¬ inSlotS w.1
/-- The one strand of a core stands at a bundle with nothing pending or in flight: bound, running, in no fused set, owing no cycle,
asked for no freeze and held by no Dawn; the core is awake with its width on that strand, its sequencer idle, and its other contexts
hold no strand. -/
def alone (s : State) (c i : Nat) : Prop :=
  let k := FMap.getD s.cores c {}
  let x := s.ctx (c * 4 + i)
  i < 4 ∧ k.running % 4 = i ∧ k.kept = true ∧ k.gated = false ∧ k.wakeIn = 0 ∧ k.lns.mode = .idle ∧
  x.dawnHeld = false ∧ x.reissue = none ∧ x.st.kat = none ∧ x.task ≠ none ∧ x.st.mode = .run ∧ x.dormant = false ∧ x.freeze = false ∧ x.st.ctl.fused = false ∧ x.st.owed = 0 ∧
  x.st.flight = [] ∧ x.st.pend = [] ∧ ∀ j < 4, j ≠ i → s.ctx (c * 4 + j) = {}
/-- The state in which the bundle's slots run: a context cycle has begun (R266), and the issue registers name the bundle. -/
def begunAt (s : State) (c i : Nat) (h : Header) (len : Nat) : State :=
  ((s.edgeCounts c).beginCycle (c * 4 + i)).beginBundle (c * 4 + i) h len none
/-- The bundle at PC has been fetched and decoded without a fault, and may issue at once: it is no wait and holds for nothing, the
divider is free for it, no PEER access of its strand is outstanding where it has to follow one, its job asks for no probe, and no
held access of any strand comes before its own. -/
def readyBundle (s : State) (c i : Nat) (bs : List Byte) (b : Bundle) : Prop :=
  s.fetch (c * 4 + i) = .bytes bs ∧ decodeBundle bs = some b ∧ b.head.wait = false ∧ b.head.pres ≠ 0 ∧
  decodeFault (s.ctx (c * 4 + i)).tiles b.slots = none ∧ s.mixtrap (c * 4 + i) = false ∧
  ∀ w ∈ Bundle.words b, SlotWord.isHolding w = false ∧
    (SlotWord.divides w = true → (FMap.getD s.cores c {}).divBusy ≤ 1) ∧
    ((SlotWord.afterPeer w).isSome = true → s.peerBusy (c * 4 + i) = false) ∧ (SlotWord.asksHome w = true → s.holders = [])
/-- An address that a packet may name in a space. -/
def packetAddr (sp : PkSpace) (a : Word) : Prop := sp = .dev → a.toNat < 2 ^ 56
/-- What a packet's form asks of its header and operands (R24 to R36, Table 01-14): its stream, LEN, alignment and limits. -/
def packetForm (st : StreamId) (fits : Nat) (i : Instr) : Prop :=
  let len (h : PkH) (n : Nat) : Prop := h.st = st ∧ h.len.toNat = n
  let word (sp : PkSpace) (a : Word) : Prop := a.toNat % 8 = 0 ∧ packetAddr sp a
  match i with
  | .pkNop h => h.st = st ∧ 1 ≤ h.len.toNat
  | .pkWriteStore h sp a d => len h (2 + d.length) ∧ d ≠ [] ∧ word sp a
  | .pkWriteAdd h sp a _ => len h 3 ∧ word sp a
  | .pkWriteForce h a d => len h (2 + d.length) ∧ d ≠ [] ∧ word .dev a
  | .pkCopy h sa a sb b _ => len h 4 ∧ packetAddr sa a ∧ packetAddr sb b
  | .pkPred h sp _ a _ _ => len h 4 ∧ word sp a
  | .pkLoop h _ body => len h 2 ∧ body.toNat % 8 = 0 ∧ 8 ≤ body.toNat ∧ body.toNat ≤ 512 ∧ body.toNat + 16 ≤ fits
  | .pkCall h sp a n => len h 3 ∧ word sp a ∧ n.toNat % 8 = 0 ∧ 8 ≤ n.toNat
  | .pkRet h => len h 1
  | .pkFfence h => len h 1
  | .pkWaitmem h sp _ a _ _ _ => len h 4 ∧ word sp a
  | .pkLaunch h _ a => len h 2 ∧ a.toNat % 128 = 0 ∧ a.toNat < 2 ^ 56
  | .pkSignal h sp force a _ => len h 3 ∧ word sp a ∧ (force = true → sp = .dev)
  | .pkJob h _ => len h 1
  | .pkIrq h _ => len h 1
  | _ => False

end Sys2Proof.Claims

/-- R7, R13, R18, R20, R88, R366, R378, R388 and the Reset columns: what module reset leaves. LPDDR6 reads 0 (R361, R388); that MRAM and
every other byte of memory do is the model's choice (assumption 2). -/
def Obligations.ResetState : Prop :=
  let s := State.reset
  s.clock = 0 ∧ s.stored = true ∧ s.boot.ready = false ∧ s.boot.held = false ∧ s.boot.image = 0 ∧ s.boot.jobtab = 0 ∧ s.boot.asntab = 0 ∧
  s.boot.savesz = 4096 ∧ s.boot.modid = 0 ∧ s.nightdly = 12500000 ∧ s.govmode = true ∧ s.updPend = false ∧ s.tie = 0 ∧
  (∀ a, Memory.get s.mem a = 0 ∧ inSet s.full a = false) ∧ (∀ cx, (s.ctx cx).task = none) ∧
  (∀ k, (clusterOf_ s k).mode = .night ∧ (clusterOf_ s k).eff = 0 ∧ (clusterOf_ s k).target = 0xFFFF) ∧
  (∀ d, (dieAt s d).ilim = 900 ∧ (dieAt s d).capCount = 16 ∧ (muOf s d).wearlim = 4000000 ∧ (muOf s d).mode = .idle ∧
    (dieAt s d).corr = 0 ∧ (dieAt s d).uncorr = 0) ∧
  (∀ d r, (regionAt s d r).allow = 256 ∧ (regionAt s d r).hardb = 1048576 ∧ (regionAt s d r).softb = 524288 ∧ (regionAt s d r).d = 0) ∧
  (∀ p, (portAt s p).dnth = 16 ∧ (portAt s p).upth = 48 ∧ (portAt s p).rate = 0 ∧ (portAt s p).autoup = false) ∧
  (∀ n, semAt s n = (0, 0)) ∧ (∀ k, FMap.getD s.funcJob k 0xFFF = 0xFFF) ∧
  ∀ st, (headOf s st).log2 = 12 ∧ (headOf s st).en = false ∧ (headOf s st).wptr = 0 ∧ (headOf s st).rptr = 0 ∧
    (headOf s st).base = 0 ∧ (headOf s st).done = 0 ∧ (headOf s st).job = 0xFFF

/-- R1: with nothing left to move in a tick, `%clock` goes on to the next tick of a module that has power, and memory stays. -/
def Sys2Proof.Claims.ClockTicks : Prop :=
  ∀ s : State, s.agenda = [] →
    (s.boot.powered = true → ∃ t, step s = .next t ∧ t.clock = s.clock + 1 ∧ sameMemory s t ∧ t.boot = s.boot ∧ t.iss = s.iss) ∧
    (s.boot.powered = false → s.inputs = [] → step s = .next s)

/-- R94 to R96, R106, R266: a step runs the decoded instruction. An event that is due is performed by its meaning; a stream's packet is
performed as it is decoded; and a core's edge runs the instructions of the bundle at PC, in slot order, each by its meaning, and then
ends the bundle. A bundle that faults has no other effect. -/
def Obligations.StepRunsTheDecoded : Prop :=
  (∀ (s : State) (i : Instr) (rest : List Agent), s.agenda = .ev i :: rest → step s = exec i { s with agenda := rest }) ∧
  (∀ (s u : State) (st : StreamId) (i : Instr) (rest : List Agent), s.agenda = .stream st :: rest →
    State.streamTurn { s with agenda := rest } st = (.perform i, u) → step s = exec i u) ∧
  (∀ (s : State) (c i : Nat) (rest : List Agent) (bs : List Byte) (b : Bundle), s.agenda = .core c :: rest → alone s c i →
    readyBundle s c i bs b →
    let before := State.edgeCounts { s with agenda := rest } c
    let begun := begunAt { s with agenda := rest } c i b.head bs.length
    let ends (t : State) : State := ((t.countWaiting c (c * 4 + i)).template c before).edgeEnd c
    ∀ xs ys u t, parted b xs ys → inOrder bs xs begun u → (u.iss.faulted = none → u.lnsReady c ≠ some (c * 4 + i)) → inOrder bs ys u t →
      (t.iss.faulted = none → t.iss.held = false → before.peerOver t (c * 4 + i) = false → (t.ctx (c * 4 + i)).st.flight.length ≤ 32 →
        step s = .next (ends (t.finish
          ((Bundle.words b).any fun w => SlotWord.isV w && Pred.holds (SlotWord.pred w) begun.cur.st.q) false))) ∧
      (∀ f, t.iss.faulted = some f →
        let p := begun.updCtx (c * 4 + i) fun x => { x with probed := false }
        step s = .next (ends { (p.takeFault (c * 4 + i) f) with iss := {} })))

/-- R94 to R127, R182: words written out from the encoding tables decode to the instructions they stand for: a header and its slots, one
word of each slot, and a packet. -/
def Obligations.DecodeWords : Prop :=
  (Header.ofWord 0xD3858600#32).length = 32 ∧ (Header.ofWord 0xD3858600#32).legal = true ∧
  (Header.ofWord 0x01019600#32).wait = true ∧ (Header.ofWord 0x01019600#32).wflag = 37 ∧ (Header.ofWord 0x01019600#32).wmode = 2 ∧
  decodeSlot .s (Raw.ofWord 0x0841C44C0000#48 none) =
    .ok (.s (.ldDev ⟨.always, ⟨false, 7⟩, .reg 4, .take, false, .d, .reg 0, 0⟩)) ∧
  decodeSlot .m (Raw.ofWord 0x008003000100#48 none) = .ok (.m (.maccV ⟨.always, 0, .reg 3, .s8, false, 0⟩)) ∧
  (∀ i, i ∈ [SlotPos.s, .v0, .v1, .m, .c0, .c1, .l] → decodeSlot i (Raw.ofWord 0xFFF000000000#48 none) = .error .illOp)

/-- R97 to R127, R182: the encoder and the decoder of slot words agree: every instruction that a slot can hold has a word, and every
well-formed one, at every value of its operands, decodes from its own word to itself; and no bit of a slot's 48-bit word, or of its
extension word, is lost when it is read as fields. -/
def Sys2Proof.Claims.SlotWordsRoundTrip : Prop :=
  (∀ (i : Instr) (p : SlotPos) (r : Raw), Instr.wf i = true → encodeSlot i = some (p, r) → ∃ w, decodeSlot p r = .ok w ∧ w.instr = i) ∧
  (∀ w : SlotWord, ∃ p r, encodeSlot w.instr = some (p, r)) ∧
  ∀ (w : BitVec 48) (x : Option (BitVec 32)), (Raw.ofWord w x).word = w ∧ (Raw.ofWord w x).xw = x

/-- R24 to R36: a packet of each form, at every value of its operands that the form admits, decodes from its own words to itself. -/
def Sys2Proof.Claims.PacketsRoundTrip : Prop :=
  ∀ (i : Instr) (ws : List Word) (st : StreamId) (fits : Nat), packetForm st fits i → encodePacket i = some ws → 8 * ws.length ≤ fits →
    decodePacket st ws fits none = .ok i

/-- R318, R331, R361: every step keeps the memories and the sets of full words in their one form: addresses rise, no byte that reads as
an unlisted one is listed. The one form is the model's own (assumption 2). -/
def Obligations.StepKeepsStored : Prop := ∀ s t : State, s.stored = true → step s = .next t → t.stored = true

/-- Every instruction and every step has a next state: nothing that the spec describes stops the machine. -/
def Sys2Proof.Claims.NothingStops : Prop := (∀ (i : Instr) (s : State), completes (exec i s)) ∧ ∀ s : State, completes (step s)

/-- R76: a read of g0 returns 0 with residue 0, whatever the machine holds for it; a result for g0 that becomes readable is discarded, but
its latch is written. -/
def Obligations.GeneralRegisterZero : Prop :=
  (∀ (s : State) (o : OpRRR) (q : BitVec 5), Pred.holds o.p s.cur.st.q = true → o.a = .reg 0 → o.c = .reg q → q.toNat < 8 →
    s.cur.st.q.getLsbD q.toNat = true → exec (.sel o) s = .next (s.entering [gEntry s o.d 1 0#64 0#4])) ∧
  ∀ (s : State) (cx n : Nat) (e : Flight) (v : GVal) (x : Latch), (s.ctx cx).st.flight = [e] → readable s e = true →
    e.op = .g 0 v → e.latch = some (n, x) → (s.ctx cx).landLatches = [] →
    ∃ t, exec (.resultReadable cx) s = .next t ∧ (∀ m, (t.ctx cx).st.getG m = (s.ctx cx).st.getG m) ∧ (t.ctx cx).st.getG 0 = {} ∧
      FMap.getD (t.ctx cx).x n {} = x ∧ ∀ m, m ≠ n → FMap.getD (t.ctx cx).x m {} = FMap.getD (s.ctx cx).x m {}

/-- R96: the fields of a slot word stand where Table 04-7 puts them; the predicate codes 0b0000, 0b1nnn and 0b0nnn mean always, "if q is
1" and "if q is 0", and no code means "if q0 is 0"; an instruction whose slot does not execute changes nothing, so it draws nothing
from G. -/
def Obligations.SlotWordsAndPredicates : Prop :=
  (∀ (pred : BitVec 4) (op : BitVec 8) (d a b c : BitVec 6) (imm : BitVec 12) (x : Option (BitVec 32)),
    Raw.ofWord (pred ++ op ++ d ++ a ++ b ++ c ++ imm : BitVec 48) x = ⟨pred, op, d, a, b, c, imm, x⟩) ∧
  (∀ (l r : Bool) (n : BitVec 4), (Dst.of6 (BitVec.ofBool l ++ BitVec.ofBool r ++ n : BitVec 6)).latchOnly = l ∧
    (Dst.of6 (BitVec.ofBool l ++ BitVec.ofBool r ++ n : BitVec 6)).n.toNat = 16 * r.toNat + n.toNat) ∧
  (∀ q : BitVec 8, Pred.holds (Pred.of4 0) q = true ∧
    (∀ n < 8, Pred.holds (Pred.of4 (BitVec.ofNat 4 (8 + n))) q = q.getLsbD n) ∧
    (∀ n < 8, 0 < n → Pred.holds (Pred.of4 (BitVec.ofNat 4 n)) q = !q.getLsbD n)) ∧
  SlotsSkippedHaveNoEffect

/-- R19, R230, R231, R232, R234, R402: under a predicate that holds, `mshift`, `mzero`, `mdrain` and `mkat` complete in every state, and the
two forms of `macc` where the active buffer is empty or of a format that agrees with the operand's (for the scratchpad form, where its
row can be read): each adds at most one result in flight, and changes no memory, no other strand and no register yet. A register
write on the management port completes wherever the port answers, and its answer comes last. -/
def Obligations.LatticeAndRegisterWritesComplete : Prop :=
  ∀ s : State,
    let enters (i : Instr) (n : Nat) : Prop := ∃ t e, exec i s = .next t ∧ e.left = n ∧ sameMemory s t ∧ sameOthers s t ∧
      (t.ctx s.iss.cx).st = { s.cur.st with flight := s.cur.st.flight ++ [e] } ∧ t.iss.faulted = s.iss.faulted
    let passes_ (i : Instr) : Prop := ∃ t, exec i s = .next t ∧ sameMemory s t ∧ sameOthers s t ∧ (t.ctx s.iss.cx).st = s.cur.st ∧
      t.iss.faulted = s.iss.faulted
    let beats (i : Instr) (o : OpMA) : Prop := (o.ty ∈ accepted s.cur.st.active.tag → enters i 4) ∧ (s.cur.st.active.tag = .none → passes_ i)
    (∀ o : OpMT, Pred.holds o.p s.cur.st.q = true → enters (.mshift o) 4 ∧ enters (.mzero o) 4) ∧
    (∀ o : OpMD, Pred.holds o.p s.cur.st.q = true → enters (.mdrain o) 3) ∧
    (∀ o : OpMK, Pred.holds o.p s.cur.st.q = true → enters (.mkat o) 6) ∧
    (∀ o : OpMA, Pred.holds o.p s.cur.st.q = true → beats (.maccV o) o ∧ (tileReads s o.a o.row.toNat → beats (.maccSp o) o)) ∧
    (answering s → ∀ off v, ∃ t ms, exec (.vdmRegisterWrite off v) s = .next t ∧ t.mgmtOut = s.mgmtOut ++ ms ++ [.writeDone off])

/-! ## Statements that gather the claims of one family -/

/-- ScalarIntegerResults and AddSubPredictResidues and BitAndFieldResults and CompareToPredicate: each says what its own docstring says, with the rules it rests on. -/
def Obligations.ScalarInteger : Prop := ScalarIntegerResults ∧ AddSubPredictResidues ∧ BitAndFieldResults ∧ CompareToPredicate

/-- SelectConstantsAndControlReads and ControlWriteChecksResidue and ControlWriteByField: each says what its own docstring says, with the rules it rests on. -/
def Obligations.ConstantsAndControlRegisters : Prop := SelectConstantsAndControlReads ∧ ControlReadViews ∧ ControlWriteChecksResidue ∧ ControlWriteByField

/-- ScalarFloatResults and ScalarConversionResults and RepresentableIsUnchanged and WorkedRoundings: each says what its own docstring says, with the rules it rests on. -/
def Obligations.ScalarFloat : Prop := ScalarFloatResults ∧ ScalarConversionResults ∧ RepresentableIsUnchanged ∧ WorkedRoundings

/-- TransfersAndNops and LoopsCountAndRotate and SleepsLockStepAndReturn: each says what its own docstring says, with the rules it rests on. -/
def Obligations.ControlFlow : Prop := TransfersAndNops ∧ LoopsCountAndRotate ∧ SleepsLockStepAndReturn

/-- BreakEntersTheHandler and SupervisorFaultsStopTheCrew: each says what its own docstring says, with the rules it rests on. -/
def Obligations.SupervisorAndBreak : Prop := BreakEntersTheHandler ∧ SupervisorFaultsStopTheCrew

/-- ScratchpadLoads and ScratchpadStores: each says what its own docstring says, with the rules it rests on. -/
def Obligations.ScratchpadAccesses : Prop := ScratchpadLoads ∧ ScratchpadStores

/-- DeviceLoads and DeviceStores and AbsentPages: each says what its own docstring says, with the rules it rests on. -/
def Obligations.DeviceAccesses : Prop := DeviceLoads ∧ DeviceStores ∧ TagWindowAccesses ∧ AbsentPages

/-- DeviceChecksSound and DeviceFaultsInOrder and MixedSizesAreRefused: each says what its own docstring says, with the rules it rests on. -/
def Obligations.DeviceChecks : Prop := DeviceChecksSound ∧ DeviceFaultsInOrder ∧ MixedSizesAreRefused

/-- ScratchpadAtomics and DeviceAtomics: each says what its own docstring says, with the rules it rests on. -/
def Obligations.Atomics : Prop := ScratchpadAtomics ∧ DeviceAtomics

/-- PeerRequests and HostAccesses: each says what its own docstring says, with the rules it rests on. -/
def Obligations.PeerAndHostAccesses : Prop := PeerRequests ∧ HostAccesses

/-- BarrierUpdates and BarrierWait: each says what its own docstring says, with the rules it rests on. -/
def Obligations.Barriers : Prop := BarrierUpdates ∧ BarrierWait

/-- VectorIntegerResults and VectorLogicMovesAndShifts: each says what its own docstring says, with the rules it rests on. -/
def Obligations.VectorInteger : Prop := VectorIntegerResults ∧ VectorLogicMovesAndShifts

/-- VectorFloatResults and VectorReciprocalAndPower: each says what its own docstring says, with the rules it rests on. -/
def Obligations.VectorFloat : Prop := VectorFloatResults ∧ VectorReciprocalAndPower

/-- VectorConversions and BlockPackAndUnpack: each says what its own docstring says, with the rules it rests on. -/
def Obligations.VectorConvertAndPack : Prop := VectorConversions ∧ BlockPackAndUnpack

/-- LatticePushes and WeightPushes: each says what its own docstring says, with the rules it rests on. -/
def Obligations.Pushes : Prop := LatticePushes ∧ WeightPushes

/-- LatticeBeats and LatticeTilesAndKnownAnswers: each says what its own docstring says, with the rules it rests on. -/
def Obligations.BeatsAndTiles : Prop := LatticeBeats ∧ LatticeTilesAndKnownAnswers

/-- VectorScratchpadAccesses and VectorDeviceAccesses: each says what its own docstring says, with the rules it rests on. -/
def Obligations.VectorMemory : Prop := VectorScratchpadAccesses ∧ VectorDeviceAccesses

/-- CopiesEnterTheirQueue and EngineCommandsEnterTheirQueue: each says what its own docstring says, with the rules it rests on. -/
def Obligations.CommandsEnterTheirQueue : Prop := CopiesEnterTheirQueue ∧ EngineCommandsEnterTheirQueue

/-- KvBinding and PrefixTable: each says what its own docstring says, with the rules it rests on. -/
def Obligations.KvBindingAndPrefixTable : Prop := KvBinding ∧ PrefixTable

/-- SequencerInstructions and SequencerOrder: each says what its own docstring says, with the rules it rests on. -/
def Obligations.Sequencer : Prop := SequencerInstructions ∧ SequencerOrder

/-- TrapsBetweenBundles and WaitsAndEmptyBundles: each says what its own docstring says, with the rules it rests on. -/
def Obligations.TrapsAndWaits : Prop := TrapsBetweenBundles ∧ WaitsAndEmptyBundles

/-- DueResultsAreWritten and PromisesAndCompares: each says what its own docstring says, with the rules it rests on. -/
def Obligations.ResultsLand : Prop := DueResultsAreWritten ∧ PromisesAndCompares

/-- HeldAccessesAtTheirHomes and HoldsBeginAndEnd: each says what its own docstring says, with the rules it rests on. -/
def Obligations.HeldAccesses : Prop := HeldAccessesAtTheirHomes ∧ HoldsBeginAndEnd

/-- EnginesComplete and RotationsAreMatched: each says what its own docstring says, with the rules it rests on. -/
def Obligations.Engines : Prop := EnginesComplete ∧ RotationsAreMatched

/-- RecordConditions and TaskInstructions: each says what its own docstring says, with the rules it rests on. -/
def Obligations.TaskRecordsAndTasks : Prop := RecordConditions ∧ TaskInstructions

/-- PageIn and RetirementAndWalks: each says what its own docstring says, with the rules it rests on. -/
def Obligations.PageInAndRetirement : Prop := PageIn ∧ RetirementAndWalks

/-- DispatchDecisions and CrewsBindAndSave: each says what its own docstring says, with the rules it rests on. -/
def Obligations.DispatchBindAndSave : Prop := DispatchDecisions ∧ CrewsBindAndSave

/-- ParkedTasksReturn and FaultRecordsAreDelivered: each says what its own docstring says, with the rules it rests on. -/
def Obligations.ParkedAndFaulted : Prop := ParkedTasksReturn ∧ FaultRecordsAreDelivered

/-- PatternsSlew and NightfallAndDaybreak: each says what its own docstring says, with the rules it rests on. -/
def Obligations.ClusterPower : Prop := PatternsSlew ∧ NightfallAndDaybreak

/-- ShardsAreAppliedOnce and RequestsEndOnce: each says what its own docstring says, with the rules it rests on. -/
def Obligations.LinkRequests : Prop := ShardsAreAppliedOnce ∧ RequestsEndOnce

/-- FuncJobIsKeptWhileInUse and Semaphores and RegisterWrites: each says what its own docstring says, with the rules it rests on. -/
def Obligations.HostRegisters : Prop := FuncJobIsKeptWhileInUse ∧ Semaphores ∧ RegisterWrites

/-- StreamRegisters and FunctionLevelResets: each says what its own docstring says, with the rules it rests on. -/
def Obligations.StreamHeads : Prop := StreamRegisters ∧ FunctionLevelResets

/-- SkippedPackets and PacketsThatWrite and JobsVectorsAndCompletions: each says what its own docstring says, with the rules it rests on. -/
def Obligations.PacketEffects : Prop := SkippedPackets ∧ PacketsThatWrite ∧ JobsVectorsAndCompletions

/-- PacketsThatCompare and LoopsAndLevels: each says what its own docstring says, with the rules it rests on. -/
def Obligations.PacketsCompareAndLoop : Prop := PacketsThatCompare ∧ LoopsAndLevels

/-- ManagementPort and AttestationMessages and KeyStore: each says what its own docstring says, with the rules it rests on. -/
def Obligations.ManagementAndKeys : Prop := ManagementPort ∧ AttestationMessages ∧ KeyStore

/-- ClockTicks and NothingStops: each says what its own docstring says, with the rules it rests on. -/
def Obligations.ClockAndCompletion : Prop := ClockTicks ∧ NothingStops

/-- SlotWordsRoundTrip and PacketsRoundTrip: each says what its own docstring says, with the rules it rests on. -/
def Obligations.RoundTrips : Prop := SlotWordsRoundTrip ∧ PacketsRoundTrip
end

