-- ==== Sys2Proof/Laws/Map.lean ====
section
/-!
SUPPORT. Laws of the sparse maps, the byte memories and the sets of words: read after write, and the canonical form kept by every
operation.
-/
namespace Sys2Proof

namespace FMap
variable {α : Type}

theorem find_put (m : FMap α) (k j : Nat) (v : α) : find (put m k v) j = if k = j then some v else find m j := by
  induction m with
  | nil => simp [put, find]
  | cons e r ih =>
    obtain ⟨a, w⟩ := e
    simp only [put]
    by_cases h1 : k < a
    · simp only [if_pos h1, find]
    · by_cases h2 : k = a
      · subst h2
        by_cases h3 : k = j <;> simp [find, h3]
      · simp only [if_neg h1, if_neg h2, find, ih]
        by_cases h3 : a = j
        · subst h3; simp [h2]
        · simp [h3]

@[simp] theorem find_put_self (m : FMap α) (k : Nat) (v : α) : find (put m k v) k = some v := by simp [find_put]

@[simp] theorem getD_put_self (m : FMap α) (k : Nat) (v d : α) : getD (put m k v) k d = v := by simp [getD]

theorem getD_put (m : FMap α) (k j : Nat) (v d : α) : getD (put m k v) j d = if k = j then v else getD m j d := by
  by_cases h : k = j <;> simp [getD, find_put, h]

theorem getD_put_ne (m : FMap α) {k j : Nat} (h : k ≠ j) (v d : α) : getD (put m k v) j d = getD m j d := by
  simp [getD_put, h]

/-- Every listed key lies above `b`. -/
def above (b : Nat) (m : FMap α) : Prop := ∀ e ∈ m, b < e.1

theorem sorted_cons (e : Nat × α) (r : FMap α) : sorted (e :: r) = true ↔ above e.1 r ∧ sorted r = true := by
  induction r generalizing e with
  | nil => simp [sorted, above]
  | cons f r ih =>
    obtain ⟨a, x⟩ := e
    obtain ⟨b, y⟩ := f
    simp only [sorted, Bool.and_eq_true, decide_eq_true_eq]
    constructor
    · rintro ⟨h, hs⟩
      refine ⟨?_, hs⟩
      intro g hg
      rcases List.mem_cons.1 hg with rfl | hg
      · exact h
      · exact lt_trans h (((ih (b, y)).1 hs).1 g hg)
    · rintro ⟨h, hs⟩
      exact ⟨h (b, y) (by simp), hs⟩

theorem above_put (b : Nat) (m : FMap α) (k : Nat) (v : α) (hk : b < k) (h : above b m) : above b (put m k v) := by
  induction m with
  | nil => simpa [put, above] using hk
  | cons e r ih =>
    obtain ⟨a, w⟩ := e
    have ha : b < a := h (a, w) (by simp)
    have hr : above b r := fun g hg => h g (by simp [hg])
    have := ih hr
    simp only [put]
    split_ifs <;> intro g hg <;> simp only [List.mem_cons] at hg
    · rcases hg with rfl | rfl | hg
      · exact hk
      · exact ha
      · exact hr g hg
    · rcases hg with rfl | hg
      · exact hk
      · exact hr g hg
    · rcases hg with rfl | hg
      · exact ha
      · exact this g hg

theorem sorted_put (m : FMap α) (k : Nat) (v : α) (h : sorted m = true) : sorted (put m k v) = true := by
  induction m with
  | nil => simp [put, sorted]
  | cons e r ih =>
    obtain ⟨a, w⟩ := e
    obtain ⟨ha, hr⟩ := (sorted_cons _ _).1 h
    simp only [put]
    split_ifs with h1 h2
    · rw [sorted_cons]
      refine ⟨?_, h⟩
      intro g hg
      rcases List.mem_cons.1 hg with rfl | hg
      · exact h1
      · exact lt_trans h1 (ha g hg)
    · subst h2
      exact (sorted_cons _ _).2 ⟨ha, hr⟩
    · exact (sorted_cons _ _).2 ⟨above_put _ _ _ _ (by omega) ha, ih hr⟩

theorem above_del (b : Nat) (m : FMap α) (k : Nat) (h : above b m) : above b (del m k) := by
  induction m with
  | nil => simpa [del] using h
  | cons e r ih =>
    obtain ⟨a, w⟩ := e
    have ha : b < a := h (a, w) (by simp)
    have hr : above b r := fun g hg => h g (by simp [hg])
    simp only [del]
    split_ifs
    · exact hr
    · exact h
    · intro g hg
      rcases List.mem_cons.1 hg with rfl | hg
      · exact ha
      · exact ih hr g hg

theorem sorted_del (m : FMap α) (k : Nat) (h : sorted m = true) : sorted (del m k) = true := by
  induction m with
  | nil => simpa [del] using h
  | cons e r ih =>
    obtain ⟨a, w⟩ := e
    obtain ⟨ha, hr⟩ := (sorted_cons _ _).1 h
    simp only [del]
    split_ifs
    · exact hr
    · exact h
    · exact (sorted_cons _ _).2 ⟨above_del _ _ _ ha, ih hr⟩

theorem find_above {b : Nat} {m : FMap α} (h : above b m) {j : Nat} (hj : j ≤ b) : find m j = none := by
  induction m with
  | nil => rfl
  | cons e r ih =>
    obtain ⟨a, w⟩ := e
    have ha : b < a := h (a, w) (by simp)
    have : a ≠ j := by omega
    simp [find, this, ih (fun g hg => h g (by simp [hg]))]

theorem find_del (m : FMap α) (k j : Nat) (h : sorted m = true) :
    find (del m k) j = if k = j then none else find m j := by
  induction m with
  | nil => simp [del, find]
  | cons e r ih =>
    obtain ⟨a, w⟩ := e
    obtain ⟨ha, hr⟩ := (sorted_cons _ _).1 h
    simp only [del]
    by_cases h1 : k = a
    · subst h1
      rw [if_pos rfl]
      by_cases h2 : k = j
      · subst h2; rw [if_pos rfl]; exact find_above ha le_rfl
      · simp [find, h2]
    · rw [if_neg h1]
      by_cases h3 : k < a
      · rw [if_pos h3]
        by_cases h2 : k = j
        · subst h2
          have : a ≠ k := by omega
          simp [find, this, find_above ha (by omega : k ≤ a)]
        · simp [h2]
      · rw [if_neg h3, find, ih hr, find]
        by_cases h2 : k = j
        · subst h2
          have : a ≠ k := by omega
          simp [this]
        · simp [h2]

theorem mem_del {m : FMap α} {k : Nat} {e : Nat × α} (h : e ∈ del m k) : e ∈ m := by
  induction m with
  | nil => simp [del] at h
  | cons f r ih =>
    obtain ⟨a, w⟩ := f
    simp only [del] at h
    split_ifs at h
    · exact List.mem_cons_of_mem _ h
    · exact h
    · rcases List.mem_cons.1 h with rfl | h
      · simp
      · exact List.mem_cons_of_mem _ (ih h)

theorem mem_put {m : FMap α} {k : Nat} {v : α} {e : Nat × α} (h : e ∈ put m k v) : e = (k, v) ∨ e ∈ m := by
  induction m with
  | nil => left; simpa [put] using h
  | cons f r ih =>
    obtain ⟨a, w⟩ := f
    simp only [put] at h
    split_ifs at h
    · rcases List.mem_cons.1 h with rfl | h
      · left; rfl
      · right; exact h
    · rcases List.mem_cons.1 h with rfl | h
      · left; rfl
      · right; exact List.mem_cons_of_mem _ h
    · rcases List.mem_cons.1 h with rfl | h
      · right; simp
      · rcases ih h with h | h
        · left; exact h
        · right; exact List.mem_cons_of_mem _ h

end FMap

namespace Machine

theorem Memory.wf_iff (m : Memory) : Memory.wf m = true ↔ FMap.sorted m = true ∧ ∀ c ∈ m, c.2 ≠ 0 := by
  simp [Memory.wf, List.all_eq_true]

@[simp] theorem Memory.wf_nil : Memory.wf [] = true := rfl

/-- A byte write keeps the canonical form. -/
theorem Memory.wf_put (m : Memory) (a : Nat) (v : Byte) (h : Memory.wf m = true) : Memory.wf (Memory.put m a v) = true := by
  rw [Memory.wf_iff] at h ⊢
  unfold Memory.put
  split_ifs with hv
  · exact ⟨FMap.sorted_del _ _ h.1, fun c hc => h.2 c (FMap.mem_del hc)⟩
  · refine ⟨FMap.sorted_put _ _ _ h.1, fun c hc => ?_⟩
    rcases FMap.mem_put hc with rfl | hc
    · exact hv
    · exact h.2 c hc

/-- A store keeps the canonical form. -/
theorem Memory.wf_store (bs : List Byte) (m : Memory) (a : Nat) (h : Memory.wf m = true) :
    Memory.wf (Memory.store m a bs) = true := by
  induction bs generalizing m a with
  | nil => exact h
  | cons b r ih => exact ih _ _ (Memory.wf_put _ _ _ h)

/-- A number's store keeps the canonical form. -/
theorem Memory.wf_setNum (m : Memory) (a n v : Nat) (h : Memory.wf m = true) : Memory.wf (Memory.setNum m a n v) = true :=
  Memory.wf_store _ _ _ h

/-- A memory from which entries are taken away is still in canonical form. -/
theorem Memory.wf_filter (m : Memory) (p : Host.Cell → Bool) (h : Memory.wf m = true) : Memory.wf (m.filter p) = true := by
  rw [Memory.wf_iff] at h ⊢
  refine ⟨?_, fun c hc => h.2 c (List.mem_filter.1 hc).1⟩
  have h1 := h.1
  clear h
  induction m with
  | nil => rfl
  | cons e r ih =>
    obtain ⟨ha, hr⟩ := (FMap.sorted_cons _ _).1 h1
    rw [List.filter_cons]
    split_ifs
    · exact (FMap.sorted_cons _ _).2 ⟨fun g hg => ha g (List.mem_filter.1 hg).1, ih hr⟩
    · exact ih hr

/-- A byte read after a byte write. -/
theorem Memory.get_put (m : Memory) (a b : Nat) (v : Byte) (h : Memory.wf m = true) :
    Memory.get (Memory.put m a v) b = if a = b then v else Memory.get m b := by
  rw [Memory.wf_iff] at h
  unfold Memory.put Memory.get FMap.getD
  split_ifs with hv hab hab <;> simp [FMap.find_del _ _ _ h.1, FMap.find_put, hab, hv]

/-- A byte read after a store. -/
theorem Memory.get_store (bs : List Byte) (m : Memory) (a b : Nat) (h : Memory.wf m = true) :
    Memory.get (Memory.store m a bs) b = if a ≤ b ∧ b < a + bs.length then bs.getD (b - a) 0 else Memory.get m b := by
  induction bs generalizing m a with
  | nil =>
    simp only [Memory.store, List.length_nil, Nat.add_zero]
    rw [if_neg (by omega)]
  | cons x r ih =>
    rw [Memory.store, ih _ _ (Memory.wf_put _ _ _ h), Memory.get_put _ _ _ _ h]
    by_cases hab : a = b
    · subst hab; simp
    · by_cases hlt : a + 1 ≤ b
      · have : b - a = (b - (a + 1)) + 1 := by omega
        have e : (a + 1 ≤ b ∧ b < a + 1 + r.length) ↔ (a ≤ b ∧ b < a + (x :: r).length) := by
          simp only [List.length_cons]; omega
        simp only [e, hab, if_false, this, List.getD_cons_succ]
      · have h1 : ¬ (a + 1 ≤ b ∧ b < a + 1 + r.length) := by omega
        have h2 : ¬ (a ≤ b ∧ b < a + (x :: r).length) := by simp only [List.length_cons]; omega
        rw [if_neg h1, if_neg h2, if_neg hab]

/-- A byte outside a store reads as before. -/
theorem Memory.get_store_outside (bs : List Byte) (m : Memory) (a b : Nat) (h : Memory.wf m = true)
    (hb : b < a ∨ a + bs.length ≤ b) : Memory.get (Memory.store m a bs) b = Memory.get m b := by
  rw [Memory.get_store _ _ _ _ h, if_neg (by omega)]

@[simp] theorem Memory.bytes_length (m : Memory) (n a : Nat) : (Memory.bytes m a n).length = n := by
  induction n generalizing a with
  | zero => rfl
  | succ n ih => simp [Memory.bytes, ih]

@[simp] theorem leBytes_length (n x : Nat) : (leBytes n x).length = n := by
  induction n generalizing x with
  | zero => rfl
  | succ n ih => simp [leBytes, ih]

theorem leValue_leBytes (n x : Nat) : leValue (leBytes n x) = x % 256 ^ n := by
  induction n generalizing x with
  | zero => simp [leBytes, leValue, Nat.mod_one]
  | succ n ih =>
    rw [leBytes, leValue, ih, BitVec.toNat_ofNat]
    show x % 256 + 256 * (x / 256 % 256 ^ n) = x % 256 ^ (n + 1)
    rw [Nat.pow_succ, Nat.mul_comm (256 ^ n) 256, Nat.mod_mul]

/-- The bytes of a store read back. -/
theorem Memory.bytes_store (bs : List Byte) (m : Memory) (a : Nat) (h : Memory.wf m = true) :
    Memory.bytes (Memory.store m a bs) a bs.length = bs := by
  have key : ∀ (n k : Nat), k + n = bs.length →
      Memory.bytes (Memory.store m a bs) (a + k) n = bs.drop k := by
    intro n
    induction n with
    | zero => intro k hk; simp [Memory.bytes, List.drop_eq_nil_of_le (by omega : bs.length ≤ k)]
    | succ n ih =>
      intro k hk
      have hlt : k < bs.length := by omega
      rw [Memory.bytes, Memory.get_store _ _ _ _ h, if_pos (by omega), Nat.add_assoc, ih (k + 1) (by omega),
        List.drop_eq_getElem_cons hlt]
      simp [List.getD, hlt]
  simpa using key bs.length 0 (by omega)

/-- A number stored reads back modulo its size (R2). -/
theorem Memory.num_setNum (m : Memory) (a n v : Nat) (h : Memory.wf m = true) :
    Memory.num (Memory.setNum m a n v) a n = v % 256 ^ n := by
  have := Memory.bytes_store (leBytes n v) m a h
  rw [leBytes_length] at this
  rw [Memory.num, Memory.setNum, this, leValue_leBytes]

/-! ## Sets of words -/

theorem risingSet_cons (a : Nat) (r : List Nat) : risingSet (a :: r) = true ↔ (∀ b ∈ r, a < b) ∧ risingSet r = true := by
  induction r generalizing a with
  | nil => simp [risingSet]
  | cons b r ih =>
    simp only [risingSet, Bool.and_eq_true, decide_eq_true_eq]
    constructor
    · rintro ⟨h, hs⟩
      refine ⟨?_, hs⟩
      intro c hc
      rcases List.mem_cons.1 hc with rfl | hc
      · exact h
      · exact lt_trans h (((ih b).1 hs).1 c hc)
    · rintro ⟨h, hs⟩
      exact ⟨h b (by simp), hs⟩

theorem mem_addSet {l : List Nat} {k c : Nat} (h : c ∈ addSet l k) : c = k ∨ c ∈ l := by
  induction l with
  | nil => left; simpa [addSet] using h
  | cons a r ih =>
    simp only [addSet] at h
    split_ifs at h with h1 h2
    · rcases List.mem_cons.1 h with h | h
      · left; exact h
      · right; exact h
    · right; exact h
    · rcases List.mem_cons.1 h with rfl | h
      · right; simp
      · rcases ih h with h | h
        · left; exact h
        · right; exact List.mem_cons_of_mem _ h

theorem mem_delSet {l : List Nat} {k c : Nat} (h : c ∈ delSet l k) : c ∈ l := by
  induction l with
  | nil => simp [delSet] at h
  | cons a r ih =>
    simp only [delSet] at h
    split_ifs at h
    · exact List.mem_cons_of_mem _ h
    · exact h
    · rcases List.mem_cons.1 h with rfl | h
      · simp
      · exact List.mem_cons_of_mem _ (ih h)

theorem risingSet_addSet (l : List Nat) (k : Nat) (h : risingSet l = true) : risingSet (addSet l k) = true := by
  induction l with
  | nil => rfl
  | cons a r ih =>
    obtain ⟨ha, hr⟩ := (risingSet_cons _ _).1 h
    simp only [addSet]
    split_ifs with h1 h2
    · refine (risingSet_cons _ _).2 ⟨?_, h⟩
      intro c hc
      rcases List.mem_cons.1 hc with rfl | hc
      · exact h1
      · exact lt_trans h1 (ha c hc)
    · exact h
    · refine (risingSet_cons _ _).2 ⟨?_, ih hr⟩
      intro c hc
      rcases mem_addSet hc with rfl | hc
      · omega
      · exact ha c hc

theorem risingSet_delSet (l : List Nat) (k : Nat) (h : risingSet l = true) : risingSet (delSet l k) = true := by
  induction l with
  | nil => rfl
  | cons a r ih =>
    obtain ⟨ha, hr⟩ := (risingSet_cons _ _).1 h
    simp only [delSet]
    split_ifs
    · exact hr
    · exact h
    · exact (risingSet_cons _ _).2 ⟨fun c hc => ha c (mem_delSet hc), ih hr⟩

/-- Filling and emptying a word keeps the set of full words in its canonical form. -/
theorem risingSet_putSet (l : List Nat) (k : Nat) (b : Bool) (h : risingSet l = true) : risingSet (putSet l k b) = true := by
  unfold putSet
  split_ifs
  · exact risingSet_addSet _ _ h
  · exact risingSet_delSet _ _ h

theorem risingSet_filter (l : List Nat) (p : Nat → Bool) (h : risingSet l = true) : risingSet (l.filter p) = true := by
  induction l with
  | nil => rfl
  | cons a r ih =>
    obtain ⟨ha, hr⟩ := (risingSet_cons _ _).1 h
    rw [List.filter_cons]
    split_ifs
    · exact (risingSet_cons _ _).2 ⟨fun c hc => ha c (List.mem_filter.1 hc).1, ih hr⟩
    · exact ih hr

theorem inSet_iff (l : List Nat) (k : Nat) : inSet l k = true ↔ k ∈ l := by
  induction l with
  | nil => simp [inSet]
  | cons a r ih =>
    by_cases h : a = k
    · simp [inSet, h]
    · have : ¬ k = a := fun e => h e.symm
      simp [inSet, h, ih, this]

/-- A word is full after it is filled, empty after it is emptied, and every other word is as before (R331). -/
theorem inSet_putSet (l : List Nat) (k j : Nat) (b : Bool) (h : risingSet l = true) :
    inSet (putSet l k b) j = if k = j then b else inSet l j := by
  induction l with
  | nil =>
    cases b <;> by_cases hk : k = j <;> simp [putSet, addSet, delSet, inSet, hk]
  | cons a r ih =>
    obtain ⟨ha, hr⟩ := (risingSet_cons _ _).1 h
    have ih := ih hr
    cases b
    · simp only [putSet, Bool.false_eq_true, if_false, delSet] at ih ⊢
      split_ifs with h1 h2 h3 h4 h5
      · subst h1 h2
        rw [Bool.eq_false_iff, ne_eq, inSet_iff]
        intro hm; exact absurd (ha _ hm) (lt_irrefl _)
      · subst h1; simp [inSet, h2]
      · subst h4
        have hk : a ≠ k := h1
        rw [Bool.eq_false_iff, ne_eq, inSet_iff]
        intro hm
        rcases List.mem_cons.1 hm with rfl | hm
        · omega
        · have := ha _ hm; omega
      · rfl
      · subst h5
        simp only [inSet, if_neg h1]
        rw [ih]; simp
      · simp only [inSet]
        split_ifs
        · rfl
        · rw [ih, if_neg h5]
    · simp only [putSet, if_true, addSet] at ih ⊢
      by_cases h1 : k < a
      · rw [if_pos h1]; simp only [inSet]
      · rw [if_neg h1]
        by_cases h2 : k = a
        · subst h2; simp only [if_true, inSet]
          by_cases h3 : k = j <;> simp [h3]
        · simp only [if_neg h2, inSet, ih]
          by_cases h3 : a = j
          · subst h3; simp [h2]
          · simp [h3]

end Machine
end Sys2Proof
end

