-- ==== Sys2Proof/Laws/Crypto.lean ====
section
/-!
SUPPORT. Crypto: lengths of what AES-256 and its modes give (R398, R403), and the bytes of a number that bytes spell.
-/
namespace Sys2Proof.Machine
open Sys2Proof

theorem leBytes_leValue (l : List Byte) : leBytes l.length (leValue l) = l := by
  induction l with
  | nil => rfl
  | cons b r ih =>
    have h := b.isLt
    have e : (b.toNat + 256 * leValue r) / 256 = leValue r := by omega
    rw [List.length_cons, leValue, leBytes, e, ih]
    congr 1
    apply BitVec.eq_of_toNat_eq
    rw [BitVec.toNat_ofNat]; omega

/-- A key schedule keeps its words of 4 bytes and gains `n` of them. -/
theorem aesExpand_words (n : Nat) : ∀ (ws : List (List Nat)) (i rc : Nat), 8 ≤ i → i = ws.length → (∀ w ∈ ws, w.length = 4) →
    (aesExpand ws i rc n).length = i + n ∧ ∀ w ∈ aesExpand ws i rc n, w.length = 4 := by
  induction n with
  | zero => intro ws i rc _ h hw; exact ⟨by simp [aesExpand, h], by simpa [aesExpand] using hw⟩
  | succ n ih =>
    intro ws i rc h8 h hw
    have word (k : Nat) (hk : k < ws.length) : (ws.getD k []).length = 4 := by
      rw [List.getD_eq_getElem _ _ hk]; exact hw _ (List.getElem_mem hk)
    have hp := word (i - 1) (by omega)
    have hq := word (i - 8) (by omega)
    have key (t : List Nat) (ht : t.length = 4) (rc' : Nat) :=
      ih (ws ++ [List.zipWith (· ^^^ ·) (ws.getD (i - 8) []) t]) (i + 1) rc' (by omega) (by simp [h]) (by
        intro w hm
        rcases List.mem_append.1 hm with hm | hm
        · exact hw w hm
        · rw [List.mem_singleton.1 hm, List.length_zipWith, ht, hq]; rfl)
    have e : i + 1 + n = i + (n + 1) := by omega
    rw [aesExpand, ← e]
    refine key _ ?_ _
    generalize ws.getD (i - 1) [] = p at hp
    split
    · match p, hp with
      | a :: r, hp => simp at hp ⊢; omega
    · split
      · simpa using hp
      · exact hp

theorem flatten_words_length (l : List (List Nat)) (h : ∀ w ∈ l, w.length = 4) : l.flatten.length = 4 * l.length := by
  induction l with
  | nil => rfl
  | cons a r ih =>
    rw [List.flatten_cons, List.length_append, ih fun w hw => h w (.tail _ hw), h a (.head _), List.length_cons]; omega

/-- Every round key has 16 bytes. -/
theorem aesKeys_round (k : BitVec 256) (r : Nat) (h : r < 15) : ((aesKeys k).getD r []).length = 16 := by
  obtain ⟨hn, hw⟩ := aesExpand_words 52 ((List.range 8).map fun i => (((leBytes 32 k.toNat).map (·.toNat)).drop (4 * i)).take 4) 8 1
    (by decide) (by simp) (by
      intro w hm
      obtain ⟨i, hi, rfl⟩ := List.mem_map.1 hm
      have := List.mem_range.1 hi
      simp; omega)
  rw [aesKeys, List.getD_eq_getElem _ _ (by simpa using h)]
  simp only [List.getElem_map, List.getElem_range]
  rw [flatten_words_length _ fun w hm => hw w (List.mem_of_mem_drop (List.mem_of_mem_take hm)), List.length_take, List.length_drop, hn]
  omega

/-- AES gives a block of 16 bytes. -/
@[simp] theorem aesBlock_length (key blk : List Byte) : (aesBlock key blk).length = 16 := by
  have h := aesKeys_round (BitVec.ofNat 256 (leValue key)) 14 (by decide)
  rw [List.getD_eq_getElem?_getD] at h
  simp [aesBlock, aesEnc, xorBytes, aesShift, h]

/-- A tag of AES-256-GCM has 16 bytes. -/
@[simp] theorem gcmTag_length (key nonce aad ct : List Byte) : (gcmTag key nonce aad ct).length = 16 := by
  simp [gcmTag, xor8, beBytes]

/-- A list of n bytes is the bytes of a word of 8n bits. -/
theorem leBytes_ofNat (n : Nat) (l : List Byte) (h : l.length = n) : leBytes n (BitVec.ofNat (8 * n) (leValue l)).toNat = l := by
  subst h
  have e := leBytes_leValue l
  have lt : leValue l < 2 ^ (8 * l.length) := by
    rw [← e, leValue_leBytes, e, Nat.pow_mul]
    exact Nat.mod_lt _ (Nat.pow_pos (by norm_num))
  rw [BitVec.toNat_ofNat, Nat.mod_eq_of_lt lt, e]

/-- The tag of a secured record is the one that its sender computes. -/
theorem sessionSeal_tag (ch : Nat) (id secret : List Byte) (seq : Nat) (m : List Byte) :
    (sessionSeal ch id secret seq m).2 = leBytes 16 (BitVec.ofNat 128 (leValue (sessionSeal ch id secret seq m).2)).toNat :=
  (leBytes_ofNat 16 _ (by simp [sessionSeal])).symm

end Sys2Proof.Machine
end

