-- ==== Sys2Proof/Laws/Decode.lean ====
section
/-!
SUPPORT. Laws of the slot-word fields: reading back each field that the encoder writes, and each layout of Table 05-1.
-/
set_option linter.unusedSimpArgs false
namespace Sys2Proof

/-! ## Fields -/

theorem Pred.of4_to4 {p : Pred} (h : p.wf = true) : Pred.of4 p.to4 = p := by
  cases p with
  | always => rfl
  | onSet n => revert n; decide
  | onClear n => revert n; decide
@[simp] theorem Dst.of6_to6 (d : Dst) : Dst.of6 d.to6 = d := by
  obtain ⟨l, n⟩ := d
  revert l n; decide
@[simp] theorem Src.of6_to6 (s : Src) : Src.of6 s.to6 = some s := by
  cases s with
  | reg n => revert n; decide
  | latch n => revert n; decide
@[simp] theorem Ty.of4_to4 (t : Ty) : Ty.of4 t.to4 = t := by cases t <;> rfl
@[simp] theorem Rm.of3_to3 (r : Rm) : Rm.of3 r.to3 = some r := by cases r <;> rfl
@[simp] theorem Form.of3_to3 (f : Form) : Form.of3 f.to3 = some f := by cases f <;> rfl
@[simp] theorem Size.of2_to2 (s : Size) : Size.of2 s.to2 = s := by cases s <;> rfl
@[simp] theorem CReg.of6_to6 (c : CReg) : CReg.of6 c.to6 = some c := by cases c <;> rfl

/-! ## Joined fields, by their widths from the top -/

theorem cat_toNat {m n : Nat} (x : BitVec m) (y : BitVec n) : (x ++ y).toNat = x.toNat * 2 ^ n + y.toNat := by
  rw [BitVec.toNat_append, ← Nat.shiftLeft_add_eq_or_of_lt y.isLt, Nat.shiftLeft_eq]

@[simp] theorem split_4_3_5_f0 (x0 : BitVec 4) (x1 : BitVec 3) (x2 : BitVec 5) : BitVec.extractLsb' 8 4 (x0 ++ x1 ++ x2 : BitVec 12) = x0 := by
  apply BitVec.eq_of_toNat_eq
  have h0 := x0.isLt
  have h1 := x1.isLt
  have h2 := x2.isLt
  rw [BitVec.extractLsb'_toNat, Nat.shiftRight_eq_div_pow, cat_toNat, cat_toNat]
  omega
@[simp] theorem split_4_3_5_f1 (x0 : BitVec 4) (x1 : BitVec 3) (x2 : BitVec 5) : BitVec.extractLsb' 5 3 (x0 ++ x1 ++ x2 : BitVec 12) = x1 := by
  apply BitVec.eq_of_toNat_eq
  have h0 := x0.isLt
  have h1 := x1.isLt
  have h2 := x2.isLt
  rw [BitVec.extractLsb'_toNat, Nat.shiftRight_eq_div_pow, cat_toNat, cat_toNat]
  omega
@[simp] theorem split_4_3_5_f2 (x0 : BitVec 4) (x1 : BitVec 3) (x2 : BitVec 5) : BitVec.extractLsb' 0 5 (x0 ++ x1 ++ x2 : BitVec 12) = x2 := by
  apply BitVec.eq_of_toNat_eq
  have h0 := x0.isLt
  have h1 := x1.isLt
  have h2 := x2.isLt
  rw [BitVec.extractLsb'_toNat, Nat.shiftRight_eq_div_pow, cat_toNat, cat_toNat]
  omega
@[simp] theorem split_6_6_f0 (x0 : BitVec 6) (x1 : BitVec 6) : BitVec.extractLsb' 6 6 (x0 ++ x1 : BitVec 12) = x0 := by
  apply BitVec.eq_of_toNat_eq
  have h0 := x0.isLt
  have h1 := x1.isLt
  rw [BitVec.extractLsb'_toNat, Nat.shiftRight_eq_div_pow, cat_toNat]
  omega
@[simp] theorem split_6_6_f1 (x0 : BitVec 6) (x1 : BitVec 6) : BitVec.extractLsb' 0 6 (x0 ++ x1 : BitVec 12) = x1 := by
  apply BitVec.eq_of_toNat_eq
  have h0 := x0.isLt
  have h1 := x1.isLt
  rw [BitVec.extractLsb'_toNat, Nat.shiftRight_eq_div_pow, cat_toNat]
  omega
@[simp] theorem split_4_3_1_4_f0 (x0 : BitVec 4) (x1 : BitVec 3) (x2 : BitVec 1) (x3 : BitVec 4) : BitVec.extractLsb' 8 4 (x0 ++ x1 ++ x2 ++ x3 : BitVec 12) = x0 := by
  apply BitVec.eq_of_toNat_eq
  have h0 := x0.isLt
  have h1 := x1.isLt
  have h2 := x2.isLt
  have h3 := x3.isLt
  rw [BitVec.extractLsb'_toNat, Nat.shiftRight_eq_div_pow, cat_toNat, cat_toNat, cat_toNat]
  omega
@[simp] theorem split_4_3_1_4_f1 (x0 : BitVec 4) (x1 : BitVec 3) (x2 : BitVec 1) (x3 : BitVec 4) : BitVec.extractLsb' 5 3 (x0 ++ x1 ++ x2 ++ x3 : BitVec 12) = x1 := by
  apply BitVec.eq_of_toNat_eq
  have h0 := x0.isLt
  have h1 := x1.isLt
  have h2 := x2.isLt
  have h3 := x3.isLt
  rw [BitVec.extractLsb'_toNat, Nat.shiftRight_eq_div_pow, cat_toNat, cat_toNat, cat_toNat]
  omega
@[simp] theorem split_4_3_1_4_f2 (x0 : BitVec 4) (x1 : BitVec 3) (x2 : BitVec 1) (x3 : BitVec 4) : BitVec.extractLsb' 4 1 (x0 ++ x1 ++ x2 ++ x3 : BitVec 12) = x2 := by
  apply BitVec.eq_of_toNat_eq
  have h0 := x0.isLt
  have h1 := x1.isLt
  have h2 := x2.isLt
  have h3 := x3.isLt
  rw [BitVec.extractLsb'_toNat, Nat.shiftRight_eq_div_pow, cat_toNat, cat_toNat, cat_toNat]
  omega
@[simp] theorem split_4_3_1_4_b2 (x0 : BitVec 4) (x1 : BitVec 3) (x2 : Bool) (x3 : BitVec 4) : (x0 ++ x1 ++ BitVec.ofBool x2 ++ x3 : BitVec 12)[4] = x2 := by
  have h0 := x0.isLt
  have h1 := x1.isLt
  have h3 := x3.isLt
  have h : (x0 ++ x1 ++ BitVec.ofBool x2 ++ x3 : BitVec 12).toNat / 2 ^ 4 % 2 = x2.toNat := by
    rw [cat_toNat, cat_toNat, cat_toNat, BitVec.toNat_ofBool]
    cases x2 <;> simp only [Bool.toNat, cond] <;> omega
  rw [BitVec.getElem_eq_testBit_toNat, Nat.testBit_eq_decide_div_mod_eq, h]
  cases x2 <;> rfl
@[simp] theorem split_4_3_1_4_f3 (x0 : BitVec 4) (x1 : BitVec 3) (x2 : BitVec 1) (x3 : BitVec 4) : BitVec.extractLsb' 0 4 (x0 ++ x1 ++ x2 ++ x3 : BitVec 12) = x3 := by
  apply BitVec.eq_of_toNat_eq
  have h0 := x0.isLt
  have h1 := x1.isLt
  have h2 := x2.isLt
  have h3 := x3.isLt
  rw [BitVec.extractLsb'_toNat, Nat.shiftRight_eq_div_pow, cat_toNat, cat_toNat, cat_toNat]
  omega
@[simp] theorem split_7_5_f0 (x0 : BitVec 7) (x1 : BitVec 5) : BitVec.extractLsb' 5 7 (x0 ++ x1 : BitVec 12) = x0 := by
  apply BitVec.eq_of_toNat_eq
  have h0 := x0.isLt
  have h1 := x1.isLt
  rw [BitVec.extractLsb'_toNat, Nat.shiftRight_eq_div_pow, cat_toNat]
  omega
@[simp] theorem split_7_5_f1 (x0 : BitVec 7) (x1 : BitVec 5) : BitVec.extractLsb' 0 5 (x0 ++ x1 : BitVec 12) = x1 := by
  apply BitVec.eq_of_toNat_eq
  have h0 := x0.isLt
  have h1 := x1.isLt
  rw [BitVec.extractLsb'_toNat, Nat.shiftRight_eq_div_pow, cat_toNat]
  omega
@[simp] theorem split_9_3_f0 (x0 : BitVec 9) (x1 : BitVec 3) : BitVec.extractLsb' 3 9 (x0 ++ x1 : BitVec 12) = x0 := by
  apply BitVec.eq_of_toNat_eq
  have h0 := x0.isLt
  have h1 := x1.isLt
  rw [BitVec.extractLsb'_toNat, Nat.shiftRight_eq_div_pow, cat_toNat]
  omega
@[simp] theorem split_9_3_f1 (x0 : BitVec 9) (x1 : BitVec 3) : BitVec.extractLsb' 0 3 (x0 ++ x1 : BitVec 12) = x1 := by
  apply BitVec.eq_of_toNat_eq
  have h0 := x0.isLt
  have h1 := x1.isLt
  rw [BitVec.extractLsb'_toNat, Nat.shiftRight_eq_div_pow, cat_toNat]
  omega
@[simp] theorem split_4_8_f0 (x0 : BitVec 4) (x1 : BitVec 8) : BitVec.extractLsb' 8 4 (x0 ++ x1 : BitVec 12) = x0 := by
  apply BitVec.eq_of_toNat_eq
  have h0 := x0.isLt
  have h1 := x1.isLt
  rw [BitVec.extractLsb'_toNat, Nat.shiftRight_eq_div_pow, cat_toNat]
  omega
@[simp] theorem split_4_8_f1 (x0 : BitVec 4) (x1 : BitVec 8) : BitVec.extractLsb' 0 8 (x0 ++ x1 : BitVec 12) = x1 := by
  apply BitVec.eq_of_toNat_eq
  have h0 := x0.isLt
  have h1 := x1.isLt
  rw [BitVec.extractLsb'_toNat, Nat.shiftRight_eq_div_pow, cat_toNat]
  omega
@[simp] theorem split_4_3_4_1_f0 (x0 : BitVec 4) (x1 : BitVec 3) (x2 : BitVec 4) (x3 : BitVec 1) : BitVec.extractLsb' 8 4 (x0 ++ x1 ++ x2 ++ x3 : BitVec 12) = x0 := by
  apply BitVec.eq_of_toNat_eq
  have h0 := x0.isLt
  have h1 := x1.isLt
  have h2 := x2.isLt
  have h3 := x3.isLt
  rw [BitVec.extractLsb'_toNat, Nat.shiftRight_eq_div_pow, cat_toNat, cat_toNat, cat_toNat]
  omega
@[simp] theorem split_4_3_4_1_f1 (x0 : BitVec 4) (x1 : BitVec 3) (x2 : BitVec 4) (x3 : BitVec 1) : BitVec.extractLsb' 5 3 (x0 ++ x1 ++ x2 ++ x3 : BitVec 12) = x1 := by
  apply BitVec.eq_of_toNat_eq
  have h0 := x0.isLt
  have h1 := x1.isLt
  have h2 := x2.isLt
  have h3 := x3.isLt
  rw [BitVec.extractLsb'_toNat, Nat.shiftRight_eq_div_pow, cat_toNat, cat_toNat, cat_toNat]
  omega
@[simp] theorem split_4_3_4_1_f2 (x0 : BitVec 4) (x1 : BitVec 3) (x2 : BitVec 4) (x3 : BitVec 1) : BitVec.extractLsb' 1 4 (x0 ++ x1 ++ x2 ++ x3 : BitVec 12) = x2 := by
  apply BitVec.eq_of_toNat_eq
  have h0 := x0.isLt
  have h1 := x1.isLt
  have h2 := x2.isLt
  have h3 := x3.isLt
  rw [BitVec.extractLsb'_toNat, Nat.shiftRight_eq_div_pow, cat_toNat, cat_toNat, cat_toNat]
  omega
@[simp] theorem split_4_3_4_1_f3 (x0 : BitVec 4) (x1 : BitVec 3) (x2 : BitVec 4) (x3 : BitVec 1) : BitVec.extractLsb' 0 1 (x0 ++ x1 ++ x2 ++ x3 : BitVec 12) = x3 := by
  apply BitVec.eq_of_toNat_eq
  have h0 := x0.isLt
  have h1 := x1.isLt
  have h2 := x2.isLt
  have h3 := x3.isLt
  rw [BitVec.extractLsb'_toNat, Nat.shiftRight_eq_div_pow, cat_toNat, cat_toNat, cat_toNat]
  omega
@[simp] theorem split_4_3_4_1_b3 (x0 : BitVec 4) (x1 : BitVec 3) (x2 : BitVec 4) (x3 : Bool) : (x0 ++ x1 ++ x2 ++ BitVec.ofBool x3 : BitVec 12)[0] = x3 := by
  have h0 := x0.isLt
  have h1 := x1.isLt
  have h2 := x2.isLt
  have h : (x0 ++ x1 ++ x2 ++ BitVec.ofBool x3 : BitVec 12).toNat / 2 ^ 0 % 2 = x3.toNat := by
    rw [cat_toNat, cat_toNat, cat_toNat, BitVec.toNat_ofBool]
    cases x3 <;> simp only [Bool.toNat, cond] <;> omega
  rw [BitVec.getElem_eq_testBit_toNat, Nat.testBit_eq_decide_div_mod_eq, h]
  cases x3 <;> rfl
@[simp] theorem split_4_1_7_f0 (x0 : BitVec 4) (x1 : BitVec 1) (x2 : BitVec 7) : BitVec.extractLsb' 8 4 (x0 ++ x1 ++ x2 : BitVec 12) = x0 := by
  apply BitVec.eq_of_toNat_eq
  have h0 := x0.isLt
  have h1 := x1.isLt
  have h2 := x2.isLt
  rw [BitVec.extractLsb'_toNat, Nat.shiftRight_eq_div_pow, cat_toNat, cat_toNat]
  omega
@[simp] theorem split_4_1_7_f1 (x0 : BitVec 4) (x1 : BitVec 1) (x2 : BitVec 7) : BitVec.extractLsb' 7 1 (x0 ++ x1 ++ x2 : BitVec 12) = x1 := by
  apply BitVec.eq_of_toNat_eq
  have h0 := x0.isLt
  have h1 := x1.isLt
  have h2 := x2.isLt
  rw [BitVec.extractLsb'_toNat, Nat.shiftRight_eq_div_pow, cat_toNat, cat_toNat]
  omega
@[simp] theorem split_4_1_7_b1 (x0 : BitVec 4) (x1 : Bool) (x2 : BitVec 7) : (x0 ++ BitVec.ofBool x1 ++ x2 : BitVec 12)[7] = x1 := by
  have h0 := x0.isLt
  have h2 := x2.isLt
  have h : (x0 ++ BitVec.ofBool x1 ++ x2 : BitVec 12).toNat / 2 ^ 7 % 2 = x1.toNat := by
    rw [cat_toNat, cat_toNat, BitVec.toNat_ofBool]
    cases x1 <;> simp only [Bool.toNat, cond] <;> omega
  rw [BitVec.getElem_eq_testBit_toNat, Nat.testBit_eq_decide_div_mod_eq, h]
  cases x1 <;> rfl
@[simp] theorem split_4_1_7_f2 (x0 : BitVec 4) (x1 : BitVec 1) (x2 : BitVec 7) : BitVec.extractLsb' 0 7 (x0 ++ x1 ++ x2 : BitVec 12) = x2 := by
  apply BitVec.eq_of_toNat_eq
  have h0 := x0.isLt
  have h1 := x1.isLt
  have h2 := x2.isLt
  rw [BitVec.extractLsb'_toNat, Nat.shiftRight_eq_div_pow, cat_toNat, cat_toNat]
  omega
@[simp] theorem split_4_1_1_6_f0 (x0 : BitVec 4) (x1 : BitVec 1) (x2 : BitVec 1) (x3 : BitVec 6) : BitVec.extractLsb' 8 4 (x0 ++ x1 ++ x2 ++ x3 : BitVec 12) = x0 := by
  apply BitVec.eq_of_toNat_eq
  have h0 := x0.isLt
  have h1 := x1.isLt
  have h2 := x2.isLt
  have h3 := x3.isLt
  rw [BitVec.extractLsb'_toNat, Nat.shiftRight_eq_div_pow, cat_toNat, cat_toNat, cat_toNat]
  omega
@[simp] theorem split_4_1_1_6_f1 (x0 : BitVec 4) (x1 : BitVec 1) (x2 : BitVec 1) (x3 : BitVec 6) : BitVec.extractLsb' 7 1 (x0 ++ x1 ++ x2 ++ x3 : BitVec 12) = x1 := by
  apply BitVec.eq_of_toNat_eq
  have h0 := x0.isLt
  have h1 := x1.isLt
  have h2 := x2.isLt
  have h3 := x3.isLt
  rw [BitVec.extractLsb'_toNat, Nat.shiftRight_eq_div_pow, cat_toNat, cat_toNat, cat_toNat]
  omega
@[simp] theorem split_4_1_1_6_b1 (x0 : BitVec 4) (x1 : Bool) (x2 : BitVec 1) (x3 : BitVec 6) : (x0 ++ BitVec.ofBool x1 ++ x2 ++ x3 : BitVec 12)[7] = x1 := by
  have h0 := x0.isLt
  have h2 := x2.isLt
  have h3 := x3.isLt
  have h : (x0 ++ BitVec.ofBool x1 ++ x2 ++ x3 : BitVec 12).toNat / 2 ^ 7 % 2 = x1.toNat := by
    rw [cat_toNat, cat_toNat, cat_toNat, BitVec.toNat_ofBool]
    cases x1 <;> simp only [Bool.toNat, cond] <;> omega
  rw [BitVec.getElem_eq_testBit_toNat, Nat.testBit_eq_decide_div_mod_eq, h]
  cases x1 <;> rfl
@[simp] theorem split_4_1_1_6_f2 (x0 : BitVec 4) (x1 : BitVec 1) (x2 : BitVec 1) (x3 : BitVec 6) : BitVec.extractLsb' 6 1 (x0 ++ x1 ++ x2 ++ x3 : BitVec 12) = x2 := by
  apply BitVec.eq_of_toNat_eq
  have h0 := x0.isLt
  have h1 := x1.isLt
  have h2 := x2.isLt
  have h3 := x3.isLt
  rw [BitVec.extractLsb'_toNat, Nat.shiftRight_eq_div_pow, cat_toNat, cat_toNat, cat_toNat]
  omega
@[simp] theorem split_4_1_1_6_b2 (x0 : BitVec 4) (x1 : BitVec 1) (x2 : Bool) (x3 : BitVec 6) : (x0 ++ x1 ++ BitVec.ofBool x2 ++ x3 : BitVec 12)[6] = x2 := by
  have h0 := x0.isLt
  have h1 := x1.isLt
  have h3 := x3.isLt
  have h : (x0 ++ x1 ++ BitVec.ofBool x2 ++ x3 : BitVec 12).toNat / 2 ^ 6 % 2 = x2.toNat := by
    rw [cat_toNat, cat_toNat, cat_toNat, BitVec.toNat_ofBool]
    cases x2 <;> simp only [Bool.toNat, cond] <;> omega
  rw [BitVec.getElem_eq_testBit_toNat, Nat.testBit_eq_decide_div_mod_eq, h]
  cases x2 <;> rfl
@[simp] theorem split_4_1_1_6_f3 (x0 : BitVec 4) (x1 : BitVec 1) (x2 : BitVec 1) (x3 : BitVec 6) : BitVec.extractLsb' 0 6 (x0 ++ x1 ++ x2 ++ x3 : BitVec 12) = x3 := by
  apply BitVec.eq_of_toNat_eq
  have h0 := x0.isLt
  have h1 := x1.isLt
  have h2 := x2.isLt
  have h3 := x3.isLt
  rw [BitVec.extractLsb'_toNat, Nat.shiftRight_eq_div_pow, cat_toNat, cat_toNat, cat_toNat]
  omega
@[simp] theorem split_5_1_6_f0 (x0 : BitVec 5) (x1 : BitVec 1) (x2 : BitVec 6) : BitVec.extractLsb' 7 5 (x0 ++ x1 ++ x2 : BitVec 12) = x0 := by
  apply BitVec.eq_of_toNat_eq
  have h0 := x0.isLt
  have h1 := x1.isLt
  have h2 := x2.isLt
  rw [BitVec.extractLsb'_toNat, Nat.shiftRight_eq_div_pow, cat_toNat, cat_toNat]
  omega
@[simp] theorem split_5_1_6_f1 (x0 : BitVec 5) (x1 : BitVec 1) (x2 : BitVec 6) : BitVec.extractLsb' 6 1 (x0 ++ x1 ++ x2 : BitVec 12) = x1 := by
  apply BitVec.eq_of_toNat_eq
  have h0 := x0.isLt
  have h1 := x1.isLt
  have h2 := x2.isLt
  rw [BitVec.extractLsb'_toNat, Nat.shiftRight_eq_div_pow, cat_toNat, cat_toNat]
  omega
@[simp] theorem split_5_1_6_b1 (x0 : BitVec 5) (x1 : Bool) (x2 : BitVec 6) : (x0 ++ BitVec.ofBool x1 ++ x2 : BitVec 12)[6] = x1 := by
  have h0 := x0.isLt
  have h2 := x2.isLt
  have h : (x0 ++ BitVec.ofBool x1 ++ x2 : BitVec 12).toNat / 2 ^ 6 % 2 = x1.toNat := by
    rw [cat_toNat, cat_toNat, BitVec.toNat_ofBool]
    cases x1 <;> simp only [Bool.toNat, cond] <;> omega
  rw [BitVec.getElem_eq_testBit_toNat, Nat.testBit_eq_decide_div_mod_eq, h]
  cases x1 <;> rfl
@[simp] theorem split_5_1_6_f2 (x0 : BitVec 5) (x1 : BitVec 1) (x2 : BitVec 6) : BitVec.extractLsb' 0 6 (x0 ++ x1 ++ x2 : BitVec 12) = x2 := by
  apply BitVec.eq_of_toNat_eq
  have h0 := x0.isLt
  have h1 := x1.isLt
  have h2 := x2.isLt
  rw [BitVec.extractLsb'_toNat, Nat.shiftRight_eq_div_pow, cat_toNat, cat_toNat]
  omega
@[simp] theorem split_11_1_f0 (x0 : BitVec 11) (x1 : BitVec 1) : BitVec.extractLsb' 1 11 (x0 ++ x1 : BitVec 12) = x0 := by
  apply BitVec.eq_of_toNat_eq
  have h0 := x0.isLt
  have h1 := x1.isLt
  rw [BitVec.extractLsb'_toNat, Nat.shiftRight_eq_div_pow, cat_toNat]
  omega
@[simp] theorem split_11_1_f1 (x0 : BitVec 11) (x1 : BitVec 1) : BitVec.extractLsb' 0 1 (x0 ++ x1 : BitVec 12) = x1 := by
  apply BitVec.eq_of_toNat_eq
  have h0 := x0.isLt
  have h1 := x1.isLt
  rw [BitVec.extractLsb'_toNat, Nat.shiftRight_eq_div_pow, cat_toNat]
  omega
@[simp] theorem split_11_1_b1 (x0 : BitVec 11) (x1 : Bool) : (x0 ++ BitVec.ofBool x1 : BitVec 12)[0] = x1 := by
  have h0 := x0.isLt
  have h : (x0 ++ BitVec.ofBool x1 : BitVec 12).toNat / 2 ^ 0 % 2 = x1.toNat := by
    rw [cat_toNat, BitVec.toNat_ofBool]
    cases x1 <;> simp only [Bool.toNat, cond] <;> omega
  rw [BitVec.getElem_eq_testBit_toNat, Nat.testBit_eq_decide_div_mod_eq, h]
  cases x1 <;> rfl
@[simp] theorem split_3_3_f0 (x0 : BitVec 3) (x1 : BitVec 3) : BitVec.extractLsb' 3 3 (x0 ++ x1 : BitVec 6) = x0 := by
  apply BitVec.eq_of_toNat_eq
  have h0 := x0.isLt
  have h1 := x1.isLt
  rw [BitVec.extractLsb'_toNat, Nat.shiftRight_eq_div_pow, cat_toNat]
  omega
@[simp] theorem split_3_3_f1 (x0 : BitVec 3) (x1 : BitVec 3) : BitVec.extractLsb' 0 3 (x0 ++ x1 : BitVec 6) = x1 := by
  apply BitVec.eq_of_toNat_eq
  have h0 := x0.isLt
  have h1 := x1.isLt
  rw [BitVec.extractLsb'_toNat, Nat.shiftRight_eq_div_pow, cat_toNat]
  omega
@[simp] theorem split_3_1_2_f0 (x0 : BitVec 3) (x1 : BitVec 1) (x2 : BitVec 2) : BitVec.extractLsb' 3 3 (x0 ++ x1 ++ x2 : BitVec 6) = x0 := by
  apply BitVec.eq_of_toNat_eq
  have h0 := x0.isLt
  have h1 := x1.isLt
  have h2 := x2.isLt
  rw [BitVec.extractLsb'_toNat, Nat.shiftRight_eq_div_pow, cat_toNat, cat_toNat]
  omega
@[simp] theorem split_3_1_2_f1 (x0 : BitVec 3) (x1 : BitVec 1) (x2 : BitVec 2) : BitVec.extractLsb' 2 1 (x0 ++ x1 ++ x2 : BitVec 6) = x1 := by
  apply BitVec.eq_of_toNat_eq
  have h0 := x0.isLt
  have h1 := x1.isLt
  have h2 := x2.isLt
  rw [BitVec.extractLsb'_toNat, Nat.shiftRight_eq_div_pow, cat_toNat, cat_toNat]
  omega
@[simp] theorem split_3_1_2_b1 (x0 : BitVec 3) (x1 : Bool) (x2 : BitVec 2) : (x0 ++ BitVec.ofBool x1 ++ x2 : BitVec 6)[2] = x1 := by
  have h0 := x0.isLt
  have h2 := x2.isLt
  have h : (x0 ++ BitVec.ofBool x1 ++ x2 : BitVec 6).toNat / 2 ^ 2 % 2 = x1.toNat := by
    rw [cat_toNat, cat_toNat, BitVec.toNat_ofBool]
    cases x1 <;> simp only [Bool.toNat, cond] <;> omega
  rw [BitVec.getElem_eq_testBit_toNat, Nat.testBit_eq_decide_div_mod_eq, h]
  cases x1 <;> rfl
@[simp] theorem split_3_1_2_f2 (x0 : BitVec 3) (x1 : BitVec 1) (x2 : BitVec 2) : BitVec.extractLsb' 0 2 (x0 ++ x1 ++ x2 : BitVec 6) = x2 := by
  apply BitVec.eq_of_toNat_eq
  have h0 := x0.isLt
  have h1 := x1.isLt
  have h2 := x2.isLt
  rw [BitVec.extractLsb'_toNat, Nat.shiftRight_eq_div_pow, cat_toNat, cat_toNat]
  omega
@[simp] theorem split_4_2_f0 (x0 : BitVec 4) (x1 : BitVec 2) : BitVec.extractLsb' 2 4 (x0 ++ x1 : BitVec 6) = x0 := by
  apply BitVec.eq_of_toNat_eq
  have h0 := x0.isLt
  have h1 := x1.isLt
  rw [BitVec.extractLsb'_toNat, Nat.shiftRight_eq_div_pow, cat_toNat]
  omega
@[simp] theorem split_4_2_f1 (x0 : BitVec 4) (x1 : BitVec 2) : BitVec.extractLsb' 0 2 (x0 ++ x1 : BitVec 6) = x1 := by
  apply BitVec.eq_of_toNat_eq
  have h0 := x0.isLt
  have h1 := x1.isLt
  rw [BitVec.extractLsb'_toNat, Nat.shiftRight_eq_div_pow, cat_toNat]
  omega
@[simp] theorem split_2_4_f0 (x0 : BitVec 2) (x1 : BitVec 4) : BitVec.extractLsb' 4 2 (x0 ++ x1 : BitVec 6) = x0 := by
  apply BitVec.eq_of_toNat_eq
  have h0 := x0.isLt
  have h1 := x1.isLt
  rw [BitVec.extractLsb'_toNat, Nat.shiftRight_eq_div_pow, cat_toNat]
  omega
@[simp] theorem split_2_4_f1 (x0 : BitVec 2) (x1 : BitVec 4) : BitVec.extractLsb' 0 4 (x0 ++ x1 : BitVec 6) = x1 := by
  apply BitVec.eq_of_toNat_eq
  have h0 := x0.isLt
  have h1 := x1.isLt
  rw [BitVec.extractLsb'_toNat, Nat.shiftRight_eq_div_pow, cat_toNat]
  omega

/-! ## Layouts: the record that the decoder reads from the fields that the encoder writes -/

/-- The immediate, whether it stands in IMM alone or in the extension word too (R131). -/
@[simp] theorem Pk.imm44_im (r : Raw) (i : BitVec 44) : (Pk.im r i).imm44 = i := by
  unfold Pk.im
  by_cases h : fits12 i = true
  · simp only [h, if_true, Raw.imm44]
    simpa [fits12] using h
  · simp only [h, Raw.imm44]
    show BitVec.extractLsb' 12 32 i ++ BitVec.setWidth 12 i = i
    apply BitVec.eq_of_getLsbD_eq
    intro j hj
    rw [BitVec.getLsbD_append]
    by_cases hk : j < 12
    · simp [hk]
    · have h2 : j - 12 < 32 := by omega
      have h3 : 12 + (j - 12) = j := by omega
      simp [hk, h2, h3]
@[simp] theorem Pk.im_pred (r : Raw) (i : BitVec 44) : (Pk.im r i).pred = r.pred := by unfold Pk.im; split <;> rfl
@[simp] theorem Pk.im_op (r : Raw) (i : BitVec 44) : (Pk.im r i).op = r.op := by unfold Pk.im; split <;> rfl
@[simp] theorem Pk.im_d (r : Raw) (i : BitVec 44) : (Pk.im r i).d = r.d := by unfold Pk.im; split <;> rfl
@[simp] theorem Pk.im_a (r : Raw) (i : BitVec 44) : (Pk.im r i).a = r.a := by unfold Pk.im; split <;> rfl
@[simp] theorem Pk.im_b (r : Raw) (i : BitVec 44) : (Pk.im r i).b = r.b := by unfold Pk.im; split <;> rfl
@[simp] theorem Pk.im_c (r : Raw) (i : BitVec 44) : (Pk.im r i).c = r.c := by unfold Pk.im; split <;> rfl

theorem Lay.n_pk (op : BitVec 8) (o : OpN) (h : o.p.wf = true) : Lay.n (Pk.n op o) = some o := by
  simp [Lay.n, Pk.n, Pk.z, Raw.noX, Pred.of4_to4 h]
theorem Lay.nt_pk (op : BitVec 8) (o : OpNT) (h : o.p.wf = true) : Lay.nt o.tw (Pk.nt op o) = some o := by
  simp [Lay.nt, Pk.nt, Pk.z, Raw.noX, Pred.of4_to4 h]
theorem Lay.rrr_pk (op : BitVec 8) (o : OpRRR) (h : o.p.wf = true) : Lay.rrr (Pk.rrr op o) = some o := by
  simp [Lay.rrr, Pk.rrr, Pk.z, Raw.noX, Pred.of4_to4 h]
theorem Lay.ri_pk (op : BitVec 8) (o : OpRI) (h : o.p.wf = true) : Lay.ri (Pk.ri op o) = some o := by
  simp [Lay.ri, Pk.ri, Pk.z, Raw.noX, Pred.of4_to4 h]
theorem Lay.qrr_pk (op : BitVec 8) (o : OpQRR) (h : o.p.wf = true) : Lay.qrr (Pk.qrr op o) = some o := by
  simp [Lay.qrr, Pk.qrr, Pk.z, Raw.noX, Pred.of4_to4 h]
theorem Lay.qri_pk (op : BitVec 8) (o : OpQRI) (h : o.p.wf = true) : Lay.qri (Pk.qri op o) = some o := by
  simp [Lay.qri, Pk.qri, Pk.z, Raw.noX, Pred.of4_to4 h]
theorem Lay.bf_pk (op : BitVec 8) (o : OpBF) (h : o.p.wf = true) : Lay.bf (Pk.bf op o) = some o := by
  simp [Lay.bf, Pk.bf, Pk.z, Raw.noX, Pred.of4_to4 h]
theorem Lay.di_pk (op : BitVec 8) (o : OpDI) (h : o.p.wf = true) : Lay.di (Pk.di op o) = some o := by
  simp [Lay.di, Pk.di, Pk.z, Raw.noX, Pred.of4_to4 h]
theorem Lay.sc_pk (op : BitVec 8) (o : OpSC) (h : o.p.wf = true) : Lay.sc (Pk.sc op o) = some o := by
  simp [Lay.sc, Pk.sc, Pk.z, Raw.noX, Pred.of4_to4 h]
  exact split_4_3_1_4_b2 _ _ false _
theorem Lay.crr_pk (op : BitVec 8) (o : OpCRr) (h : o.p.wf = true) : Lay.crr (Pk.crr op o) = some o := by
  simp [Lay.crr, Pk.crr, Pk.z, Raw.noX, Pred.of4_to4 h]
theorem Lay.crw_pk (op : BitVec 8) (o : OpCRw) (h : o.p.wf = true) : Lay.crw (Pk.crw op o) = some o := by
  simp [Lay.crw, Pk.crw, Pk.z, Raw.noX, Pred.of4_to4 h]
theorem Lay.ev_pk (op : BitVec 8) (o : OpEv) (h : o.p.wf = true) : Lay.ev (Pk.ev op o) = some o := by
  simp [Lay.ev, Pk.ev, Pk.z, Raw.noX, Pred.of4_to4 h]
theorem Lay.sm_pk (op : BitVec 8) (o : OpSM) (h : o.p.wf = true) : Lay.sm (Pk.sm op o) = some o := by
  simp [Lay.sm, Pk.sm, Pk.z, Raw.noX, Pred.of4_to4 h]
theorem Lay.sa_pk (op : BitVec 8) (o : OpSA) (h : o.p.wf = true) : Lay.sa (Pk.sa op o) = some o := by
  simp [Lay.sa, Pk.sa, Pk.z, Raw.noX, Pred.of4_to4 h]
theorem Lay.ss_pk (op : BitVec 8) (o : OpSS) (h : o.p.wf = true) : Lay.ss (Pk.ss op o) = some o := by
  simp [Lay.ss, Pk.ss, Pk.z, Raw.noX, Pred.of4_to4 h]
theorem Lay.br_pk (op : BitVec 8) (o : OpBR) (h : o.p.wf = true) : Lay.br (Pk.br op o) = some o := by
  simp [Lay.br, Pk.br, Pk.z, Raw.noX, Pred.of4_to4 h]
theorem Lay.vrrr_pk (op : BitVec 8) (o : OpVRRR) (h : o.p.wf = true) : Lay.vrrr o.tw (Pk.vrrr op o) = some o := by
  simp [Lay.vrrr, Pk.vrrr, Pk.z, Raw.noX, Pred.of4_to4 h]
theorem Lay.vi_pk (op : BitVec 8) (o : OpVI) (h : o.p.wf = true) : Lay.vi o.tw (Pk.vi op o) = some o := by
  simp [Lay.vi, Pk.vi, Pk.z, Raw.noX, Pred.of4_to4 h]
theorem Lay.vf_pk (op : BitVec 8) (o : OpVF) (h : o.p.wf = true) : Lay.vf o.tw (Pk.vf op o) = some o := by
  simp [Lay.vf, Pk.vf, Pk.z, Raw.noX, Pred.of4_to4 h]
theorem Lay.vk_pk (op : BitVec 8) (o : OpVK) (h : o.p.wf = true) : Lay.vk o.tw (Pk.vk op o) = some o := by
  simp [Lay.vk, Pk.vk, Pk.z, Raw.noX, Pred.of4_to4 h]
theorem Lay.kk_pk (op : BitVec 8) (o : OpKK) (h : o.p.wf = true) : Lay.kk o.tw (Pk.kk op o) = some o := by
  simp [Lay.kk, Pk.kk, Pk.z, Raw.noX, Pred.of4_to4 h]
theorem Lay.vc_pk (op : BitVec 8) (o : OpVC) (h : o.p.wf = true) : Lay.vc o.tw (Pk.vc op o) = some o := by
  simp [Lay.vc, Pk.vc, Pk.z, Raw.noX, Pred.of4_to4 h]
theorem Lay.vg_pk (op : BitVec 8) (o : OpVG) (h : o.p.wf = true) : Lay.vg o.tw (Pk.vg op o) = some o := by
  simp [Lay.vg, Pk.vg, Pk.z, Raw.noX, Pred.of4_to4 h]
theorem Lay.mp_pk (op : BitVec 8) (o : OpMP) (h : o.p.wf = true) : Lay.mp (Pk.mp op o) = some o := by
  simp [Lay.mp, Pk.mp, Pk.z, Raw.noX, Pred.of4_to4 h]
theorem Lay.ma_pk (op : BitVec 8) (o : OpMA) (h : o.p.wf = true) : Lay.ma (Pk.ma op o) = some o := by
  simp [Lay.ma, Pk.ma, Pk.z, Raw.noX, Pred.of4_to4 h]
  exact split_4_1_1_6_b2 _ _ false _
theorem Lay.mt_pk (op : BitVec 8) (o : OpMT) (h : o.p.wf = true) : Lay.mt (Pk.mt op o) = some o := by
  simp [Lay.mt, Pk.mt, Pk.z, Raw.noX, Pred.of4_to4 h]
theorem Lay.md_pk (op : BitVec 8) (o : OpMD) (h : o.p.wf = true) : Lay.md (Pk.md op o) = some o := by
  simp [Lay.md, Pk.md, Pk.z, Raw.noX, Pred.of4_to4 h]
theorem Lay.mc_pk (op : BitVec 8) (o : OpMC) (h : o.p.wf = true) : Lay.mc (Pk.mc op o) = some o := by
  simp [Lay.mc, Pk.mc, Pk.z, Raw.noX, Pred.of4_to4 h]
theorem Lay.mk_pk (op : BitVec 8) (o : OpMK) (h : o.p.wf = true) : Lay.mk (Pk.mk op o) = some o := by
  simp [Lay.mk, Pk.mk, Pk.z, Raw.noX, Pred.of4_to4 h]
theorem Lay.ce_pk (op : BitVec 8) (o : OpCE) (h : o.p.wf = true) : Lay.ce o.tw (Pk.ce op o) = some o := by
  simp [Lay.ce, Pk.ce, Pk.z, Raw.noX, Pred.of4_to4 h]
theorem Lay.cp_pk (op : BitVec 8) (o : OpCP) (h : o.p.wf = true) : Lay.cp o.tw (Pk.cp op o) = some o := by
  simp [Lay.cp, Pk.cp, Pk.z, Raw.noX, Pred.of4_to4 h]
theorem Lay.lr_pk (op : BitVec 8) (o : OpLR) (h : o.p.wf = true) : Lay.lr (Pk.lr op o) = some o := by
  simp [Lay.lr, Pk.lr, Pk.z, Raw.noX, Pred.of4_to4 h]
theorem Lay.li_pk (op : BitVec 8) (o : OpLI) (h : o.p.wf = true) : Lay.li (Pk.li op o) = some o := by
  simp [Lay.li, Pk.li, Pk.z, Raw.noX, Pred.of4_to4 h]

end Sys2Proof
end

