-- ==== Sys2Proof/Laws/State.lean ====
section
/-!
SUPPORT. Laws of State: what each named update of the machine leaves alone, field by field, so that no later proof unfolds a
record update.
-/
namespace Sys2Proof.Machine

/-! ### setCtx changes `ctxs` alone -/

@[simp] theorem State.setCtx_clock (s : State) (cx : Nat) (c : Ctx) : (s.setCtx cx c).clock = s.clock := rfl
@[simp] theorem State.setCtx_inputs (s : State) (cx : Nat) (c : Ctx) : (s.setCtx cx c).inputs = s.inputs := rfl
@[simp] theorem State.setCtx_agenda (s : State) (cx : Nat) (c : Ctx) : (s.setCtx cx c).agenda = s.agenda := rfl
@[simp] theorem State.setCtx_iss (s : State) (cx : Nat) (c : Ctx) : (s.setCtx cx c).iss = s.iss := rfl
@[simp] theorem State.setCtx_mem (s : State) (cx : Nat) (c : Ctx) : (s.setCtx cx c).mem = s.mem := rfl
@[simp] theorem State.setCtx_full (s : State) (cx : Nat) (c : Ctx) : (s.setCtx cx c).full = s.full := rfl
@[simp] theorem State.setCtx_loc (s : State) (cx : Nat) (c : Ctx) : (s.setCtx cx c).loc = s.loc := rfl
@[simp] theorem State.setCtx_locFull (s : State) (cx : Nat) (c : Ctx) : (s.setCtx cx c).locFull = s.locFull := rfl
@[simp] theorem State.setCtx_host0 (s : State) (cx : Nat) (c : Ctx) : (s.setCtx cx c).host0 = s.host0 := rfl
@[simp] theorem State.setCtx_host1 (s : State) (cx : Nat) (c : Ctx) : (s.setCtx cx c).host1 = s.host1 := rfl
@[simp] theorem State.setCtx_bad (s : State) (cx : Nat) (c : Ctx) : (s.setCtx cx c).bad = s.bad := rfl
@[simp] theorem State.setCtx_locBad (s : State) (cx : Nat) (c : Ctx) : (s.setCtx cx c).locBad = s.locBad := rfl
@[simp] theorem State.setCtx_cores (s : State) (cx : Nat) (c : Ctx) : (s.setCtx cx c).cores = s.cores := rfl
@[simp] theorem State.setCtx_clusters (s : State) (cx : Nat) (c : Ctx) : (s.setCtx cx c).clusters = s.clusters := rfl
@[simp] theorem State.setCtx_dies (s : State) (cx : Nat) (c : Ctx) : (s.setCtx cx c).dies = s.dies := rfl
@[simp] theorem State.setCtx_therm (s : State) (cx : Nat) (c : Ctx) : (s.setCtx cx c).therm = s.therm := rfl
@[simp] theorem State.setCtx_tasks (s : State) (cx : Nat) (c : Ctx) : (s.setCtx cx c).tasks = s.tasks := rfl
@[simp] theorem State.setCtx_records (s : State) (cx : Nat) (c : Ctx) : (s.setCtx cx c).records = s.records := rfl
@[simp] theorem State.setCtx_cmds (s : State) (cx : Nat) (c : Ctx) : (s.setCtx cx c).cmds = s.cmds := rfl
@[simp] theorem State.setCtx_reds (s : State) (cx : Nat) (c : Ctx) : (s.setCtx cx c).reds = s.reds := rfl
@[simp] theorem State.setCtx_mix (s : State) (cx : Nat) (c : Ctx) : (s.setCtx cx c).mix = s.mix := rfl
@[simp] theorem State.setCtx_fns (s : State) (cx : Nat) (c : Ctx) : (s.setCtx cx c).fns = s.fns := rfl
@[simp] theorem State.setCtx_funcJob (s : State) (cx : Nat) (c : Ctx) : (s.setCtx cx c).funcJob = s.funcJob := rfl
@[simp] theorem State.setCtx_sems (s : State) (cx : Nat) (c : Ctx) : (s.setCtx cx c).sems = s.sems := rfl
@[simp] theorem State.setCtx_tie (s : State) (cx : Nat) (c : Ctx) : (s.setCtx cx c).tie = s.tie := rfl
@[simp] theorem State.setCtx_irqs (s : State) (cx : Nat) (c : Ctx) : (s.setCtx cx c).irqs = s.irqs := rfl
@[simp] theorem State.setCtx_completions (s : State) (cx : Nat) (c : Ctx) : (s.setCtx cx c).completions = s.completions := rfl
@[simp] theorem State.setCtx_linkUp (s : State) (cx : Nat) (c : Ctx) : (s.setCtx cx c).linkUp = s.linkUp := rfl
@[simp] theorem State.setCtx_linkFlit (s : State) (cx : Nat) (c : Ctx) : (s.setCtx cx c).linkFlit = s.linkFlit := rfl
@[simp] theorem State.setCtx_i3cAddr (s : State) (cx : Nat) (c : Ctx) : (s.setCtx cx c).i3cAddr = s.i3cAddr := rfl
@[simp] theorem State.setCtx_mgmtOut (s : State) (cx : Nat) (c : Ctx) : (s.setCtx cx c).mgmtOut = s.mgmtOut := rfl
@[simp] theorem State.setCtx_powerIrqs (s : State) (cx : Nat) (c : Ctx) : (s.setCtx cx c).powerIrqs = s.powerIrqs := rfl
@[simp] theorem State.setCtx_spdm (s : State) (cx : Nat) (c : Ctx) : (s.setCtx cx c).spdm = s.spdm := rfl
@[simp] theorem State.setCtx_mail (s : State) (cx : Nat) (c : Ctx) : (s.setCtx cx c).mail = s.mail := rfl
@[simp] theorem State.setCtx_keys (s : State) (cx : Nat) (c : Ctx) : (s.setCtx cx c).keys = s.keys := rfl
@[simp] theorem State.setCtx_tamper (s : State) (cx : Nat) (c : Ctx) : (s.setCtx cx c).tamper = s.tamper := rfl
@[simp] theorem State.setCtx_seals (s : State) (cx : Nat) (c : Ctx) : (s.setCtx cx c).seals = s.seals := rfl
@[simp] theorem State.setCtx_wear (s : State) (cx : Nat) (c : Ctx) : (s.setCtx cx c).wear = s.wear := rfl
@[simp] theorem State.setCtx_ports (s : State) (cx : Nat) (c : Ctx) : (s.setCtx cx c).ports = s.ports := rfl
@[simp] theorem State.setCtx_outReqs (s : State) (cx : Nat) (c : Ctx) : (s.setCtx cx c).outReqs = s.outReqs := rfl
@[simp] theorem State.setCtx_seqs (s : State) (cx : Nat) (c : Ctx) : (s.setCtx cx c).seqs = s.seqs := rfl
@[simp] theorem State.setCtx_applied (s : State) (cx : Nat) (c : Ctx) : (s.setCtx cx c).applied = s.applied := rfl
@[simp] theorem State.setCtx_replies (s : State) (cx : Nat) (c : Ctx) : (s.setCtx cx c).replies = s.replies := rfl
@[simp] theorem State.setCtx_repliesDue (s : State) (cx : Nat) (c : Ctx) : (s.setCtx cx c).repliesDue = s.repliesDue := rfl
@[simp] theorem State.setCtx_lostLinks (s : State) (cx : Nat) (c : Ctx) : (s.setCtx cx c).lostLinks = s.lostLinks := rfl
@[simp] theorem State.setCtx_acct (s : State) (cx : Nat) (c : Ctx) : (s.setCtx cx c).acct = s.acct := rfl
@[simp] theorem State.setCtx_energyRem (s : State) (cx : Nat) (c : Ctx) : (s.setCtx cx c).energyRem = s.energyRem := rfl
@[simp] theorem State.setCtx_held (s : State) (cx : Nat) (c : Ctx) : (s.setCtx cx c).held = s.held := rfl
@[simp] theorem State.setCtx_idleEnergy (s : State) (cx : Nat) (c : Ctx) : (s.setCtx cx c).idleEnergy = s.idleEnergy := rfl
@[simp] theorem State.setCtx_nightdly (s : State) (cx : Nat) (c : Ctx) : (s.setCtx cx c).nightdly = s.nightdly := rfl
@[simp] theorem State.setCtx_govmode (s : State) (cx : Nat) (c : Ctx) : (s.setCtx cx c).govmode = s.govmode := rfl
@[simp] theorem State.setCtx_updPend (s : State) (cx : Nat) (c : Ctx) : (s.setCtx cx c).updPend = s.updPend := rfl
@[simp] theorem State.setCtx_lastKick (s : State) (cx : Nat) (c : Ctx) : (s.setCtx cx c).lastKick = s.lastKick := rfl
@[simp] theorem State.setCtx_boot (s : State) (cx : Nat) (c : Ctx) : (s.setCtx cx c).boot = s.boot := rfl
@[simp] theorem State.setCtx_image (s : State) (cx : Nat) (c : Ctx) : (s.setCtx cx c).image = s.image := rfl
@[simp] theorem State.setCtx_free (s : State) (cx : Nat) (c : Ctx) : (s.setCtx cx c).free = s.free := rfl
@[simp] theorem State.setCtx_nextId (s : State) (cx : Nat) (c : Ctx) : (s.setCtx cx c).nextId = s.nextId := rfl

/-! ### setCore changes `cores` alone -/

@[simp] theorem State.setCore_clock (s : State) (k : Nat) (c : Core) : (s.setCore k c).clock = s.clock := rfl
@[simp] theorem State.setCore_inputs (s : State) (k : Nat) (c : Core) : (s.setCore k c).inputs = s.inputs := rfl
@[simp] theorem State.setCore_agenda (s : State) (k : Nat) (c : Core) : (s.setCore k c).agenda = s.agenda := rfl
@[simp] theorem State.setCore_iss (s : State) (k : Nat) (c : Core) : (s.setCore k c).iss = s.iss := rfl
@[simp] theorem State.setCore_mem (s : State) (k : Nat) (c : Core) : (s.setCore k c).mem = s.mem := rfl
@[simp] theorem State.setCore_full (s : State) (k : Nat) (c : Core) : (s.setCore k c).full = s.full := rfl
@[simp] theorem State.setCore_loc (s : State) (k : Nat) (c : Core) : (s.setCore k c).loc = s.loc := rfl
@[simp] theorem State.setCore_locFull (s : State) (k : Nat) (c : Core) : (s.setCore k c).locFull = s.locFull := rfl
@[simp] theorem State.setCore_host0 (s : State) (k : Nat) (c : Core) : (s.setCore k c).host0 = s.host0 := rfl
@[simp] theorem State.setCore_host1 (s : State) (k : Nat) (c : Core) : (s.setCore k c).host1 = s.host1 := rfl
@[simp] theorem State.setCore_bad (s : State) (k : Nat) (c : Core) : (s.setCore k c).bad = s.bad := rfl
@[simp] theorem State.setCore_locBad (s : State) (k : Nat) (c : Core) : (s.setCore k c).locBad = s.locBad := rfl
@[simp] theorem State.setCore_ctxs (s : State) (k : Nat) (c : Core) : (s.setCore k c).ctxs = s.ctxs := rfl
@[simp] theorem State.setCore_clusters (s : State) (k : Nat) (c : Core) : (s.setCore k c).clusters = s.clusters := rfl
@[simp] theorem State.setCore_dies (s : State) (k : Nat) (c : Core) : (s.setCore k c).dies = s.dies := rfl
@[simp] theorem State.setCore_therm (s : State) (k : Nat) (c : Core) : (s.setCore k c).therm = s.therm := rfl
@[simp] theorem State.setCore_tasks (s : State) (k : Nat) (c : Core) : (s.setCore k c).tasks = s.tasks := rfl
@[simp] theorem State.setCore_records (s : State) (k : Nat) (c : Core) : (s.setCore k c).records = s.records := rfl
@[simp] theorem State.setCore_cmds (s : State) (k : Nat) (c : Core) : (s.setCore k c).cmds = s.cmds := rfl
@[simp] theorem State.setCore_reds (s : State) (k : Nat) (c : Core) : (s.setCore k c).reds = s.reds := rfl
@[simp] theorem State.setCore_mix (s : State) (k : Nat) (c : Core) : (s.setCore k c).mix = s.mix := rfl
@[simp] theorem State.setCore_fns (s : State) (k : Nat) (c : Core) : (s.setCore k c).fns = s.fns := rfl
@[simp] theorem State.setCore_funcJob (s : State) (k : Nat) (c : Core) : (s.setCore k c).funcJob = s.funcJob := rfl
@[simp] theorem State.setCore_sems (s : State) (k : Nat) (c : Core) : (s.setCore k c).sems = s.sems := rfl
@[simp] theorem State.setCore_tie (s : State) (k : Nat) (c : Core) : (s.setCore k c).tie = s.tie := rfl
@[simp] theorem State.setCore_irqs (s : State) (k : Nat) (c : Core) : (s.setCore k c).irqs = s.irqs := rfl
@[simp] theorem State.setCore_completions (s : State) (k : Nat) (c : Core) : (s.setCore k c).completions = s.completions := rfl
@[simp] theorem State.setCore_linkUp (s : State) (k : Nat) (c : Core) : (s.setCore k c).linkUp = s.linkUp := rfl
@[simp] theorem State.setCore_linkFlit (s : State) (k : Nat) (c : Core) : (s.setCore k c).linkFlit = s.linkFlit := rfl
@[simp] theorem State.setCore_i3cAddr (s : State) (k : Nat) (c : Core) : (s.setCore k c).i3cAddr = s.i3cAddr := rfl
@[simp] theorem State.setCore_mgmtOut (s : State) (k : Nat) (c : Core) : (s.setCore k c).mgmtOut = s.mgmtOut := rfl
@[simp] theorem State.setCore_powerIrqs (s : State) (k : Nat) (c : Core) : (s.setCore k c).powerIrqs = s.powerIrqs := rfl
@[simp] theorem State.setCore_spdm (s : State) (k : Nat) (c : Core) : (s.setCore k c).spdm = s.spdm := rfl
@[simp] theorem State.setCore_mail (s : State) (k : Nat) (c : Core) : (s.setCore k c).mail = s.mail := rfl
@[simp] theorem State.setCore_keys (s : State) (k : Nat) (c : Core) : (s.setCore k c).keys = s.keys := rfl
@[simp] theorem State.setCore_tamper (s : State) (k : Nat) (c : Core) : (s.setCore k c).tamper = s.tamper := rfl
@[simp] theorem State.setCore_seals (s : State) (k : Nat) (c : Core) : (s.setCore k c).seals = s.seals := rfl
@[simp] theorem State.setCore_wear (s : State) (k : Nat) (c : Core) : (s.setCore k c).wear = s.wear := rfl
@[simp] theorem State.setCore_ports (s : State) (k : Nat) (c : Core) : (s.setCore k c).ports = s.ports := rfl
@[simp] theorem State.setCore_outReqs (s : State) (k : Nat) (c : Core) : (s.setCore k c).outReqs = s.outReqs := rfl
@[simp] theorem State.setCore_seqs (s : State) (k : Nat) (c : Core) : (s.setCore k c).seqs = s.seqs := rfl
@[simp] theorem State.setCore_applied (s : State) (k : Nat) (c : Core) : (s.setCore k c).applied = s.applied := rfl
@[simp] theorem State.setCore_replies (s : State) (k : Nat) (c : Core) : (s.setCore k c).replies = s.replies := rfl
@[simp] theorem State.setCore_repliesDue (s : State) (k : Nat) (c : Core) : (s.setCore k c).repliesDue = s.repliesDue := rfl
@[simp] theorem State.setCore_lostLinks (s : State) (k : Nat) (c : Core) : (s.setCore k c).lostLinks = s.lostLinks := rfl
@[simp] theorem State.setCore_acct (s : State) (k : Nat) (c : Core) : (s.setCore k c).acct = s.acct := rfl
@[simp] theorem State.setCore_energyRem (s : State) (k : Nat) (c : Core) : (s.setCore k c).energyRem = s.energyRem := rfl
@[simp] theorem State.setCore_held (s : State) (k : Nat) (c : Core) : (s.setCore k c).held = s.held := rfl
@[simp] theorem State.setCore_idleEnergy (s : State) (k : Nat) (c : Core) : (s.setCore k c).idleEnergy = s.idleEnergy := rfl
@[simp] theorem State.setCore_nightdly (s : State) (k : Nat) (c : Core) : (s.setCore k c).nightdly = s.nightdly := rfl
@[simp] theorem State.setCore_govmode (s : State) (k : Nat) (c : Core) : (s.setCore k c).govmode = s.govmode := rfl
@[simp] theorem State.setCore_updPend (s : State) (k : Nat) (c : Core) : (s.setCore k c).updPend = s.updPend := rfl
@[simp] theorem State.setCore_lastKick (s : State) (k : Nat) (c : Core) : (s.setCore k c).lastKick = s.lastKick := rfl
@[simp] theorem State.setCore_boot (s : State) (k : Nat) (c : Core) : (s.setCore k c).boot = s.boot := rfl
@[simp] theorem State.setCore_image (s : State) (k : Nat) (c : Core) : (s.setCore k c).image = s.image := rfl
@[simp] theorem State.setCore_free (s : State) (k : Nat) (c : Core) : (s.setCore k c).free = s.free := rfl
@[simp] theorem State.setCore_nextId (s : State) (k : Nat) (c : Core) : (s.setCore k c).nextId = s.nextId := rfl

/-! ### setCluster changes `clusters` alone -/

@[simp] theorem State.setCluster_clock (s : State) (k : Nat) (c : Cluster) : (s.setCluster k c).clock = s.clock := rfl
@[simp] theorem State.setCluster_inputs (s : State) (k : Nat) (c : Cluster) : (s.setCluster k c).inputs = s.inputs := rfl
@[simp] theorem State.setCluster_agenda (s : State) (k : Nat) (c : Cluster) : (s.setCluster k c).agenda = s.agenda := rfl
@[simp] theorem State.setCluster_iss (s : State) (k : Nat) (c : Cluster) : (s.setCluster k c).iss = s.iss := rfl
@[simp] theorem State.setCluster_mem (s : State) (k : Nat) (c : Cluster) : (s.setCluster k c).mem = s.mem := rfl
@[simp] theorem State.setCluster_full (s : State) (k : Nat) (c : Cluster) : (s.setCluster k c).full = s.full := rfl
@[simp] theorem State.setCluster_loc (s : State) (k : Nat) (c : Cluster) : (s.setCluster k c).loc = s.loc := rfl
@[simp] theorem State.setCluster_locFull (s : State) (k : Nat) (c : Cluster) : (s.setCluster k c).locFull = s.locFull := rfl
@[simp] theorem State.setCluster_host0 (s : State) (k : Nat) (c : Cluster) : (s.setCluster k c).host0 = s.host0 := rfl
@[simp] theorem State.setCluster_host1 (s : State) (k : Nat) (c : Cluster) : (s.setCluster k c).host1 = s.host1 := rfl
@[simp] theorem State.setCluster_bad (s : State) (k : Nat) (c : Cluster) : (s.setCluster k c).bad = s.bad := rfl
@[simp] theorem State.setCluster_locBad (s : State) (k : Nat) (c : Cluster) : (s.setCluster k c).locBad = s.locBad := rfl
@[simp] theorem State.setCluster_ctxs (s : State) (k : Nat) (c : Cluster) : (s.setCluster k c).ctxs = s.ctxs := rfl
@[simp] theorem State.setCluster_cores (s : State) (k : Nat) (c : Cluster) : (s.setCluster k c).cores = s.cores := rfl
@[simp] theorem State.setCluster_dies (s : State) (k : Nat) (c : Cluster) : (s.setCluster k c).dies = s.dies := rfl
@[simp] theorem State.setCluster_therm (s : State) (k : Nat) (c : Cluster) : (s.setCluster k c).therm = s.therm := rfl
@[simp] theorem State.setCluster_tasks (s : State) (k : Nat) (c : Cluster) : (s.setCluster k c).tasks = s.tasks := rfl
@[simp] theorem State.setCluster_records (s : State) (k : Nat) (c : Cluster) : (s.setCluster k c).records = s.records := rfl
@[simp] theorem State.setCluster_cmds (s : State) (k : Nat) (c : Cluster) : (s.setCluster k c).cmds = s.cmds := rfl
@[simp] theorem State.setCluster_reds (s : State) (k : Nat) (c : Cluster) : (s.setCluster k c).reds = s.reds := rfl
@[simp] theorem State.setCluster_mix (s : State) (k : Nat) (c : Cluster) : (s.setCluster k c).mix = s.mix := rfl
@[simp] theorem State.setCluster_fns (s : State) (k : Nat) (c : Cluster) : (s.setCluster k c).fns = s.fns := rfl
@[simp] theorem State.setCluster_funcJob (s : State) (k : Nat) (c : Cluster) : (s.setCluster k c).funcJob = s.funcJob := rfl
@[simp] theorem State.setCluster_sems (s : State) (k : Nat) (c : Cluster) : (s.setCluster k c).sems = s.sems := rfl
@[simp] theorem State.setCluster_tie (s : State) (k : Nat) (c : Cluster) : (s.setCluster k c).tie = s.tie := rfl
@[simp] theorem State.setCluster_irqs (s : State) (k : Nat) (c : Cluster) : (s.setCluster k c).irqs = s.irqs := rfl
@[simp] theorem State.setCluster_completions (s : State) (k : Nat) (c : Cluster) : (s.setCluster k c).completions = s.completions := rfl
@[simp] theorem State.setCluster_linkUp (s : State) (k : Nat) (c : Cluster) : (s.setCluster k c).linkUp = s.linkUp := rfl
@[simp] theorem State.setCluster_linkFlit (s : State) (k : Nat) (c : Cluster) : (s.setCluster k c).linkFlit = s.linkFlit := rfl
@[simp] theorem State.setCluster_i3cAddr (s : State) (k : Nat) (c : Cluster) : (s.setCluster k c).i3cAddr = s.i3cAddr := rfl
@[simp] theorem State.setCluster_mgmtOut (s : State) (k : Nat) (c : Cluster) : (s.setCluster k c).mgmtOut = s.mgmtOut := rfl
@[simp] theorem State.setCluster_powerIrqs (s : State) (k : Nat) (c : Cluster) : (s.setCluster k c).powerIrqs = s.powerIrqs := rfl
@[simp] theorem State.setCluster_spdm (s : State) (k : Nat) (c : Cluster) : (s.setCluster k c).spdm = s.spdm := rfl
@[simp] theorem State.setCluster_mail (s : State) (k : Nat) (c : Cluster) : (s.setCluster k c).mail = s.mail := rfl
@[simp] theorem State.setCluster_keys (s : State) (k : Nat) (c : Cluster) : (s.setCluster k c).keys = s.keys := rfl
@[simp] theorem State.setCluster_tamper (s : State) (k : Nat) (c : Cluster) : (s.setCluster k c).tamper = s.tamper := rfl
@[simp] theorem State.setCluster_seals (s : State) (k : Nat) (c : Cluster) : (s.setCluster k c).seals = s.seals := rfl
@[simp] theorem State.setCluster_wear (s : State) (k : Nat) (c : Cluster) : (s.setCluster k c).wear = s.wear := rfl
@[simp] theorem State.setCluster_ports (s : State) (k : Nat) (c : Cluster) : (s.setCluster k c).ports = s.ports := rfl
@[simp] theorem State.setCluster_outReqs (s : State) (k : Nat) (c : Cluster) : (s.setCluster k c).outReqs = s.outReqs := rfl
@[simp] theorem State.setCluster_seqs (s : State) (k : Nat) (c : Cluster) : (s.setCluster k c).seqs = s.seqs := rfl
@[simp] theorem State.setCluster_applied (s : State) (k : Nat) (c : Cluster) : (s.setCluster k c).applied = s.applied := rfl
@[simp] theorem State.setCluster_replies (s : State) (k : Nat) (c : Cluster) : (s.setCluster k c).replies = s.replies := rfl
@[simp] theorem State.setCluster_repliesDue (s : State) (k : Nat) (c : Cluster) : (s.setCluster k c).repliesDue = s.repliesDue := rfl
@[simp] theorem State.setCluster_lostLinks (s : State) (k : Nat) (c : Cluster) : (s.setCluster k c).lostLinks = s.lostLinks := rfl
@[simp] theorem State.setCluster_acct (s : State) (k : Nat) (c : Cluster) : (s.setCluster k c).acct = s.acct := rfl
@[simp] theorem State.setCluster_energyRem (s : State) (k : Nat) (c : Cluster) : (s.setCluster k c).energyRem = s.energyRem := rfl
@[simp] theorem State.setCluster_held (s : State) (k : Nat) (c : Cluster) : (s.setCluster k c).held = s.held := rfl
@[simp] theorem State.setCluster_idleEnergy (s : State) (k : Nat) (c : Cluster) : (s.setCluster k c).idleEnergy = s.idleEnergy := rfl
@[simp] theorem State.setCluster_nightdly (s : State) (k : Nat) (c : Cluster) : (s.setCluster k c).nightdly = s.nightdly := rfl
@[simp] theorem State.setCluster_govmode (s : State) (k : Nat) (c : Cluster) : (s.setCluster k c).govmode = s.govmode := rfl
@[simp] theorem State.setCluster_updPend (s : State) (k : Nat) (c : Cluster) : (s.setCluster k c).updPend = s.updPend := rfl
@[simp] theorem State.setCluster_lastKick (s : State) (k : Nat) (c : Cluster) : (s.setCluster k c).lastKick = s.lastKick := rfl
@[simp] theorem State.setCluster_boot (s : State) (k : Nat) (c : Cluster) : (s.setCluster k c).boot = s.boot := rfl
@[simp] theorem State.setCluster_image (s : State) (k : Nat) (c : Cluster) : (s.setCluster k c).image = s.image := rfl
@[simp] theorem State.setCluster_free (s : State) (k : Nat) (c : Cluster) : (s.setCluster k c).free = s.free := rfl
@[simp] theorem State.setCluster_nextId (s : State) (k : Nat) (c : Cluster) : (s.setCluster k c).nextId = s.nextId := rfl

/-! ### setDie changes `dies` alone -/

@[simp] theorem State.setDie_clock (s : State) (d : Nat) (v : Die) : (s.setDie d v).clock = s.clock := rfl
@[simp] theorem State.setDie_inputs (s : State) (d : Nat) (v : Die) : (s.setDie d v).inputs = s.inputs := rfl
@[simp] theorem State.setDie_agenda (s : State) (d : Nat) (v : Die) : (s.setDie d v).agenda = s.agenda := rfl
@[simp] theorem State.setDie_iss (s : State) (d : Nat) (v : Die) : (s.setDie d v).iss = s.iss := rfl
@[simp] theorem State.setDie_mem (s : State) (d : Nat) (v : Die) : (s.setDie d v).mem = s.mem := rfl
@[simp] theorem State.setDie_full (s : State) (d : Nat) (v : Die) : (s.setDie d v).full = s.full := rfl
@[simp] theorem State.setDie_loc (s : State) (d : Nat) (v : Die) : (s.setDie d v).loc = s.loc := rfl
@[simp] theorem State.setDie_locFull (s : State) (d : Nat) (v : Die) : (s.setDie d v).locFull = s.locFull := rfl
@[simp] theorem State.setDie_host0 (s : State) (d : Nat) (v : Die) : (s.setDie d v).host0 = s.host0 := rfl
@[simp] theorem State.setDie_host1 (s : State) (d : Nat) (v : Die) : (s.setDie d v).host1 = s.host1 := rfl
@[simp] theorem State.setDie_bad (s : State) (d : Nat) (v : Die) : (s.setDie d v).bad = s.bad := rfl
@[simp] theorem State.setDie_locBad (s : State) (d : Nat) (v : Die) : (s.setDie d v).locBad = s.locBad := rfl
@[simp] theorem State.setDie_ctxs (s : State) (d : Nat) (v : Die) : (s.setDie d v).ctxs = s.ctxs := rfl
@[simp] theorem State.setDie_cores (s : State) (d : Nat) (v : Die) : (s.setDie d v).cores = s.cores := rfl
@[simp] theorem State.setDie_clusters (s : State) (d : Nat) (v : Die) : (s.setDie d v).clusters = s.clusters := rfl
@[simp] theorem State.setDie_therm (s : State) (d : Nat) (v : Die) : (s.setDie d v).therm = s.therm := rfl
@[simp] theorem State.setDie_tasks (s : State) (d : Nat) (v : Die) : (s.setDie d v).tasks = s.tasks := rfl
@[simp] theorem State.setDie_records (s : State) (d : Nat) (v : Die) : (s.setDie d v).records = s.records := rfl
@[simp] theorem State.setDie_cmds (s : State) (d : Nat) (v : Die) : (s.setDie d v).cmds = s.cmds := rfl
@[simp] theorem State.setDie_reds (s : State) (d : Nat) (v : Die) : (s.setDie d v).reds = s.reds := rfl
@[simp] theorem State.setDie_mix (s : State) (d : Nat) (v : Die) : (s.setDie d v).mix = s.mix := rfl
@[simp] theorem State.setDie_fns (s : State) (d : Nat) (v : Die) : (s.setDie d v).fns = s.fns := rfl
@[simp] theorem State.setDie_funcJob (s : State) (d : Nat) (v : Die) : (s.setDie d v).funcJob = s.funcJob := rfl
@[simp] theorem State.setDie_sems (s : State) (d : Nat) (v : Die) : (s.setDie d v).sems = s.sems := rfl
@[simp] theorem State.setDie_tie (s : State) (d : Nat) (v : Die) : (s.setDie d v).tie = s.tie := rfl
@[simp] theorem State.setDie_irqs (s : State) (d : Nat) (v : Die) : (s.setDie d v).irqs = s.irqs := rfl
@[simp] theorem State.setDie_completions (s : State) (d : Nat) (v : Die) : (s.setDie d v).completions = s.completions := rfl
@[simp] theorem State.setDie_linkUp (s : State) (d : Nat) (v : Die) : (s.setDie d v).linkUp = s.linkUp := rfl
@[simp] theorem State.setDie_linkFlit (s : State) (d : Nat) (v : Die) : (s.setDie d v).linkFlit = s.linkFlit := rfl
@[simp] theorem State.setDie_i3cAddr (s : State) (d : Nat) (v : Die) : (s.setDie d v).i3cAddr = s.i3cAddr := rfl
@[simp] theorem State.setDie_mgmtOut (s : State) (d : Nat) (v : Die) : (s.setDie d v).mgmtOut = s.mgmtOut := rfl
@[simp] theorem State.setDie_powerIrqs (s : State) (d : Nat) (v : Die) : (s.setDie d v).powerIrqs = s.powerIrqs := rfl
@[simp] theorem State.setDie_spdm (s : State) (d : Nat) (v : Die) : (s.setDie d v).spdm = s.spdm := rfl
@[simp] theorem State.setDie_mail (s : State) (d : Nat) (v : Die) : (s.setDie d v).mail = s.mail := rfl
@[simp] theorem State.setDie_keys (s : State) (d : Nat) (v : Die) : (s.setDie d v).keys = s.keys := rfl
@[simp] theorem State.setDie_tamper (s : State) (d : Nat) (v : Die) : (s.setDie d v).tamper = s.tamper := rfl
@[simp] theorem State.setDie_seals (s : State) (d : Nat) (v : Die) : (s.setDie d v).seals = s.seals := rfl
@[simp] theorem State.setDie_wear (s : State) (d : Nat) (v : Die) : (s.setDie d v).wear = s.wear := rfl
@[simp] theorem State.setDie_ports (s : State) (d : Nat) (v : Die) : (s.setDie d v).ports = s.ports := rfl
@[simp] theorem State.setDie_outReqs (s : State) (d : Nat) (v : Die) : (s.setDie d v).outReqs = s.outReqs := rfl
@[simp] theorem State.setDie_seqs (s : State) (d : Nat) (v : Die) : (s.setDie d v).seqs = s.seqs := rfl
@[simp] theorem State.setDie_applied (s : State) (d : Nat) (v : Die) : (s.setDie d v).applied = s.applied := rfl
@[simp] theorem State.setDie_replies (s : State) (d : Nat) (v : Die) : (s.setDie d v).replies = s.replies := rfl
@[simp] theorem State.setDie_repliesDue (s : State) (d : Nat) (v : Die) : (s.setDie d v).repliesDue = s.repliesDue := rfl
@[simp] theorem State.setDie_lostLinks (s : State) (d : Nat) (v : Die) : (s.setDie d v).lostLinks = s.lostLinks := rfl
@[simp] theorem State.setDie_acct (s : State) (d : Nat) (v : Die) : (s.setDie d v).acct = s.acct := rfl
@[simp] theorem State.setDie_energyRem (s : State) (d : Nat) (v : Die) : (s.setDie d v).energyRem = s.energyRem := rfl
@[simp] theorem State.setDie_held (s : State) (d : Nat) (v : Die) : (s.setDie d v).held = s.held := rfl
@[simp] theorem State.setDie_idleEnergy (s : State) (d : Nat) (v : Die) : (s.setDie d v).idleEnergy = s.idleEnergy := rfl
@[simp] theorem State.setDie_nightdly (s : State) (d : Nat) (v : Die) : (s.setDie d v).nightdly = s.nightdly := rfl
@[simp] theorem State.setDie_govmode (s : State) (d : Nat) (v : Die) : (s.setDie d v).govmode = s.govmode := rfl
@[simp] theorem State.setDie_updPend (s : State) (d : Nat) (v : Die) : (s.setDie d v).updPend = s.updPend := rfl
@[simp] theorem State.setDie_lastKick (s : State) (d : Nat) (v : Die) : (s.setDie d v).lastKick = s.lastKick := rfl
@[simp] theorem State.setDie_boot (s : State) (d : Nat) (v : Die) : (s.setDie d v).boot = s.boot := rfl
@[simp] theorem State.setDie_image (s : State) (d : Nat) (v : Die) : (s.setDie d v).image = s.image := rfl
@[simp] theorem State.setDie_free (s : State) (d : Nat) (v : Die) : (s.setDie d v).free = s.free := rfl
@[simp] theorem State.setDie_nextId (s : State) (d : Nat) (v : Die) : (s.setDie d v).nextId = s.nextId := rfl

/-! ### updCtx changes `ctxs` alone -/

@[simp] theorem State.updCtx_clock (s : State) (cx : Nat) (f : Ctx → Ctx) : (s.updCtx cx f).clock = s.clock := rfl
@[simp] theorem State.updCtx_inputs (s : State) (cx : Nat) (f : Ctx → Ctx) : (s.updCtx cx f).inputs = s.inputs := rfl
@[simp] theorem State.updCtx_agenda (s : State) (cx : Nat) (f : Ctx → Ctx) : (s.updCtx cx f).agenda = s.agenda := rfl
@[simp] theorem State.updCtx_iss (s : State) (cx : Nat) (f : Ctx → Ctx) : (s.updCtx cx f).iss = s.iss := rfl
@[simp] theorem State.updCtx_mem (s : State) (cx : Nat) (f : Ctx → Ctx) : (s.updCtx cx f).mem = s.mem := rfl
@[simp] theorem State.updCtx_full (s : State) (cx : Nat) (f : Ctx → Ctx) : (s.updCtx cx f).full = s.full := rfl
@[simp] theorem State.updCtx_loc (s : State) (cx : Nat) (f : Ctx → Ctx) : (s.updCtx cx f).loc = s.loc := rfl
@[simp] theorem State.updCtx_locFull (s : State) (cx : Nat) (f : Ctx → Ctx) : (s.updCtx cx f).locFull = s.locFull := rfl
@[simp] theorem State.updCtx_host0 (s : State) (cx : Nat) (f : Ctx → Ctx) : (s.updCtx cx f).host0 = s.host0 := rfl
@[simp] theorem State.updCtx_host1 (s : State) (cx : Nat) (f : Ctx → Ctx) : (s.updCtx cx f).host1 = s.host1 := rfl
@[simp] theorem State.updCtx_bad (s : State) (cx : Nat) (f : Ctx → Ctx) : (s.updCtx cx f).bad = s.bad := rfl
@[simp] theorem State.updCtx_locBad (s : State) (cx : Nat) (f : Ctx → Ctx) : (s.updCtx cx f).locBad = s.locBad := rfl
@[simp] theorem State.updCtx_cores (s : State) (cx : Nat) (f : Ctx → Ctx) : (s.updCtx cx f).cores = s.cores := rfl
@[simp] theorem State.updCtx_clusters (s : State) (cx : Nat) (f : Ctx → Ctx) : (s.updCtx cx f).clusters = s.clusters := rfl
@[simp] theorem State.updCtx_dies (s : State) (cx : Nat) (f : Ctx → Ctx) : (s.updCtx cx f).dies = s.dies := rfl
@[simp] theorem State.updCtx_therm (s : State) (cx : Nat) (f : Ctx → Ctx) : (s.updCtx cx f).therm = s.therm := rfl
@[simp] theorem State.updCtx_tasks (s : State) (cx : Nat) (f : Ctx → Ctx) : (s.updCtx cx f).tasks = s.tasks := rfl
@[simp] theorem State.updCtx_records (s : State) (cx : Nat) (f : Ctx → Ctx) : (s.updCtx cx f).records = s.records := rfl
@[simp] theorem State.updCtx_cmds (s : State) (cx : Nat) (f : Ctx → Ctx) : (s.updCtx cx f).cmds = s.cmds := rfl
@[simp] theorem State.updCtx_reds (s : State) (cx : Nat) (f : Ctx → Ctx) : (s.updCtx cx f).reds = s.reds := rfl
@[simp] theorem State.updCtx_mix (s : State) (cx : Nat) (f : Ctx → Ctx) : (s.updCtx cx f).mix = s.mix := rfl
@[simp] theorem State.updCtx_fns (s : State) (cx : Nat) (f : Ctx → Ctx) : (s.updCtx cx f).fns = s.fns := rfl
@[simp] theorem State.updCtx_funcJob (s : State) (cx : Nat) (f : Ctx → Ctx) : (s.updCtx cx f).funcJob = s.funcJob := rfl
@[simp] theorem State.updCtx_sems (s : State) (cx : Nat) (f : Ctx → Ctx) : (s.updCtx cx f).sems = s.sems := rfl
@[simp] theorem State.updCtx_tie (s : State) (cx : Nat) (f : Ctx → Ctx) : (s.updCtx cx f).tie = s.tie := rfl
@[simp] theorem State.updCtx_irqs (s : State) (cx : Nat) (f : Ctx → Ctx) : (s.updCtx cx f).irqs = s.irqs := rfl
@[simp] theorem State.updCtx_completions (s : State) (cx : Nat) (f : Ctx → Ctx) : (s.updCtx cx f).completions = s.completions := rfl
@[simp] theorem State.updCtx_linkUp (s : State) (cx : Nat) (f : Ctx → Ctx) : (s.updCtx cx f).linkUp = s.linkUp := rfl
@[simp] theorem State.updCtx_linkFlit (s : State) (cx : Nat) (f : Ctx → Ctx) : (s.updCtx cx f).linkFlit = s.linkFlit := rfl
@[simp] theorem State.updCtx_i3cAddr (s : State) (cx : Nat) (f : Ctx → Ctx) : (s.updCtx cx f).i3cAddr = s.i3cAddr := rfl
@[simp] theorem State.updCtx_mgmtOut (s : State) (cx : Nat) (f : Ctx → Ctx) : (s.updCtx cx f).mgmtOut = s.mgmtOut := rfl
@[simp] theorem State.updCtx_powerIrqs (s : State) (cx : Nat) (f : Ctx → Ctx) : (s.updCtx cx f).powerIrqs = s.powerIrqs := rfl
@[simp] theorem State.updCtx_spdm (s : State) (cx : Nat) (f : Ctx → Ctx) : (s.updCtx cx f).spdm = s.spdm := rfl
@[simp] theorem State.updCtx_mail (s : State) (cx : Nat) (f : Ctx → Ctx) : (s.updCtx cx f).mail = s.mail := rfl
@[simp] theorem State.updCtx_keys (s : State) (cx : Nat) (f : Ctx → Ctx) : (s.updCtx cx f).keys = s.keys := rfl
@[simp] theorem State.updCtx_tamper (s : State) (cx : Nat) (f : Ctx → Ctx) : (s.updCtx cx f).tamper = s.tamper := rfl
@[simp] theorem State.updCtx_seals (s : State) (cx : Nat) (f : Ctx → Ctx) : (s.updCtx cx f).seals = s.seals := rfl
@[simp] theorem State.updCtx_wear (s : State) (cx : Nat) (f : Ctx → Ctx) : (s.updCtx cx f).wear = s.wear := rfl
@[simp] theorem State.updCtx_ports (s : State) (cx : Nat) (f : Ctx → Ctx) : (s.updCtx cx f).ports = s.ports := rfl
@[simp] theorem State.updCtx_outReqs (s : State) (cx : Nat) (f : Ctx → Ctx) : (s.updCtx cx f).outReqs = s.outReqs := rfl
@[simp] theorem State.updCtx_seqs (s : State) (cx : Nat) (f : Ctx → Ctx) : (s.updCtx cx f).seqs = s.seqs := rfl
@[simp] theorem State.updCtx_applied (s : State) (cx : Nat) (f : Ctx → Ctx) : (s.updCtx cx f).applied = s.applied := rfl
@[simp] theorem State.updCtx_replies (s : State) (cx : Nat) (f : Ctx → Ctx) : (s.updCtx cx f).replies = s.replies := rfl
@[simp] theorem State.updCtx_repliesDue (s : State) (cx : Nat) (f : Ctx → Ctx) : (s.updCtx cx f).repliesDue = s.repliesDue := rfl
@[simp] theorem State.updCtx_lostLinks (s : State) (cx : Nat) (f : Ctx → Ctx) : (s.updCtx cx f).lostLinks = s.lostLinks := rfl
@[simp] theorem State.updCtx_acct (s : State) (cx : Nat) (f : Ctx → Ctx) : (s.updCtx cx f).acct = s.acct := rfl
@[simp] theorem State.updCtx_energyRem (s : State) (cx : Nat) (f : Ctx → Ctx) : (s.updCtx cx f).energyRem = s.energyRem := rfl
@[simp] theorem State.updCtx_held (s : State) (cx : Nat) (f : Ctx → Ctx) : (s.updCtx cx f).held = s.held := rfl
@[simp] theorem State.updCtx_idleEnergy (s : State) (cx : Nat) (f : Ctx → Ctx) : (s.updCtx cx f).idleEnergy = s.idleEnergy := rfl
@[simp] theorem State.updCtx_nightdly (s : State) (cx : Nat) (f : Ctx → Ctx) : (s.updCtx cx f).nightdly = s.nightdly := rfl
@[simp] theorem State.updCtx_govmode (s : State) (cx : Nat) (f : Ctx → Ctx) : (s.updCtx cx f).govmode = s.govmode := rfl
@[simp] theorem State.updCtx_updPend (s : State) (cx : Nat) (f : Ctx → Ctx) : (s.updCtx cx f).updPend = s.updPend := rfl
@[simp] theorem State.updCtx_lastKick (s : State) (cx : Nat) (f : Ctx → Ctx) : (s.updCtx cx f).lastKick = s.lastKick := rfl
@[simp] theorem State.updCtx_boot (s : State) (cx : Nat) (f : Ctx → Ctx) : (s.updCtx cx f).boot = s.boot := rfl
@[simp] theorem State.updCtx_image (s : State) (cx : Nat) (f : Ctx → Ctx) : (s.updCtx cx f).image = s.image := rfl
@[simp] theorem State.updCtx_free (s : State) (cx : Nat) (f : Ctx → Ctx) : (s.updCtx cx f).free = s.free := rfl
@[simp] theorem State.updCtx_nextId (s : State) (cx : Nat) (f : Ctx → Ctx) : (s.updCtx cx f).nextId = s.nextId := rfl

/-! ### updCore changes `cores` alone -/

@[simp] theorem State.updCore_clock (s : State) (k : Nat) (f : Core → Core) : (s.updCore k f).clock = s.clock := rfl
@[simp] theorem State.updCore_inputs (s : State) (k : Nat) (f : Core → Core) : (s.updCore k f).inputs = s.inputs := rfl
@[simp] theorem State.updCore_agenda (s : State) (k : Nat) (f : Core → Core) : (s.updCore k f).agenda = s.agenda := rfl
@[simp] theorem State.updCore_iss (s : State) (k : Nat) (f : Core → Core) : (s.updCore k f).iss = s.iss := rfl
@[simp] theorem State.updCore_mem (s : State) (k : Nat) (f : Core → Core) : (s.updCore k f).mem = s.mem := rfl
@[simp] theorem State.updCore_full (s : State) (k : Nat) (f : Core → Core) : (s.updCore k f).full = s.full := rfl
@[simp] theorem State.updCore_loc (s : State) (k : Nat) (f : Core → Core) : (s.updCore k f).loc = s.loc := rfl
@[simp] theorem State.updCore_locFull (s : State) (k : Nat) (f : Core → Core) : (s.updCore k f).locFull = s.locFull := rfl
@[simp] theorem State.updCore_host0 (s : State) (k : Nat) (f : Core → Core) : (s.updCore k f).host0 = s.host0 := rfl
@[simp] theorem State.updCore_host1 (s : State) (k : Nat) (f : Core → Core) : (s.updCore k f).host1 = s.host1 := rfl
@[simp] theorem State.updCore_bad (s : State) (k : Nat) (f : Core → Core) : (s.updCore k f).bad = s.bad := rfl
@[simp] theorem State.updCore_locBad (s : State) (k : Nat) (f : Core → Core) : (s.updCore k f).locBad = s.locBad := rfl
@[simp] theorem State.updCore_ctxs (s : State) (k : Nat) (f : Core → Core) : (s.updCore k f).ctxs = s.ctxs := rfl
@[simp] theorem State.updCore_clusters (s : State) (k : Nat) (f : Core → Core) : (s.updCore k f).clusters = s.clusters := rfl
@[simp] theorem State.updCore_dies (s : State) (k : Nat) (f : Core → Core) : (s.updCore k f).dies = s.dies := rfl
@[simp] theorem State.updCore_therm (s : State) (k : Nat) (f : Core → Core) : (s.updCore k f).therm = s.therm := rfl
@[simp] theorem State.updCore_tasks (s : State) (k : Nat) (f : Core → Core) : (s.updCore k f).tasks = s.tasks := rfl
@[simp] theorem State.updCore_records (s : State) (k : Nat) (f : Core → Core) : (s.updCore k f).records = s.records := rfl
@[simp] theorem State.updCore_cmds (s : State) (k : Nat) (f : Core → Core) : (s.updCore k f).cmds = s.cmds := rfl
@[simp] theorem State.updCore_reds (s : State) (k : Nat) (f : Core → Core) : (s.updCore k f).reds = s.reds := rfl
@[simp] theorem State.updCore_mix (s : State) (k : Nat) (f : Core → Core) : (s.updCore k f).mix = s.mix := rfl
@[simp] theorem State.updCore_fns (s : State) (k : Nat) (f : Core → Core) : (s.updCore k f).fns = s.fns := rfl
@[simp] theorem State.updCore_funcJob (s : State) (k : Nat) (f : Core → Core) : (s.updCore k f).funcJob = s.funcJob := rfl
@[simp] theorem State.updCore_sems (s : State) (k : Nat) (f : Core → Core) : (s.updCore k f).sems = s.sems := rfl
@[simp] theorem State.updCore_tie (s : State) (k : Nat) (f : Core → Core) : (s.updCore k f).tie = s.tie := rfl
@[simp] theorem State.updCore_irqs (s : State) (k : Nat) (f : Core → Core) : (s.updCore k f).irqs = s.irqs := rfl
@[simp] theorem State.updCore_completions (s : State) (k : Nat) (f : Core → Core) : (s.updCore k f).completions = s.completions := rfl
@[simp] theorem State.updCore_linkUp (s : State) (k : Nat) (f : Core → Core) : (s.updCore k f).linkUp = s.linkUp := rfl
@[simp] theorem State.updCore_linkFlit (s : State) (k : Nat) (f : Core → Core) : (s.updCore k f).linkFlit = s.linkFlit := rfl
@[simp] theorem State.updCore_i3cAddr (s : State) (k : Nat) (f : Core → Core) : (s.updCore k f).i3cAddr = s.i3cAddr := rfl
@[simp] theorem State.updCore_mgmtOut (s : State) (k : Nat) (f : Core → Core) : (s.updCore k f).mgmtOut = s.mgmtOut := rfl
@[simp] theorem State.updCore_powerIrqs (s : State) (k : Nat) (f : Core → Core) : (s.updCore k f).powerIrqs = s.powerIrqs := rfl
@[simp] theorem State.updCore_spdm (s : State) (k : Nat) (f : Core → Core) : (s.updCore k f).spdm = s.spdm := rfl
@[simp] theorem State.updCore_mail (s : State) (k : Nat) (f : Core → Core) : (s.updCore k f).mail = s.mail := rfl
@[simp] theorem State.updCore_keys (s : State) (k : Nat) (f : Core → Core) : (s.updCore k f).keys = s.keys := rfl
@[simp] theorem State.updCore_tamper (s : State) (k : Nat) (f : Core → Core) : (s.updCore k f).tamper = s.tamper := rfl
@[simp] theorem State.updCore_seals (s : State) (k : Nat) (f : Core → Core) : (s.updCore k f).seals = s.seals := rfl
@[simp] theorem State.updCore_wear (s : State) (k : Nat) (f : Core → Core) : (s.updCore k f).wear = s.wear := rfl
@[simp] theorem State.updCore_ports (s : State) (k : Nat) (f : Core → Core) : (s.updCore k f).ports = s.ports := rfl
@[simp] theorem State.updCore_outReqs (s : State) (k : Nat) (f : Core → Core) : (s.updCore k f).outReqs = s.outReqs := rfl
@[simp] theorem State.updCore_seqs (s : State) (k : Nat) (f : Core → Core) : (s.updCore k f).seqs = s.seqs := rfl
@[simp] theorem State.updCore_applied (s : State) (k : Nat) (f : Core → Core) : (s.updCore k f).applied = s.applied := rfl
@[simp] theorem State.updCore_replies (s : State) (k : Nat) (f : Core → Core) : (s.updCore k f).replies = s.replies := rfl
@[simp] theorem State.updCore_repliesDue (s : State) (k : Nat) (f : Core → Core) : (s.updCore k f).repliesDue = s.repliesDue := rfl
@[simp] theorem State.updCore_lostLinks (s : State) (k : Nat) (f : Core → Core) : (s.updCore k f).lostLinks = s.lostLinks := rfl
@[simp] theorem State.updCore_acct (s : State) (k : Nat) (f : Core → Core) : (s.updCore k f).acct = s.acct := rfl
@[simp] theorem State.updCore_energyRem (s : State) (k : Nat) (f : Core → Core) : (s.updCore k f).energyRem = s.energyRem := rfl
@[simp] theorem State.updCore_held (s : State) (k : Nat) (f : Core → Core) : (s.updCore k f).held = s.held := rfl
@[simp] theorem State.updCore_idleEnergy (s : State) (k : Nat) (f : Core → Core) : (s.updCore k f).idleEnergy = s.idleEnergy := rfl
@[simp] theorem State.updCore_nightdly (s : State) (k : Nat) (f : Core → Core) : (s.updCore k f).nightdly = s.nightdly := rfl
@[simp] theorem State.updCore_govmode (s : State) (k : Nat) (f : Core → Core) : (s.updCore k f).govmode = s.govmode := rfl
@[simp] theorem State.updCore_updPend (s : State) (k : Nat) (f : Core → Core) : (s.updCore k f).updPend = s.updPend := rfl
@[simp] theorem State.updCore_lastKick (s : State) (k : Nat) (f : Core → Core) : (s.updCore k f).lastKick = s.lastKick := rfl
@[simp] theorem State.updCore_boot (s : State) (k : Nat) (f : Core → Core) : (s.updCore k f).boot = s.boot := rfl
@[simp] theorem State.updCore_image (s : State) (k : Nat) (f : Core → Core) : (s.updCore k f).image = s.image := rfl
@[simp] theorem State.updCore_free (s : State) (k : Nat) (f : Core → Core) : (s.updCore k f).free = s.free := rfl
@[simp] theorem State.updCore_nextId (s : State) (k : Nat) (f : Core → Core) : (s.updCore k f).nextId = s.nextId := rfl

/-! ### updCluster changes `clusters` alone -/

@[simp] theorem State.updCluster_clock (s : State) (k : Nat) (f : Cluster → Cluster) : (s.updCluster k f).clock = s.clock := rfl
@[simp] theorem State.updCluster_inputs (s : State) (k : Nat) (f : Cluster → Cluster) : (s.updCluster k f).inputs = s.inputs := rfl
@[simp] theorem State.updCluster_agenda (s : State) (k : Nat) (f : Cluster → Cluster) : (s.updCluster k f).agenda = s.agenda := rfl
@[simp] theorem State.updCluster_iss (s : State) (k : Nat) (f : Cluster → Cluster) : (s.updCluster k f).iss = s.iss := rfl
@[simp] theorem State.updCluster_mem (s : State) (k : Nat) (f : Cluster → Cluster) : (s.updCluster k f).mem = s.mem := rfl
@[simp] theorem State.updCluster_full (s : State) (k : Nat) (f : Cluster → Cluster) : (s.updCluster k f).full = s.full := rfl
@[simp] theorem State.updCluster_loc (s : State) (k : Nat) (f : Cluster → Cluster) : (s.updCluster k f).loc = s.loc := rfl
@[simp] theorem State.updCluster_locFull (s : State) (k : Nat) (f : Cluster → Cluster) : (s.updCluster k f).locFull = s.locFull := rfl
@[simp] theorem State.updCluster_host0 (s : State) (k : Nat) (f : Cluster → Cluster) : (s.updCluster k f).host0 = s.host0 := rfl
@[simp] theorem State.updCluster_host1 (s : State) (k : Nat) (f : Cluster → Cluster) : (s.updCluster k f).host1 = s.host1 := rfl
@[simp] theorem State.updCluster_bad (s : State) (k : Nat) (f : Cluster → Cluster) : (s.updCluster k f).bad = s.bad := rfl
@[simp] theorem State.updCluster_locBad (s : State) (k : Nat) (f : Cluster → Cluster) : (s.updCluster k f).locBad = s.locBad := rfl
@[simp] theorem State.updCluster_ctxs (s : State) (k : Nat) (f : Cluster → Cluster) : (s.updCluster k f).ctxs = s.ctxs := rfl
@[simp] theorem State.updCluster_cores (s : State) (k : Nat) (f : Cluster → Cluster) : (s.updCluster k f).cores = s.cores := rfl
@[simp] theorem State.updCluster_dies (s : State) (k : Nat) (f : Cluster → Cluster) : (s.updCluster k f).dies = s.dies := rfl
@[simp] theorem State.updCluster_therm (s : State) (k : Nat) (f : Cluster → Cluster) : (s.updCluster k f).therm = s.therm := rfl
@[simp] theorem State.updCluster_tasks (s : State) (k : Nat) (f : Cluster → Cluster) : (s.updCluster k f).tasks = s.tasks := rfl
@[simp] theorem State.updCluster_records (s : State) (k : Nat) (f : Cluster → Cluster) : (s.updCluster k f).records = s.records := rfl
@[simp] theorem State.updCluster_cmds (s : State) (k : Nat) (f : Cluster → Cluster) : (s.updCluster k f).cmds = s.cmds := rfl
@[simp] theorem State.updCluster_reds (s : State) (k : Nat) (f : Cluster → Cluster) : (s.updCluster k f).reds = s.reds := rfl
@[simp] theorem State.updCluster_mix (s : State) (k : Nat) (f : Cluster → Cluster) : (s.updCluster k f).mix = s.mix := rfl
@[simp] theorem State.updCluster_fns (s : State) (k : Nat) (f : Cluster → Cluster) : (s.updCluster k f).fns = s.fns := rfl
@[simp] theorem State.updCluster_funcJob (s : State) (k : Nat) (f : Cluster → Cluster) : (s.updCluster k f).funcJob = s.funcJob := rfl
@[simp] theorem State.updCluster_sems (s : State) (k : Nat) (f : Cluster → Cluster) : (s.updCluster k f).sems = s.sems := rfl
@[simp] theorem State.updCluster_tie (s : State) (k : Nat) (f : Cluster → Cluster) : (s.updCluster k f).tie = s.tie := rfl
@[simp] theorem State.updCluster_irqs (s : State) (k : Nat) (f : Cluster → Cluster) : (s.updCluster k f).irqs = s.irqs := rfl
@[simp] theorem State.updCluster_completions (s : State) (k : Nat) (f : Cluster → Cluster) : (s.updCluster k f).completions = s.completions := rfl
@[simp] theorem State.updCluster_linkUp (s : State) (k : Nat) (f : Cluster → Cluster) : (s.updCluster k f).linkUp = s.linkUp := rfl
@[simp] theorem State.updCluster_linkFlit (s : State) (k : Nat) (f : Cluster → Cluster) : (s.updCluster k f).linkFlit = s.linkFlit := rfl
@[simp] theorem State.updCluster_i3cAddr (s : State) (k : Nat) (f : Cluster → Cluster) : (s.updCluster k f).i3cAddr = s.i3cAddr := rfl
@[simp] theorem State.updCluster_mgmtOut (s : State) (k : Nat) (f : Cluster → Cluster) : (s.updCluster k f).mgmtOut = s.mgmtOut := rfl
@[simp] theorem State.updCluster_powerIrqs (s : State) (k : Nat) (f : Cluster → Cluster) : (s.updCluster k f).powerIrqs = s.powerIrqs := rfl
@[simp] theorem State.updCluster_spdm (s : State) (k : Nat) (f : Cluster → Cluster) : (s.updCluster k f).spdm = s.spdm := rfl
@[simp] theorem State.updCluster_mail (s : State) (k : Nat) (f : Cluster → Cluster) : (s.updCluster k f).mail = s.mail := rfl
@[simp] theorem State.updCluster_keys (s : State) (k : Nat) (f : Cluster → Cluster) : (s.updCluster k f).keys = s.keys := rfl
@[simp] theorem State.updCluster_tamper (s : State) (k : Nat) (f : Cluster → Cluster) : (s.updCluster k f).tamper = s.tamper := rfl
@[simp] theorem State.updCluster_seals (s : State) (k : Nat) (f : Cluster → Cluster) : (s.updCluster k f).seals = s.seals := rfl
@[simp] theorem State.updCluster_wear (s : State) (k : Nat) (f : Cluster → Cluster) : (s.updCluster k f).wear = s.wear := rfl
@[simp] theorem State.updCluster_ports (s : State) (k : Nat) (f : Cluster → Cluster) : (s.updCluster k f).ports = s.ports := rfl
@[simp] theorem State.updCluster_outReqs (s : State) (k : Nat) (f : Cluster → Cluster) : (s.updCluster k f).outReqs = s.outReqs := rfl
@[simp] theorem State.updCluster_seqs (s : State) (k : Nat) (f : Cluster → Cluster) : (s.updCluster k f).seqs = s.seqs := rfl
@[simp] theorem State.updCluster_applied (s : State) (k : Nat) (f : Cluster → Cluster) : (s.updCluster k f).applied = s.applied := rfl
@[simp] theorem State.updCluster_replies (s : State) (k : Nat) (f : Cluster → Cluster) : (s.updCluster k f).replies = s.replies := rfl
@[simp] theorem State.updCluster_repliesDue (s : State) (k : Nat) (f : Cluster → Cluster) : (s.updCluster k f).repliesDue = s.repliesDue := rfl
@[simp] theorem State.updCluster_lostLinks (s : State) (k : Nat) (f : Cluster → Cluster) : (s.updCluster k f).lostLinks = s.lostLinks := rfl
@[simp] theorem State.updCluster_acct (s : State) (k : Nat) (f : Cluster → Cluster) : (s.updCluster k f).acct = s.acct := rfl
@[simp] theorem State.updCluster_energyRem (s : State) (k : Nat) (f : Cluster → Cluster) : (s.updCluster k f).energyRem = s.energyRem := rfl
@[simp] theorem State.updCluster_held (s : State) (k : Nat) (f : Cluster → Cluster) : (s.updCluster k f).held = s.held := rfl
@[simp] theorem State.updCluster_idleEnergy (s : State) (k : Nat) (f : Cluster → Cluster) : (s.updCluster k f).idleEnergy = s.idleEnergy := rfl
@[simp] theorem State.updCluster_nightdly (s : State) (k : Nat) (f : Cluster → Cluster) : (s.updCluster k f).nightdly = s.nightdly := rfl
@[simp] theorem State.updCluster_govmode (s : State) (k : Nat) (f : Cluster → Cluster) : (s.updCluster k f).govmode = s.govmode := rfl
@[simp] theorem State.updCluster_updPend (s : State) (k : Nat) (f : Cluster → Cluster) : (s.updCluster k f).updPend = s.updPend := rfl
@[simp] theorem State.updCluster_lastKick (s : State) (k : Nat) (f : Cluster → Cluster) : (s.updCluster k f).lastKick = s.lastKick := rfl
@[simp] theorem State.updCluster_boot (s : State) (k : Nat) (f : Cluster → Cluster) : (s.updCluster k f).boot = s.boot := rfl
@[simp] theorem State.updCluster_image (s : State) (k : Nat) (f : Cluster → Cluster) : (s.updCluster k f).image = s.image := rfl
@[simp] theorem State.updCluster_free (s : State) (k : Nat) (f : Cluster → Cluster) : (s.updCluster k f).free = s.free := rfl
@[simp] theorem State.updCluster_nextId (s : State) (k : Nat) (f : Cluster → Cluster) : (s.updCluster k f).nextId = s.nextId := rfl

/-! ### updDie changes `dies` alone -/

@[simp] theorem State.updDie_clock (s : State) (d : Nat) (f : Die → Die) : (s.updDie d f).clock = s.clock := rfl
@[simp] theorem State.updDie_inputs (s : State) (d : Nat) (f : Die → Die) : (s.updDie d f).inputs = s.inputs := rfl
@[simp] theorem State.updDie_agenda (s : State) (d : Nat) (f : Die → Die) : (s.updDie d f).agenda = s.agenda := rfl
@[simp] theorem State.updDie_iss (s : State) (d : Nat) (f : Die → Die) : (s.updDie d f).iss = s.iss := rfl
@[simp] theorem State.updDie_mem (s : State) (d : Nat) (f : Die → Die) : (s.updDie d f).mem = s.mem := rfl
@[simp] theorem State.updDie_full (s : State) (d : Nat) (f : Die → Die) : (s.updDie d f).full = s.full := rfl
@[simp] theorem State.updDie_loc (s : State) (d : Nat) (f : Die → Die) : (s.updDie d f).loc = s.loc := rfl
@[simp] theorem State.updDie_locFull (s : State) (d : Nat) (f : Die → Die) : (s.updDie d f).locFull = s.locFull := rfl
@[simp] theorem State.updDie_host0 (s : State) (d : Nat) (f : Die → Die) : (s.updDie d f).host0 = s.host0 := rfl
@[simp] theorem State.updDie_host1 (s : State) (d : Nat) (f : Die → Die) : (s.updDie d f).host1 = s.host1 := rfl
@[simp] theorem State.updDie_bad (s : State) (d : Nat) (f : Die → Die) : (s.updDie d f).bad = s.bad := rfl
@[simp] theorem State.updDie_locBad (s : State) (d : Nat) (f : Die → Die) : (s.updDie d f).locBad = s.locBad := rfl
@[simp] theorem State.updDie_ctxs (s : State) (d : Nat) (f : Die → Die) : (s.updDie d f).ctxs = s.ctxs := rfl
@[simp] theorem State.updDie_cores (s : State) (d : Nat) (f : Die → Die) : (s.updDie d f).cores = s.cores := rfl
@[simp] theorem State.updDie_clusters (s : State) (d : Nat) (f : Die → Die) : (s.updDie d f).clusters = s.clusters := rfl
@[simp] theorem State.updDie_therm (s : State) (d : Nat) (f : Die → Die) : (s.updDie d f).therm = s.therm := rfl
@[simp] theorem State.updDie_tasks (s : State) (d : Nat) (f : Die → Die) : (s.updDie d f).tasks = s.tasks := rfl
@[simp] theorem State.updDie_records (s : State) (d : Nat) (f : Die → Die) : (s.updDie d f).records = s.records := rfl
@[simp] theorem State.updDie_cmds (s : State) (d : Nat) (f : Die → Die) : (s.updDie d f).cmds = s.cmds := rfl
@[simp] theorem State.updDie_reds (s : State) (d : Nat) (f : Die → Die) : (s.updDie d f).reds = s.reds := rfl
@[simp] theorem State.updDie_mix (s : State) (d : Nat) (f : Die → Die) : (s.updDie d f).mix = s.mix := rfl
@[simp] theorem State.updDie_fns (s : State) (d : Nat) (f : Die → Die) : (s.updDie d f).fns = s.fns := rfl
@[simp] theorem State.updDie_funcJob (s : State) (d : Nat) (f : Die → Die) : (s.updDie d f).funcJob = s.funcJob := rfl
@[simp] theorem State.updDie_sems (s : State) (d : Nat) (f : Die → Die) : (s.updDie d f).sems = s.sems := rfl
@[simp] theorem State.updDie_tie (s : State) (d : Nat) (f : Die → Die) : (s.updDie d f).tie = s.tie := rfl
@[simp] theorem State.updDie_irqs (s : State) (d : Nat) (f : Die → Die) : (s.updDie d f).irqs = s.irqs := rfl
@[simp] theorem State.updDie_completions (s : State) (d : Nat) (f : Die → Die) : (s.updDie d f).completions = s.completions := rfl
@[simp] theorem State.updDie_linkUp (s : State) (d : Nat) (f : Die → Die) : (s.updDie d f).linkUp = s.linkUp := rfl
@[simp] theorem State.updDie_linkFlit (s : State) (d : Nat) (f : Die → Die) : (s.updDie d f).linkFlit = s.linkFlit := rfl
@[simp] theorem State.updDie_i3cAddr (s : State) (d : Nat) (f : Die → Die) : (s.updDie d f).i3cAddr = s.i3cAddr := rfl
@[simp] theorem State.updDie_mgmtOut (s : State) (d : Nat) (f : Die → Die) : (s.updDie d f).mgmtOut = s.mgmtOut := rfl
@[simp] theorem State.updDie_powerIrqs (s : State) (d : Nat) (f : Die → Die) : (s.updDie d f).powerIrqs = s.powerIrqs := rfl
@[simp] theorem State.updDie_spdm (s : State) (d : Nat) (f : Die → Die) : (s.updDie d f).spdm = s.spdm := rfl
@[simp] theorem State.updDie_mail (s : State) (d : Nat) (f : Die → Die) : (s.updDie d f).mail = s.mail := rfl
@[simp] theorem State.updDie_keys (s : State) (d : Nat) (f : Die → Die) : (s.updDie d f).keys = s.keys := rfl
@[simp] theorem State.updDie_tamper (s : State) (d : Nat) (f : Die → Die) : (s.updDie d f).tamper = s.tamper := rfl
@[simp] theorem State.updDie_seals (s : State) (d : Nat) (f : Die → Die) : (s.updDie d f).seals = s.seals := rfl
@[simp] theorem State.updDie_wear (s : State) (d : Nat) (f : Die → Die) : (s.updDie d f).wear = s.wear := rfl
@[simp] theorem State.updDie_ports (s : State) (d : Nat) (f : Die → Die) : (s.updDie d f).ports = s.ports := rfl
@[simp] theorem State.updDie_outReqs (s : State) (d : Nat) (f : Die → Die) : (s.updDie d f).outReqs = s.outReqs := rfl
@[simp] theorem State.updDie_seqs (s : State) (d : Nat) (f : Die → Die) : (s.updDie d f).seqs = s.seqs := rfl
@[simp] theorem State.updDie_applied (s : State) (d : Nat) (f : Die → Die) : (s.updDie d f).applied = s.applied := rfl
@[simp] theorem State.updDie_replies (s : State) (d : Nat) (f : Die → Die) : (s.updDie d f).replies = s.replies := rfl
@[simp] theorem State.updDie_repliesDue (s : State) (d : Nat) (f : Die → Die) : (s.updDie d f).repliesDue = s.repliesDue := rfl
@[simp] theorem State.updDie_lostLinks (s : State) (d : Nat) (f : Die → Die) : (s.updDie d f).lostLinks = s.lostLinks := rfl
@[simp] theorem State.updDie_acct (s : State) (d : Nat) (f : Die → Die) : (s.updDie d f).acct = s.acct := rfl
@[simp] theorem State.updDie_energyRem (s : State) (d : Nat) (f : Die → Die) : (s.updDie d f).energyRem = s.energyRem := rfl
@[simp] theorem State.updDie_held (s : State) (d : Nat) (f : Die → Die) : (s.updDie d f).held = s.held := rfl
@[simp] theorem State.updDie_idleEnergy (s : State) (d : Nat) (f : Die → Die) : (s.updDie d f).idleEnergy = s.idleEnergy := rfl
@[simp] theorem State.updDie_nightdly (s : State) (d : Nat) (f : Die → Die) : (s.updDie d f).nightdly = s.nightdly := rfl
@[simp] theorem State.updDie_govmode (s : State) (d : Nat) (f : Die → Die) : (s.updDie d f).govmode = s.govmode := rfl
@[simp] theorem State.updDie_updPend (s : State) (d : Nat) (f : Die → Die) : (s.updDie d f).updPend = s.updPend := rfl
@[simp] theorem State.updDie_lastKick (s : State) (d : Nat) (f : Die → Die) : (s.updDie d f).lastKick = s.lastKick := rfl
@[simp] theorem State.updDie_boot (s : State) (d : Nat) (f : Die → Die) : (s.updDie d f).boot = s.boot := rfl
@[simp] theorem State.updDie_image (s : State) (d : Nat) (f : Die → Die) : (s.updDie d f).image = s.image := rfl
@[simp] theorem State.updDie_free (s : State) (d : Nat) (f : Die → Die) : (s.updDie d f).free = s.free := rfl
@[simp] theorem State.updDie_nextId (s : State) (d : Nat) (f : Die → Die) : (s.updDie d f).nextId = s.nextId := rfl

/-! ### updIss changes `iss` alone -/

@[simp] theorem State.updIss_clock (s : State) (f : Issue → Issue) : (s.updIss f).clock = s.clock := rfl
@[simp] theorem State.updIss_inputs (s : State) (f : Issue → Issue) : (s.updIss f).inputs = s.inputs := rfl
@[simp] theorem State.updIss_agenda (s : State) (f : Issue → Issue) : (s.updIss f).agenda = s.agenda := rfl
@[simp] theorem State.updIss_mem (s : State) (f : Issue → Issue) : (s.updIss f).mem = s.mem := rfl
@[simp] theorem State.updIss_full (s : State) (f : Issue → Issue) : (s.updIss f).full = s.full := rfl
@[simp] theorem State.updIss_loc (s : State) (f : Issue → Issue) : (s.updIss f).loc = s.loc := rfl
@[simp] theorem State.updIss_locFull (s : State) (f : Issue → Issue) : (s.updIss f).locFull = s.locFull := rfl
@[simp] theorem State.updIss_host0 (s : State) (f : Issue → Issue) : (s.updIss f).host0 = s.host0 := rfl
@[simp] theorem State.updIss_host1 (s : State) (f : Issue → Issue) : (s.updIss f).host1 = s.host1 := rfl
@[simp] theorem State.updIss_bad (s : State) (f : Issue → Issue) : (s.updIss f).bad = s.bad := rfl
@[simp] theorem State.updIss_locBad (s : State) (f : Issue → Issue) : (s.updIss f).locBad = s.locBad := rfl
@[simp] theorem State.updIss_ctxs (s : State) (f : Issue → Issue) : (s.updIss f).ctxs = s.ctxs := rfl
@[simp] theorem State.updIss_cores (s : State) (f : Issue → Issue) : (s.updIss f).cores = s.cores := rfl
@[simp] theorem State.updIss_clusters (s : State) (f : Issue → Issue) : (s.updIss f).clusters = s.clusters := rfl
@[simp] theorem State.updIss_dies (s : State) (f : Issue → Issue) : (s.updIss f).dies = s.dies := rfl
@[simp] theorem State.updIss_therm (s : State) (f : Issue → Issue) : (s.updIss f).therm = s.therm := rfl
@[simp] theorem State.updIss_tasks (s : State) (f : Issue → Issue) : (s.updIss f).tasks = s.tasks := rfl
@[simp] theorem State.updIss_records (s : State) (f : Issue → Issue) : (s.updIss f).records = s.records := rfl
@[simp] theorem State.updIss_cmds (s : State) (f : Issue → Issue) : (s.updIss f).cmds = s.cmds := rfl
@[simp] theorem State.updIss_reds (s : State) (f : Issue → Issue) : (s.updIss f).reds = s.reds := rfl
@[simp] theorem State.updIss_mix (s : State) (f : Issue → Issue) : (s.updIss f).mix = s.mix := rfl
@[simp] theorem State.updIss_fns (s : State) (f : Issue → Issue) : (s.updIss f).fns = s.fns := rfl
@[simp] theorem State.updIss_funcJob (s : State) (f : Issue → Issue) : (s.updIss f).funcJob = s.funcJob := rfl
@[simp] theorem State.updIss_sems (s : State) (f : Issue → Issue) : (s.updIss f).sems = s.sems := rfl
@[simp] theorem State.updIss_tie (s : State) (f : Issue → Issue) : (s.updIss f).tie = s.tie := rfl
@[simp] theorem State.updIss_irqs (s : State) (f : Issue → Issue) : (s.updIss f).irqs = s.irqs := rfl
@[simp] theorem State.updIss_completions (s : State) (f : Issue → Issue) : (s.updIss f).completions = s.completions := rfl
@[simp] theorem State.updIss_linkUp (s : State) (f : Issue → Issue) : (s.updIss f).linkUp = s.linkUp := rfl
@[simp] theorem State.updIss_linkFlit (s : State) (f : Issue → Issue) : (s.updIss f).linkFlit = s.linkFlit := rfl
@[simp] theorem State.updIss_i3cAddr (s : State) (f : Issue → Issue) : (s.updIss f).i3cAddr = s.i3cAddr := rfl
@[simp] theorem State.updIss_mgmtOut (s : State) (f : Issue → Issue) : (s.updIss f).mgmtOut = s.mgmtOut := rfl
@[simp] theorem State.updIss_powerIrqs (s : State) (f : Issue → Issue) : (s.updIss f).powerIrqs = s.powerIrqs := rfl
@[simp] theorem State.updIss_spdm (s : State) (f : Issue → Issue) : (s.updIss f).spdm = s.spdm := rfl
@[simp] theorem State.updIss_mail (s : State) (f : Issue → Issue) : (s.updIss f).mail = s.mail := rfl
@[simp] theorem State.updIss_keys (s : State) (f : Issue → Issue) : (s.updIss f).keys = s.keys := rfl
@[simp] theorem State.updIss_tamper (s : State) (f : Issue → Issue) : (s.updIss f).tamper = s.tamper := rfl
@[simp] theorem State.updIss_seals (s : State) (f : Issue → Issue) : (s.updIss f).seals = s.seals := rfl
@[simp] theorem State.updIss_wear (s : State) (f : Issue → Issue) : (s.updIss f).wear = s.wear := rfl
@[simp] theorem State.updIss_ports (s : State) (f : Issue → Issue) : (s.updIss f).ports = s.ports := rfl
@[simp] theorem State.updIss_outReqs (s : State) (f : Issue → Issue) : (s.updIss f).outReqs = s.outReqs := rfl
@[simp] theorem State.updIss_seqs (s : State) (f : Issue → Issue) : (s.updIss f).seqs = s.seqs := rfl
@[simp] theorem State.updIss_applied (s : State) (f : Issue → Issue) : (s.updIss f).applied = s.applied := rfl
@[simp] theorem State.updIss_replies (s : State) (f : Issue → Issue) : (s.updIss f).replies = s.replies := rfl
@[simp] theorem State.updIss_repliesDue (s : State) (f : Issue → Issue) : (s.updIss f).repliesDue = s.repliesDue := rfl
@[simp] theorem State.updIss_lostLinks (s : State) (f : Issue → Issue) : (s.updIss f).lostLinks = s.lostLinks := rfl
@[simp] theorem State.updIss_acct (s : State) (f : Issue → Issue) : (s.updIss f).acct = s.acct := rfl
@[simp] theorem State.updIss_energyRem (s : State) (f : Issue → Issue) : (s.updIss f).energyRem = s.energyRem := rfl
@[simp] theorem State.updIss_held (s : State) (f : Issue → Issue) : (s.updIss f).held = s.held := rfl
@[simp] theorem State.updIss_idleEnergy (s : State) (f : Issue → Issue) : (s.updIss f).idleEnergy = s.idleEnergy := rfl
@[simp] theorem State.updIss_nightdly (s : State) (f : Issue → Issue) : (s.updIss f).nightdly = s.nightdly := rfl
@[simp] theorem State.updIss_govmode (s : State) (f : Issue → Issue) : (s.updIss f).govmode = s.govmode := rfl
@[simp] theorem State.updIss_updPend (s : State) (f : Issue → Issue) : (s.updIss f).updPend = s.updPend := rfl
@[simp] theorem State.updIss_lastKick (s : State) (f : Issue → Issue) : (s.updIss f).lastKick = s.lastKick := rfl
@[simp] theorem State.updIss_boot (s : State) (f : Issue → Issue) : (s.updIss f).boot = s.boot := rfl
@[simp] theorem State.updIss_image (s : State) (f : Issue → Issue) : (s.updIss f).image = s.image := rfl
@[simp] theorem State.updIss_free (s : State) (f : Issue → Issue) : (s.updIss f).free = s.free := rfl
@[simp] theorem State.updIss_nextId (s : State) (f : Issue → Issue) : (s.updIss f).nextId = s.nextId := rfl

/-! ### upd changes `ctxs` alone -/

@[simp] theorem State.upd_clock (s : State) (f : Ctx → Ctx) : (s.upd f).clock = s.clock := rfl
@[simp] theorem State.upd_inputs (s : State) (f : Ctx → Ctx) : (s.upd f).inputs = s.inputs := rfl
@[simp] theorem State.upd_agenda (s : State) (f : Ctx → Ctx) : (s.upd f).agenda = s.agenda := rfl
@[simp] theorem State.upd_iss (s : State) (f : Ctx → Ctx) : (s.upd f).iss = s.iss := rfl
@[simp] theorem State.upd_mem (s : State) (f : Ctx → Ctx) : (s.upd f).mem = s.mem := rfl
@[simp] theorem State.upd_full (s : State) (f : Ctx → Ctx) : (s.upd f).full = s.full := rfl
@[simp] theorem State.upd_loc (s : State) (f : Ctx → Ctx) : (s.upd f).loc = s.loc := rfl
@[simp] theorem State.upd_locFull (s : State) (f : Ctx → Ctx) : (s.upd f).locFull = s.locFull := rfl
@[simp] theorem State.upd_host0 (s : State) (f : Ctx → Ctx) : (s.upd f).host0 = s.host0 := rfl
@[simp] theorem State.upd_host1 (s : State) (f : Ctx → Ctx) : (s.upd f).host1 = s.host1 := rfl
@[simp] theorem State.upd_bad (s : State) (f : Ctx → Ctx) : (s.upd f).bad = s.bad := rfl
@[simp] theorem State.upd_locBad (s : State) (f : Ctx → Ctx) : (s.upd f).locBad = s.locBad := rfl
@[simp] theorem State.upd_cores (s : State) (f : Ctx → Ctx) : (s.upd f).cores = s.cores := rfl
@[simp] theorem State.upd_clusters (s : State) (f : Ctx → Ctx) : (s.upd f).clusters = s.clusters := rfl
@[simp] theorem State.upd_dies (s : State) (f : Ctx → Ctx) : (s.upd f).dies = s.dies := rfl
@[simp] theorem State.upd_therm (s : State) (f : Ctx → Ctx) : (s.upd f).therm = s.therm := rfl
@[simp] theorem State.upd_tasks (s : State) (f : Ctx → Ctx) : (s.upd f).tasks = s.tasks := rfl
@[simp] theorem State.upd_records (s : State) (f : Ctx → Ctx) : (s.upd f).records = s.records := rfl
@[simp] theorem State.upd_cmds (s : State) (f : Ctx → Ctx) : (s.upd f).cmds = s.cmds := rfl
@[simp] theorem State.upd_reds (s : State) (f : Ctx → Ctx) : (s.upd f).reds = s.reds := rfl
@[simp] theorem State.upd_mix (s : State) (f : Ctx → Ctx) : (s.upd f).mix = s.mix := rfl
@[simp] theorem State.upd_fns (s : State) (f : Ctx → Ctx) : (s.upd f).fns = s.fns := rfl
@[simp] theorem State.upd_funcJob (s : State) (f : Ctx → Ctx) : (s.upd f).funcJob = s.funcJob := rfl
@[simp] theorem State.upd_sems (s : State) (f : Ctx → Ctx) : (s.upd f).sems = s.sems := rfl
@[simp] theorem State.upd_tie (s : State) (f : Ctx → Ctx) : (s.upd f).tie = s.tie := rfl
@[simp] theorem State.upd_irqs (s : State) (f : Ctx → Ctx) : (s.upd f).irqs = s.irqs := rfl
@[simp] theorem State.upd_completions (s : State) (f : Ctx → Ctx) : (s.upd f).completions = s.completions := rfl
@[simp] theorem State.upd_linkUp (s : State) (f : Ctx → Ctx) : (s.upd f).linkUp = s.linkUp := rfl
@[simp] theorem State.upd_linkFlit (s : State) (f : Ctx → Ctx) : (s.upd f).linkFlit = s.linkFlit := rfl
@[simp] theorem State.upd_i3cAddr (s : State) (f : Ctx → Ctx) : (s.upd f).i3cAddr = s.i3cAddr := rfl
@[simp] theorem State.upd_mgmtOut (s : State) (f : Ctx → Ctx) : (s.upd f).mgmtOut = s.mgmtOut := rfl
@[simp] theorem State.upd_powerIrqs (s : State) (f : Ctx → Ctx) : (s.upd f).powerIrqs = s.powerIrqs := rfl
@[simp] theorem State.upd_spdm (s : State) (f : Ctx → Ctx) : (s.upd f).spdm = s.spdm := rfl
@[simp] theorem State.upd_mail (s : State) (f : Ctx → Ctx) : (s.upd f).mail = s.mail := rfl
@[simp] theorem State.upd_keys (s : State) (f : Ctx → Ctx) : (s.upd f).keys = s.keys := rfl
@[simp] theorem State.upd_tamper (s : State) (f : Ctx → Ctx) : (s.upd f).tamper = s.tamper := rfl
@[simp] theorem State.upd_seals (s : State) (f : Ctx → Ctx) : (s.upd f).seals = s.seals := rfl
@[simp] theorem State.upd_wear (s : State) (f : Ctx → Ctx) : (s.upd f).wear = s.wear := rfl
@[simp] theorem State.upd_ports (s : State) (f : Ctx → Ctx) : (s.upd f).ports = s.ports := rfl
@[simp] theorem State.upd_outReqs (s : State) (f : Ctx → Ctx) : (s.upd f).outReqs = s.outReqs := rfl
@[simp] theorem State.upd_seqs (s : State) (f : Ctx → Ctx) : (s.upd f).seqs = s.seqs := rfl
@[simp] theorem State.upd_applied (s : State) (f : Ctx → Ctx) : (s.upd f).applied = s.applied := rfl
@[simp] theorem State.upd_replies (s : State) (f : Ctx → Ctx) : (s.upd f).replies = s.replies := rfl
@[simp] theorem State.upd_repliesDue (s : State) (f : Ctx → Ctx) : (s.upd f).repliesDue = s.repliesDue := rfl
@[simp] theorem State.upd_lostLinks (s : State) (f : Ctx → Ctx) : (s.upd f).lostLinks = s.lostLinks := rfl
@[simp] theorem State.upd_acct (s : State) (f : Ctx → Ctx) : (s.upd f).acct = s.acct := rfl
@[simp] theorem State.upd_energyRem (s : State) (f : Ctx → Ctx) : (s.upd f).energyRem = s.energyRem := rfl
@[simp] theorem State.upd_held (s : State) (f : Ctx → Ctx) : (s.upd f).held = s.held := rfl
@[simp] theorem State.upd_idleEnergy (s : State) (f : Ctx → Ctx) : (s.upd f).idleEnergy = s.idleEnergy := rfl
@[simp] theorem State.upd_nightdly (s : State) (f : Ctx → Ctx) : (s.upd f).nightdly = s.nightdly := rfl
@[simp] theorem State.upd_govmode (s : State) (f : Ctx → Ctx) : (s.upd f).govmode = s.govmode := rfl
@[simp] theorem State.upd_updPend (s : State) (f : Ctx → Ctx) : (s.upd f).updPend = s.updPend := rfl
@[simp] theorem State.upd_lastKick (s : State) (f : Ctx → Ctx) : (s.upd f).lastKick = s.lastKick := rfl
@[simp] theorem State.upd_boot (s : State) (f : Ctx → Ctx) : (s.upd f).boot = s.boot := rfl
@[simp] theorem State.upd_image (s : State) (f : Ctx → Ctx) : (s.upd f).image = s.image := rfl
@[simp] theorem State.upd_free (s : State) (f : Ctx → Ctx) : (s.upd f).free = s.free := rfl
@[simp] theorem State.upd_nextId (s : State) (f : Ctx → Ctx) : (s.upd f).nextId = s.nextId := rfl

/-! ### updSt changes `ctxs` alone -/

@[simp] theorem State.updSt_clock (s : State) (f : Strand → Strand) : (s.updSt f).clock = s.clock := rfl
@[simp] theorem State.updSt_inputs (s : State) (f : Strand → Strand) : (s.updSt f).inputs = s.inputs := rfl
@[simp] theorem State.updSt_agenda (s : State) (f : Strand → Strand) : (s.updSt f).agenda = s.agenda := rfl
@[simp] theorem State.updSt_iss (s : State) (f : Strand → Strand) : (s.updSt f).iss = s.iss := rfl
@[simp] theorem State.updSt_mem (s : State) (f : Strand → Strand) : (s.updSt f).mem = s.mem := rfl
@[simp] theorem State.updSt_full (s : State) (f : Strand → Strand) : (s.updSt f).full = s.full := rfl
@[simp] theorem State.updSt_loc (s : State) (f : Strand → Strand) : (s.updSt f).loc = s.loc := rfl
@[simp] theorem State.updSt_locFull (s : State) (f : Strand → Strand) : (s.updSt f).locFull = s.locFull := rfl
@[simp] theorem State.updSt_host0 (s : State) (f : Strand → Strand) : (s.updSt f).host0 = s.host0 := rfl
@[simp] theorem State.updSt_host1 (s : State) (f : Strand → Strand) : (s.updSt f).host1 = s.host1 := rfl
@[simp] theorem State.updSt_bad (s : State) (f : Strand → Strand) : (s.updSt f).bad = s.bad := rfl
@[simp] theorem State.updSt_locBad (s : State) (f : Strand → Strand) : (s.updSt f).locBad = s.locBad := rfl
@[simp] theorem State.updSt_cores (s : State) (f : Strand → Strand) : (s.updSt f).cores = s.cores := rfl
@[simp] theorem State.updSt_clusters (s : State) (f : Strand → Strand) : (s.updSt f).clusters = s.clusters := rfl
@[simp] theorem State.updSt_dies (s : State) (f : Strand → Strand) : (s.updSt f).dies = s.dies := rfl
@[simp] theorem State.updSt_therm (s : State) (f : Strand → Strand) : (s.updSt f).therm = s.therm := rfl
@[simp] theorem State.updSt_tasks (s : State) (f : Strand → Strand) : (s.updSt f).tasks = s.tasks := rfl
@[simp] theorem State.updSt_records (s : State) (f : Strand → Strand) : (s.updSt f).records = s.records := rfl
@[simp] theorem State.updSt_cmds (s : State) (f : Strand → Strand) : (s.updSt f).cmds = s.cmds := rfl
@[simp] theorem State.updSt_reds (s : State) (f : Strand → Strand) : (s.updSt f).reds = s.reds := rfl
@[simp] theorem State.updSt_mix (s : State) (f : Strand → Strand) : (s.updSt f).mix = s.mix := rfl
@[simp] theorem State.updSt_fns (s : State) (f : Strand → Strand) : (s.updSt f).fns = s.fns := rfl
@[simp] theorem State.updSt_funcJob (s : State) (f : Strand → Strand) : (s.updSt f).funcJob = s.funcJob := rfl
@[simp] theorem State.updSt_sems (s : State) (f : Strand → Strand) : (s.updSt f).sems = s.sems := rfl
@[simp] theorem State.updSt_tie (s : State) (f : Strand → Strand) : (s.updSt f).tie = s.tie := rfl
@[simp] theorem State.updSt_irqs (s : State) (f : Strand → Strand) : (s.updSt f).irqs = s.irqs := rfl
@[simp] theorem State.updSt_completions (s : State) (f : Strand → Strand) : (s.updSt f).completions = s.completions := rfl
@[simp] theorem State.updSt_linkUp (s : State) (f : Strand → Strand) : (s.updSt f).linkUp = s.linkUp := rfl
@[simp] theorem State.updSt_linkFlit (s : State) (f : Strand → Strand) : (s.updSt f).linkFlit = s.linkFlit := rfl
@[simp] theorem State.updSt_i3cAddr (s : State) (f : Strand → Strand) : (s.updSt f).i3cAddr = s.i3cAddr := rfl
@[simp] theorem State.updSt_mgmtOut (s : State) (f : Strand → Strand) : (s.updSt f).mgmtOut = s.mgmtOut := rfl
@[simp] theorem State.updSt_powerIrqs (s : State) (f : Strand → Strand) : (s.updSt f).powerIrqs = s.powerIrqs := rfl
@[simp] theorem State.updSt_spdm (s : State) (f : Strand → Strand) : (s.updSt f).spdm = s.spdm := rfl
@[simp] theorem State.updSt_mail (s : State) (f : Strand → Strand) : (s.updSt f).mail = s.mail := rfl
@[simp] theorem State.updSt_keys (s : State) (f : Strand → Strand) : (s.updSt f).keys = s.keys := rfl
@[simp] theorem State.updSt_tamper (s : State) (f : Strand → Strand) : (s.updSt f).tamper = s.tamper := rfl
@[simp] theorem State.updSt_seals (s : State) (f : Strand → Strand) : (s.updSt f).seals = s.seals := rfl
@[simp] theorem State.updSt_wear (s : State) (f : Strand → Strand) : (s.updSt f).wear = s.wear := rfl
@[simp] theorem State.updSt_ports (s : State) (f : Strand → Strand) : (s.updSt f).ports = s.ports := rfl
@[simp] theorem State.updSt_outReqs (s : State) (f : Strand → Strand) : (s.updSt f).outReqs = s.outReqs := rfl
@[simp] theorem State.updSt_seqs (s : State) (f : Strand → Strand) : (s.updSt f).seqs = s.seqs := rfl
@[simp] theorem State.updSt_applied (s : State) (f : Strand → Strand) : (s.updSt f).applied = s.applied := rfl
@[simp] theorem State.updSt_replies (s : State) (f : Strand → Strand) : (s.updSt f).replies = s.replies := rfl
@[simp] theorem State.updSt_repliesDue (s : State) (f : Strand → Strand) : (s.updSt f).repliesDue = s.repliesDue := rfl
@[simp] theorem State.updSt_lostLinks (s : State) (f : Strand → Strand) : (s.updSt f).lostLinks = s.lostLinks := rfl
@[simp] theorem State.updSt_acct (s : State) (f : Strand → Strand) : (s.updSt f).acct = s.acct := rfl
@[simp] theorem State.updSt_energyRem (s : State) (f : Strand → Strand) : (s.updSt f).energyRem = s.energyRem := rfl
@[simp] theorem State.updSt_held (s : State) (f : Strand → Strand) : (s.updSt f).held = s.held := rfl
@[simp] theorem State.updSt_idleEnergy (s : State) (f : Strand → Strand) : (s.updSt f).idleEnergy = s.idleEnergy := rfl
@[simp] theorem State.updSt_nightdly (s : State) (f : Strand → Strand) : (s.updSt f).nightdly = s.nightdly := rfl
@[simp] theorem State.updSt_govmode (s : State) (f : Strand → Strand) : (s.updSt f).govmode = s.govmode := rfl
@[simp] theorem State.updSt_updPend (s : State) (f : Strand → Strand) : (s.updSt f).updPend = s.updPend := rfl
@[simp] theorem State.updSt_lastKick (s : State) (f : Strand → Strand) : (s.updSt f).lastKick = s.lastKick := rfl
@[simp] theorem State.updSt_boot (s : State) (f : Strand → Strand) : (s.updSt f).boot = s.boot := rfl
@[simp] theorem State.updSt_image (s : State) (f : Strand → Strand) : (s.updSt f).image = s.image := rfl
@[simp] theorem State.updSt_free (s : State) (f : Strand → Strand) : (s.updSt f).free = s.free := rfl
@[simp] theorem State.updSt_nextId (s : State) (f : Strand → Strand) : (s.updSt f).nextId = s.nextId := rfl

/-! ### updCtl changes `ctxs` alone -/

@[simp] theorem State.updCtl_clock (s : State) (f : Ctl → Ctl) : (s.updCtl f).clock = s.clock := rfl
@[simp] theorem State.updCtl_inputs (s : State) (f : Ctl → Ctl) : (s.updCtl f).inputs = s.inputs := rfl
@[simp] theorem State.updCtl_agenda (s : State) (f : Ctl → Ctl) : (s.updCtl f).agenda = s.agenda := rfl
@[simp] theorem State.updCtl_iss (s : State) (f : Ctl → Ctl) : (s.updCtl f).iss = s.iss := rfl
@[simp] theorem State.updCtl_mem (s : State) (f : Ctl → Ctl) : (s.updCtl f).mem = s.mem := rfl
@[simp] theorem State.updCtl_full (s : State) (f : Ctl → Ctl) : (s.updCtl f).full = s.full := rfl
@[simp] theorem State.updCtl_loc (s : State) (f : Ctl → Ctl) : (s.updCtl f).loc = s.loc := rfl
@[simp] theorem State.updCtl_locFull (s : State) (f : Ctl → Ctl) : (s.updCtl f).locFull = s.locFull := rfl
@[simp] theorem State.updCtl_host0 (s : State) (f : Ctl → Ctl) : (s.updCtl f).host0 = s.host0 := rfl
@[simp] theorem State.updCtl_host1 (s : State) (f : Ctl → Ctl) : (s.updCtl f).host1 = s.host1 := rfl
@[simp] theorem State.updCtl_bad (s : State) (f : Ctl → Ctl) : (s.updCtl f).bad = s.bad := rfl
@[simp] theorem State.updCtl_locBad (s : State) (f : Ctl → Ctl) : (s.updCtl f).locBad = s.locBad := rfl
@[simp] theorem State.updCtl_cores (s : State) (f : Ctl → Ctl) : (s.updCtl f).cores = s.cores := rfl
@[simp] theorem State.updCtl_clusters (s : State) (f : Ctl → Ctl) : (s.updCtl f).clusters = s.clusters := rfl
@[simp] theorem State.updCtl_dies (s : State) (f : Ctl → Ctl) : (s.updCtl f).dies = s.dies := rfl
@[simp] theorem State.updCtl_therm (s : State) (f : Ctl → Ctl) : (s.updCtl f).therm = s.therm := rfl
@[simp] theorem State.updCtl_tasks (s : State) (f : Ctl → Ctl) : (s.updCtl f).tasks = s.tasks := rfl
@[simp] theorem State.updCtl_records (s : State) (f : Ctl → Ctl) : (s.updCtl f).records = s.records := rfl
@[simp] theorem State.updCtl_cmds (s : State) (f : Ctl → Ctl) : (s.updCtl f).cmds = s.cmds := rfl
@[simp] theorem State.updCtl_reds (s : State) (f : Ctl → Ctl) : (s.updCtl f).reds = s.reds := rfl
@[simp] theorem State.updCtl_mix (s : State) (f : Ctl → Ctl) : (s.updCtl f).mix = s.mix := rfl
@[simp] theorem State.updCtl_fns (s : State) (f : Ctl → Ctl) : (s.updCtl f).fns = s.fns := rfl
@[simp] theorem State.updCtl_funcJob (s : State) (f : Ctl → Ctl) : (s.updCtl f).funcJob = s.funcJob := rfl
@[simp] theorem State.updCtl_sems (s : State) (f : Ctl → Ctl) : (s.updCtl f).sems = s.sems := rfl
@[simp] theorem State.updCtl_tie (s : State) (f : Ctl → Ctl) : (s.updCtl f).tie = s.tie := rfl
@[simp] theorem State.updCtl_irqs (s : State) (f : Ctl → Ctl) : (s.updCtl f).irqs = s.irqs := rfl
@[simp] theorem State.updCtl_completions (s : State) (f : Ctl → Ctl) : (s.updCtl f).completions = s.completions := rfl
@[simp] theorem State.updCtl_linkUp (s : State) (f : Ctl → Ctl) : (s.updCtl f).linkUp = s.linkUp := rfl
@[simp] theorem State.updCtl_linkFlit (s : State) (f : Ctl → Ctl) : (s.updCtl f).linkFlit = s.linkFlit := rfl
@[simp] theorem State.updCtl_i3cAddr (s : State) (f : Ctl → Ctl) : (s.updCtl f).i3cAddr = s.i3cAddr := rfl
@[simp] theorem State.updCtl_mgmtOut (s : State) (f : Ctl → Ctl) : (s.updCtl f).mgmtOut = s.mgmtOut := rfl
@[simp] theorem State.updCtl_powerIrqs (s : State) (f : Ctl → Ctl) : (s.updCtl f).powerIrqs = s.powerIrqs := rfl
@[simp] theorem State.updCtl_spdm (s : State) (f : Ctl → Ctl) : (s.updCtl f).spdm = s.spdm := rfl
@[simp] theorem State.updCtl_mail (s : State) (f : Ctl → Ctl) : (s.updCtl f).mail = s.mail := rfl
@[simp] theorem State.updCtl_keys (s : State) (f : Ctl → Ctl) : (s.updCtl f).keys = s.keys := rfl
@[simp] theorem State.updCtl_tamper (s : State) (f : Ctl → Ctl) : (s.updCtl f).tamper = s.tamper := rfl
@[simp] theorem State.updCtl_seals (s : State) (f : Ctl → Ctl) : (s.updCtl f).seals = s.seals := rfl
@[simp] theorem State.updCtl_wear (s : State) (f : Ctl → Ctl) : (s.updCtl f).wear = s.wear := rfl
@[simp] theorem State.updCtl_ports (s : State) (f : Ctl → Ctl) : (s.updCtl f).ports = s.ports := rfl
@[simp] theorem State.updCtl_outReqs (s : State) (f : Ctl → Ctl) : (s.updCtl f).outReqs = s.outReqs := rfl
@[simp] theorem State.updCtl_seqs (s : State) (f : Ctl → Ctl) : (s.updCtl f).seqs = s.seqs := rfl
@[simp] theorem State.updCtl_applied (s : State) (f : Ctl → Ctl) : (s.updCtl f).applied = s.applied := rfl
@[simp] theorem State.updCtl_replies (s : State) (f : Ctl → Ctl) : (s.updCtl f).replies = s.replies := rfl
@[simp] theorem State.updCtl_repliesDue (s : State) (f : Ctl → Ctl) : (s.updCtl f).repliesDue = s.repliesDue := rfl
@[simp] theorem State.updCtl_lostLinks (s : State) (f : Ctl → Ctl) : (s.updCtl f).lostLinks = s.lostLinks := rfl
@[simp] theorem State.updCtl_acct (s : State) (f : Ctl → Ctl) : (s.updCtl f).acct = s.acct := rfl
@[simp] theorem State.updCtl_energyRem (s : State) (f : Ctl → Ctl) : (s.updCtl f).energyRem = s.energyRem := rfl
@[simp] theorem State.updCtl_held (s : State) (f : Ctl → Ctl) : (s.updCtl f).held = s.held := rfl
@[simp] theorem State.updCtl_idleEnergy (s : State) (f : Ctl → Ctl) : (s.updCtl f).idleEnergy = s.idleEnergy := rfl
@[simp] theorem State.updCtl_nightdly (s : State) (f : Ctl → Ctl) : (s.updCtl f).nightdly = s.nightdly := rfl
@[simp] theorem State.updCtl_govmode (s : State) (f : Ctl → Ctl) : (s.updCtl f).govmode = s.govmode := rfl
@[simp] theorem State.updCtl_updPend (s : State) (f : Ctl → Ctl) : (s.updCtl f).updPend = s.updPend := rfl
@[simp] theorem State.updCtl_lastKick (s : State) (f : Ctl → Ctl) : (s.updCtl f).lastKick = s.lastKick := rfl
@[simp] theorem State.updCtl_boot (s : State) (f : Ctl → Ctl) : (s.updCtl f).boot = s.boot := rfl
@[simp] theorem State.updCtl_image (s : State) (f : Ctl → Ctl) : (s.updCtl f).image = s.image := rfl
@[simp] theorem State.updCtl_free (s : State) (f : Ctl → Ctl) : (s.updCtl f).free = s.free := rfl
@[simp] theorem State.updCtl_nextId (s : State) (f : Ctl → Ctl) : (s.updCtl f).nextId = s.nextId := rfl

/-! ### hw changes `iss` alone -/

@[simp] theorem State.hw_clock (s : State) (u : HwUpd) : (s.hw u).clock = s.clock := rfl
@[simp] theorem State.hw_inputs (s : State) (u : HwUpd) : (s.hw u).inputs = s.inputs := rfl
@[simp] theorem State.hw_agenda (s : State) (u : HwUpd) : (s.hw u).agenda = s.agenda := rfl
@[simp] theorem State.hw_mem (s : State) (u : HwUpd) : (s.hw u).mem = s.mem := rfl
@[simp] theorem State.hw_full (s : State) (u : HwUpd) : (s.hw u).full = s.full := rfl
@[simp] theorem State.hw_loc (s : State) (u : HwUpd) : (s.hw u).loc = s.loc := rfl
@[simp] theorem State.hw_locFull (s : State) (u : HwUpd) : (s.hw u).locFull = s.locFull := rfl
@[simp] theorem State.hw_host0 (s : State) (u : HwUpd) : (s.hw u).host0 = s.host0 := rfl
@[simp] theorem State.hw_host1 (s : State) (u : HwUpd) : (s.hw u).host1 = s.host1 := rfl
@[simp] theorem State.hw_bad (s : State) (u : HwUpd) : (s.hw u).bad = s.bad := rfl
@[simp] theorem State.hw_locBad (s : State) (u : HwUpd) : (s.hw u).locBad = s.locBad := rfl
@[simp] theorem State.hw_ctxs (s : State) (u : HwUpd) : (s.hw u).ctxs = s.ctxs := rfl
@[simp] theorem State.hw_cores (s : State) (u : HwUpd) : (s.hw u).cores = s.cores := rfl
@[simp] theorem State.hw_clusters (s : State) (u : HwUpd) : (s.hw u).clusters = s.clusters := rfl
@[simp] theorem State.hw_dies (s : State) (u : HwUpd) : (s.hw u).dies = s.dies := rfl
@[simp] theorem State.hw_therm (s : State) (u : HwUpd) : (s.hw u).therm = s.therm := rfl
@[simp] theorem State.hw_tasks (s : State) (u : HwUpd) : (s.hw u).tasks = s.tasks := rfl
@[simp] theorem State.hw_records (s : State) (u : HwUpd) : (s.hw u).records = s.records := rfl
@[simp] theorem State.hw_cmds (s : State) (u : HwUpd) : (s.hw u).cmds = s.cmds := rfl
@[simp] theorem State.hw_reds (s : State) (u : HwUpd) : (s.hw u).reds = s.reds := rfl
@[simp] theorem State.hw_mix (s : State) (u : HwUpd) : (s.hw u).mix = s.mix := rfl
@[simp] theorem State.hw_fns (s : State) (u : HwUpd) : (s.hw u).fns = s.fns := rfl
@[simp] theorem State.hw_funcJob (s : State) (u : HwUpd) : (s.hw u).funcJob = s.funcJob := rfl
@[simp] theorem State.hw_sems (s : State) (u : HwUpd) : (s.hw u).sems = s.sems := rfl
@[simp] theorem State.hw_tie (s : State) (u : HwUpd) : (s.hw u).tie = s.tie := rfl
@[simp] theorem State.hw_irqs (s : State) (u : HwUpd) : (s.hw u).irqs = s.irqs := rfl
@[simp] theorem State.hw_completions (s : State) (u : HwUpd) : (s.hw u).completions = s.completions := rfl
@[simp] theorem State.hw_linkUp (s : State) (u : HwUpd) : (s.hw u).linkUp = s.linkUp := rfl
@[simp] theorem State.hw_linkFlit (s : State) (u : HwUpd) : (s.hw u).linkFlit = s.linkFlit := rfl
@[simp] theorem State.hw_i3cAddr (s : State) (u : HwUpd) : (s.hw u).i3cAddr = s.i3cAddr := rfl
@[simp] theorem State.hw_mgmtOut (s : State) (u : HwUpd) : (s.hw u).mgmtOut = s.mgmtOut := rfl
@[simp] theorem State.hw_powerIrqs (s : State) (u : HwUpd) : (s.hw u).powerIrqs = s.powerIrqs := rfl
@[simp] theorem State.hw_spdm (s : State) (u : HwUpd) : (s.hw u).spdm = s.spdm := rfl
@[simp] theorem State.hw_mail (s : State) (u : HwUpd) : (s.hw u).mail = s.mail := rfl
@[simp] theorem State.hw_keys (s : State) (u : HwUpd) : (s.hw u).keys = s.keys := rfl
@[simp] theorem State.hw_tamper (s : State) (u : HwUpd) : (s.hw u).tamper = s.tamper := rfl
@[simp] theorem State.hw_seals (s : State) (u : HwUpd) : (s.hw u).seals = s.seals := rfl
@[simp] theorem State.hw_wear (s : State) (u : HwUpd) : (s.hw u).wear = s.wear := rfl
@[simp] theorem State.hw_ports (s : State) (u : HwUpd) : (s.hw u).ports = s.ports := rfl
@[simp] theorem State.hw_outReqs (s : State) (u : HwUpd) : (s.hw u).outReqs = s.outReqs := rfl
@[simp] theorem State.hw_seqs (s : State) (u : HwUpd) : (s.hw u).seqs = s.seqs := rfl
@[simp] theorem State.hw_applied (s : State) (u : HwUpd) : (s.hw u).applied = s.applied := rfl
@[simp] theorem State.hw_replies (s : State) (u : HwUpd) : (s.hw u).replies = s.replies := rfl
@[simp] theorem State.hw_repliesDue (s : State) (u : HwUpd) : (s.hw u).repliesDue = s.repliesDue := rfl
@[simp] theorem State.hw_lostLinks (s : State) (u : HwUpd) : (s.hw u).lostLinks = s.lostLinks := rfl
@[simp] theorem State.hw_acct (s : State) (u : HwUpd) : (s.hw u).acct = s.acct := rfl
@[simp] theorem State.hw_energyRem (s : State) (u : HwUpd) : (s.hw u).energyRem = s.energyRem := rfl
@[simp] theorem State.hw_held (s : State) (u : HwUpd) : (s.hw u).held = s.held := rfl
@[simp] theorem State.hw_idleEnergy (s : State) (u : HwUpd) : (s.hw u).idleEnergy = s.idleEnergy := rfl
@[simp] theorem State.hw_nightdly (s : State) (u : HwUpd) : (s.hw u).nightdly = s.nightdly := rfl
@[simp] theorem State.hw_govmode (s : State) (u : HwUpd) : (s.hw u).govmode = s.govmode := rfl
@[simp] theorem State.hw_updPend (s : State) (u : HwUpd) : (s.hw u).updPend = s.updPend := rfl
@[simp] theorem State.hw_lastKick (s : State) (u : HwUpd) : (s.hw u).lastKick = s.lastKick := rfl
@[simp] theorem State.hw_boot (s : State) (u : HwUpd) : (s.hw u).boot = s.boot := rfl
@[simp] theorem State.hw_image (s : State) (u : HwUpd) : (s.hw u).image = s.image := rfl
@[simp] theorem State.hw_free (s : State) (u : HwUpd) : (s.hw u).free = s.free := rfl
@[simp] theorem State.hw_nextId (s : State) (u : HwUpd) : (s.hw u).nextId = s.nextId := rfl

/-! ### setSeed changes `iss` alone -/

@[simp] theorem State.setSeed_clock (s : State) (g : Word) : (s.setSeed g).clock = s.clock := rfl
@[simp] theorem State.setSeed_inputs (s : State) (g : Word) : (s.setSeed g).inputs = s.inputs := rfl
@[simp] theorem State.setSeed_agenda (s : State) (g : Word) : (s.setSeed g).agenda = s.agenda := rfl
@[simp] theorem State.setSeed_mem (s : State) (g : Word) : (s.setSeed g).mem = s.mem := rfl
@[simp] theorem State.setSeed_full (s : State) (g : Word) : (s.setSeed g).full = s.full := rfl
@[simp] theorem State.setSeed_loc (s : State) (g : Word) : (s.setSeed g).loc = s.loc := rfl
@[simp] theorem State.setSeed_locFull (s : State) (g : Word) : (s.setSeed g).locFull = s.locFull := rfl
@[simp] theorem State.setSeed_host0 (s : State) (g : Word) : (s.setSeed g).host0 = s.host0 := rfl
@[simp] theorem State.setSeed_host1 (s : State) (g : Word) : (s.setSeed g).host1 = s.host1 := rfl
@[simp] theorem State.setSeed_bad (s : State) (g : Word) : (s.setSeed g).bad = s.bad := rfl
@[simp] theorem State.setSeed_locBad (s : State) (g : Word) : (s.setSeed g).locBad = s.locBad := rfl
@[simp] theorem State.setSeed_ctxs (s : State) (g : Word) : (s.setSeed g).ctxs = s.ctxs := rfl
@[simp] theorem State.setSeed_cores (s : State) (g : Word) : (s.setSeed g).cores = s.cores := rfl
@[simp] theorem State.setSeed_clusters (s : State) (g : Word) : (s.setSeed g).clusters = s.clusters := rfl
@[simp] theorem State.setSeed_dies (s : State) (g : Word) : (s.setSeed g).dies = s.dies := rfl
@[simp] theorem State.setSeed_therm (s : State) (g : Word) : (s.setSeed g).therm = s.therm := rfl
@[simp] theorem State.setSeed_tasks (s : State) (g : Word) : (s.setSeed g).tasks = s.tasks := rfl
@[simp] theorem State.setSeed_records (s : State) (g : Word) : (s.setSeed g).records = s.records := rfl
@[simp] theorem State.setSeed_cmds (s : State) (g : Word) : (s.setSeed g).cmds = s.cmds := rfl
@[simp] theorem State.setSeed_reds (s : State) (g : Word) : (s.setSeed g).reds = s.reds := rfl
@[simp] theorem State.setSeed_mix (s : State) (g : Word) : (s.setSeed g).mix = s.mix := rfl
@[simp] theorem State.setSeed_fns (s : State) (g : Word) : (s.setSeed g).fns = s.fns := rfl
@[simp] theorem State.setSeed_funcJob (s : State) (g : Word) : (s.setSeed g).funcJob = s.funcJob := rfl
@[simp] theorem State.setSeed_sems (s : State) (g : Word) : (s.setSeed g).sems = s.sems := rfl
@[simp] theorem State.setSeed_tie (s : State) (g : Word) : (s.setSeed g).tie = s.tie := rfl
@[simp] theorem State.setSeed_irqs (s : State) (g : Word) : (s.setSeed g).irqs = s.irqs := rfl
@[simp] theorem State.setSeed_completions (s : State) (g : Word) : (s.setSeed g).completions = s.completions := rfl
@[simp] theorem State.setSeed_linkUp (s : State) (g : Word) : (s.setSeed g).linkUp = s.linkUp := rfl
@[simp] theorem State.setSeed_linkFlit (s : State) (g : Word) : (s.setSeed g).linkFlit = s.linkFlit := rfl
@[simp] theorem State.setSeed_i3cAddr (s : State) (g : Word) : (s.setSeed g).i3cAddr = s.i3cAddr := rfl
@[simp] theorem State.setSeed_mgmtOut (s : State) (g : Word) : (s.setSeed g).mgmtOut = s.mgmtOut := rfl
@[simp] theorem State.setSeed_powerIrqs (s : State) (g : Word) : (s.setSeed g).powerIrqs = s.powerIrqs := rfl
@[simp] theorem State.setSeed_spdm (s : State) (g : Word) : (s.setSeed g).spdm = s.spdm := rfl
@[simp] theorem State.setSeed_mail (s : State) (g : Word) : (s.setSeed g).mail = s.mail := rfl
@[simp] theorem State.setSeed_keys (s : State) (g : Word) : (s.setSeed g).keys = s.keys := rfl
@[simp] theorem State.setSeed_tamper (s : State) (g : Word) : (s.setSeed g).tamper = s.tamper := rfl
@[simp] theorem State.setSeed_seals (s : State) (g : Word) : (s.setSeed g).seals = s.seals := rfl
@[simp] theorem State.setSeed_wear (s : State) (g : Word) : (s.setSeed g).wear = s.wear := rfl
@[simp] theorem State.setSeed_ports (s : State) (g : Word) : (s.setSeed g).ports = s.ports := rfl
@[simp] theorem State.setSeed_outReqs (s : State) (g : Word) : (s.setSeed g).outReqs = s.outReqs := rfl
@[simp] theorem State.setSeed_seqs (s : State) (g : Word) : (s.setSeed g).seqs = s.seqs := rfl
@[simp] theorem State.setSeed_applied (s : State) (g : Word) : (s.setSeed g).applied = s.applied := rfl
@[simp] theorem State.setSeed_replies (s : State) (g : Word) : (s.setSeed g).replies = s.replies := rfl
@[simp] theorem State.setSeed_repliesDue (s : State) (g : Word) : (s.setSeed g).repliesDue = s.repliesDue := rfl
@[simp] theorem State.setSeed_lostLinks (s : State) (g : Word) : (s.setSeed g).lostLinks = s.lostLinks := rfl
@[simp] theorem State.setSeed_acct (s : State) (g : Word) : (s.setSeed g).acct = s.acct := rfl
@[simp] theorem State.setSeed_energyRem (s : State) (g : Word) : (s.setSeed g).energyRem = s.energyRem := rfl
@[simp] theorem State.setSeed_held (s : State) (g : Word) : (s.setSeed g).held = s.held := rfl
@[simp] theorem State.setSeed_idleEnergy (s : State) (g : Word) : (s.setSeed g).idleEnergy = s.idleEnergy := rfl
@[simp] theorem State.setSeed_nightdly (s : State) (g : Word) : (s.setSeed g).nightdly = s.nightdly := rfl
@[simp] theorem State.setSeed_govmode (s : State) (g : Word) : (s.setSeed g).govmode = s.govmode := rfl
@[simp] theorem State.setSeed_updPend (s : State) (g : Word) : (s.setSeed g).updPend = s.updPend := rfl
@[simp] theorem State.setSeed_lastKick (s : State) (g : Word) : (s.setSeed g).lastKick = s.lastKick := rfl
@[simp] theorem State.setSeed_boot (s : State) (g : Word) : (s.setSeed g).boot = s.boot := rfl
@[simp] theorem State.setSeed_image (s : State) (g : Word) : (s.setSeed g).image = s.image := rfl
@[simp] theorem State.setSeed_free (s : State) (g : Word) : (s.setSeed g).free = s.free := rfl
@[simp] theorem State.setSeed_nextId (s : State) (g : Word) : (s.setSeed g).nextId = s.nextId := rfl

/-! ### prog changes `iss` alone -/

@[simp] theorem State.prog_clock (s : State) (n : CReg) (v : Word) : (s.prog n v).clock = s.clock := rfl
@[simp] theorem State.prog_inputs (s : State) (n : CReg) (v : Word) : (s.prog n v).inputs = s.inputs := rfl
@[simp] theorem State.prog_agenda (s : State) (n : CReg) (v : Word) : (s.prog n v).agenda = s.agenda := rfl
@[simp] theorem State.prog_mem (s : State) (n : CReg) (v : Word) : (s.prog n v).mem = s.mem := rfl
@[simp] theorem State.prog_full (s : State) (n : CReg) (v : Word) : (s.prog n v).full = s.full := rfl
@[simp] theorem State.prog_loc (s : State) (n : CReg) (v : Word) : (s.prog n v).loc = s.loc := rfl
@[simp] theorem State.prog_locFull (s : State) (n : CReg) (v : Word) : (s.prog n v).locFull = s.locFull := rfl
@[simp] theorem State.prog_host0 (s : State) (n : CReg) (v : Word) : (s.prog n v).host0 = s.host0 := rfl
@[simp] theorem State.prog_host1 (s : State) (n : CReg) (v : Word) : (s.prog n v).host1 = s.host1 := rfl
@[simp] theorem State.prog_bad (s : State) (n : CReg) (v : Word) : (s.prog n v).bad = s.bad := rfl
@[simp] theorem State.prog_locBad (s : State) (n : CReg) (v : Word) : (s.prog n v).locBad = s.locBad := rfl
@[simp] theorem State.prog_ctxs (s : State) (n : CReg) (v : Word) : (s.prog n v).ctxs = s.ctxs := rfl
@[simp] theorem State.prog_cores (s : State) (n : CReg) (v : Word) : (s.prog n v).cores = s.cores := rfl
@[simp] theorem State.prog_clusters (s : State) (n : CReg) (v : Word) : (s.prog n v).clusters = s.clusters := rfl
@[simp] theorem State.prog_dies (s : State) (n : CReg) (v : Word) : (s.prog n v).dies = s.dies := rfl
@[simp] theorem State.prog_therm (s : State) (n : CReg) (v : Word) : (s.prog n v).therm = s.therm := rfl
@[simp] theorem State.prog_tasks (s : State) (n : CReg) (v : Word) : (s.prog n v).tasks = s.tasks := rfl
@[simp] theorem State.prog_records (s : State) (n : CReg) (v : Word) : (s.prog n v).records = s.records := rfl
@[simp] theorem State.prog_cmds (s : State) (n : CReg) (v : Word) : (s.prog n v).cmds = s.cmds := rfl
@[simp] theorem State.prog_reds (s : State) (n : CReg) (v : Word) : (s.prog n v).reds = s.reds := rfl
@[simp] theorem State.prog_mix (s : State) (n : CReg) (v : Word) : (s.prog n v).mix = s.mix := rfl
@[simp] theorem State.prog_fns (s : State) (n : CReg) (v : Word) : (s.prog n v).fns = s.fns := rfl
@[simp] theorem State.prog_funcJob (s : State) (n : CReg) (v : Word) : (s.prog n v).funcJob = s.funcJob := rfl
@[simp] theorem State.prog_sems (s : State) (n : CReg) (v : Word) : (s.prog n v).sems = s.sems := rfl
@[simp] theorem State.prog_tie (s : State) (n : CReg) (v : Word) : (s.prog n v).tie = s.tie := rfl
@[simp] theorem State.prog_irqs (s : State) (n : CReg) (v : Word) : (s.prog n v).irqs = s.irqs := rfl
@[simp] theorem State.prog_completions (s : State) (n : CReg) (v : Word) : (s.prog n v).completions = s.completions := rfl
@[simp] theorem State.prog_linkUp (s : State) (n : CReg) (v : Word) : (s.prog n v).linkUp = s.linkUp := rfl
@[simp] theorem State.prog_linkFlit (s : State) (n : CReg) (v : Word) : (s.prog n v).linkFlit = s.linkFlit := rfl
@[simp] theorem State.prog_i3cAddr (s : State) (n : CReg) (v : Word) : (s.prog n v).i3cAddr = s.i3cAddr := rfl
@[simp] theorem State.prog_mgmtOut (s : State) (n : CReg) (v : Word) : (s.prog n v).mgmtOut = s.mgmtOut := rfl
@[simp] theorem State.prog_powerIrqs (s : State) (n : CReg) (v : Word) : (s.prog n v).powerIrqs = s.powerIrqs := rfl
@[simp] theorem State.prog_spdm (s : State) (n : CReg) (v : Word) : (s.prog n v).spdm = s.spdm := rfl
@[simp] theorem State.prog_mail (s : State) (n : CReg) (v : Word) : (s.prog n v).mail = s.mail := rfl
@[simp] theorem State.prog_keys (s : State) (n : CReg) (v : Word) : (s.prog n v).keys = s.keys := rfl
@[simp] theorem State.prog_tamper (s : State) (n : CReg) (v : Word) : (s.prog n v).tamper = s.tamper := rfl
@[simp] theorem State.prog_seals (s : State) (n : CReg) (v : Word) : (s.prog n v).seals = s.seals := rfl
@[simp] theorem State.prog_wear (s : State) (n : CReg) (v : Word) : (s.prog n v).wear = s.wear := rfl
@[simp] theorem State.prog_ports (s : State) (n : CReg) (v : Word) : (s.prog n v).ports = s.ports := rfl
@[simp] theorem State.prog_outReqs (s : State) (n : CReg) (v : Word) : (s.prog n v).outReqs = s.outReqs := rfl
@[simp] theorem State.prog_seqs (s : State) (n : CReg) (v : Word) : (s.prog n v).seqs = s.seqs := rfl
@[simp] theorem State.prog_applied (s : State) (n : CReg) (v : Word) : (s.prog n v).applied = s.applied := rfl
@[simp] theorem State.prog_replies (s : State) (n : CReg) (v : Word) : (s.prog n v).replies = s.replies := rfl
@[simp] theorem State.prog_repliesDue (s : State) (n : CReg) (v : Word) : (s.prog n v).repliesDue = s.repliesDue := rfl
@[simp] theorem State.prog_lostLinks (s : State) (n : CReg) (v : Word) : (s.prog n v).lostLinks = s.lostLinks := rfl
@[simp] theorem State.prog_acct (s : State) (n : CReg) (v : Word) : (s.prog n v).acct = s.acct := rfl
@[simp] theorem State.prog_energyRem (s : State) (n : CReg) (v : Word) : (s.prog n v).energyRem = s.energyRem := rfl
@[simp] theorem State.prog_held (s : State) (n : CReg) (v : Word) : (s.prog n v).held = s.held := rfl
@[simp] theorem State.prog_idleEnergy (s : State) (n : CReg) (v : Word) : (s.prog n v).idleEnergy = s.idleEnergy := rfl
@[simp] theorem State.prog_nightdly (s : State) (n : CReg) (v : Word) : (s.prog n v).nightdly = s.nightdly := rfl
@[simp] theorem State.prog_govmode (s : State) (n : CReg) (v : Word) : (s.prog n v).govmode = s.govmode := rfl
@[simp] theorem State.prog_updPend (s : State) (n : CReg) (v : Word) : (s.prog n v).updPend = s.updPend := rfl
@[simp] theorem State.prog_lastKick (s : State) (n : CReg) (v : Word) : (s.prog n v).lastKick = s.lastKick := rfl
@[simp] theorem State.prog_boot (s : State) (n : CReg) (v : Word) : (s.prog n v).boot = s.boot := rfl
@[simp] theorem State.prog_image (s : State) (n : CReg) (v : Word) : (s.prog n v).image = s.image := rfl
@[simp] theorem State.prog_free (s : State) (n : CReg) (v : Word) : (s.prog n v).free = s.free := rfl
@[simp] theorem State.prog_nextId (s : State) (n : CReg) (v : Word) : (s.prog n v).nextId = s.nextId := rfl

/-! ### flightPut changes `ctxs` alone -/

@[simp] theorem State.flightPut_clock (s : State) (o : FlightOp) (x : Option (Nat × Latch)) (l : Nat) : (s.flightPut o x l).clock = s.clock := rfl
@[simp] theorem State.flightPut_inputs (s : State) (o : FlightOp) (x : Option (Nat × Latch)) (l : Nat) : (s.flightPut o x l).inputs = s.inputs := rfl
@[simp] theorem State.flightPut_agenda (s : State) (o : FlightOp) (x : Option (Nat × Latch)) (l : Nat) : (s.flightPut o x l).agenda = s.agenda := rfl
@[simp] theorem State.flightPut_iss (s : State) (o : FlightOp) (x : Option (Nat × Latch)) (l : Nat) : (s.flightPut o x l).iss = s.iss := rfl
@[simp] theorem State.flightPut_mem (s : State) (o : FlightOp) (x : Option (Nat × Latch)) (l : Nat) : (s.flightPut o x l).mem = s.mem := rfl
@[simp] theorem State.flightPut_full (s : State) (o : FlightOp) (x : Option (Nat × Latch)) (l : Nat) : (s.flightPut o x l).full = s.full := rfl
@[simp] theorem State.flightPut_loc (s : State) (o : FlightOp) (x : Option (Nat × Latch)) (l : Nat) : (s.flightPut o x l).loc = s.loc := rfl
@[simp] theorem State.flightPut_locFull (s : State) (o : FlightOp) (x : Option (Nat × Latch)) (l : Nat) : (s.flightPut o x l).locFull = s.locFull := rfl
@[simp] theorem State.flightPut_host0 (s : State) (o : FlightOp) (x : Option (Nat × Latch)) (l : Nat) : (s.flightPut o x l).host0 = s.host0 := rfl
@[simp] theorem State.flightPut_host1 (s : State) (o : FlightOp) (x : Option (Nat × Latch)) (l : Nat) : (s.flightPut o x l).host1 = s.host1 := rfl
@[simp] theorem State.flightPut_bad (s : State) (o : FlightOp) (x : Option (Nat × Latch)) (l : Nat) : (s.flightPut o x l).bad = s.bad := rfl
@[simp] theorem State.flightPut_locBad (s : State) (o : FlightOp) (x : Option (Nat × Latch)) (l : Nat) : (s.flightPut o x l).locBad = s.locBad := rfl
@[simp] theorem State.flightPut_cores (s : State) (o : FlightOp) (x : Option (Nat × Latch)) (l : Nat) : (s.flightPut o x l).cores = s.cores := rfl
@[simp] theorem State.flightPut_clusters (s : State) (o : FlightOp) (x : Option (Nat × Latch)) (l : Nat) : (s.flightPut o x l).clusters = s.clusters := rfl
@[simp] theorem State.flightPut_dies (s : State) (o : FlightOp) (x : Option (Nat × Latch)) (l : Nat) : (s.flightPut o x l).dies = s.dies := rfl
@[simp] theorem State.flightPut_therm (s : State) (o : FlightOp) (x : Option (Nat × Latch)) (l : Nat) : (s.flightPut o x l).therm = s.therm := rfl
@[simp] theorem State.flightPut_tasks (s : State) (o : FlightOp) (x : Option (Nat × Latch)) (l : Nat) : (s.flightPut o x l).tasks = s.tasks := rfl
@[simp] theorem State.flightPut_records (s : State) (o : FlightOp) (x : Option (Nat × Latch)) (l : Nat) : (s.flightPut o x l).records = s.records := rfl
@[simp] theorem State.flightPut_cmds (s : State) (o : FlightOp) (x : Option (Nat × Latch)) (l : Nat) : (s.flightPut o x l).cmds = s.cmds := rfl
@[simp] theorem State.flightPut_reds (s : State) (o : FlightOp) (x : Option (Nat × Latch)) (l : Nat) : (s.flightPut o x l).reds = s.reds := rfl
@[simp] theorem State.flightPut_mix (s : State) (o : FlightOp) (x : Option (Nat × Latch)) (l : Nat) : (s.flightPut o x l).mix = s.mix := rfl
@[simp] theorem State.flightPut_fns (s : State) (o : FlightOp) (x : Option (Nat × Latch)) (l : Nat) : (s.flightPut o x l).fns = s.fns := rfl
@[simp] theorem State.flightPut_funcJob (s : State) (o : FlightOp) (x : Option (Nat × Latch)) (l : Nat) : (s.flightPut o x l).funcJob = s.funcJob := rfl
@[simp] theorem State.flightPut_sems (s : State) (o : FlightOp) (x : Option (Nat × Latch)) (l : Nat) : (s.flightPut o x l).sems = s.sems := rfl
@[simp] theorem State.flightPut_tie (s : State) (o : FlightOp) (x : Option (Nat × Latch)) (l : Nat) : (s.flightPut o x l).tie = s.tie := rfl
@[simp] theorem State.flightPut_irqs (s : State) (o : FlightOp) (x : Option (Nat × Latch)) (l : Nat) : (s.flightPut o x l).irqs = s.irqs := rfl
@[simp] theorem State.flightPut_completions (s : State) (o : FlightOp) (x : Option (Nat × Latch)) (l : Nat) : (s.flightPut o x l).completions = s.completions := rfl
@[simp] theorem State.flightPut_linkUp (s : State) (o : FlightOp) (x : Option (Nat × Latch)) (l : Nat) : (s.flightPut o x l).linkUp = s.linkUp := rfl
@[simp] theorem State.flightPut_linkFlit (s : State) (o : FlightOp) (x : Option (Nat × Latch)) (l : Nat) : (s.flightPut o x l).linkFlit = s.linkFlit := rfl
@[simp] theorem State.flightPut_i3cAddr (s : State) (o : FlightOp) (x : Option (Nat × Latch)) (l : Nat) : (s.flightPut o x l).i3cAddr = s.i3cAddr := rfl
@[simp] theorem State.flightPut_mgmtOut (s : State) (o : FlightOp) (x : Option (Nat × Latch)) (l : Nat) : (s.flightPut o x l).mgmtOut = s.mgmtOut := rfl
@[simp] theorem State.flightPut_powerIrqs (s : State) (o : FlightOp) (x : Option (Nat × Latch)) (l : Nat) : (s.flightPut o x l).powerIrqs = s.powerIrqs := rfl
@[simp] theorem State.flightPut_spdm (s : State) (o : FlightOp) (x : Option (Nat × Latch)) (l : Nat) : (s.flightPut o x l).spdm = s.spdm := rfl
@[simp] theorem State.flightPut_mail (s : State) (o : FlightOp) (x : Option (Nat × Latch)) (l : Nat) : (s.flightPut o x l).mail = s.mail := rfl
@[simp] theorem State.flightPut_keys (s : State) (o : FlightOp) (x : Option (Nat × Latch)) (l : Nat) : (s.flightPut o x l).keys = s.keys := rfl
@[simp] theorem State.flightPut_tamper (s : State) (o : FlightOp) (x : Option (Nat × Latch)) (l : Nat) : (s.flightPut o x l).tamper = s.tamper := rfl
@[simp] theorem State.flightPut_seals (s : State) (o : FlightOp) (x : Option (Nat × Latch)) (l : Nat) : (s.flightPut o x l).seals = s.seals := rfl
@[simp] theorem State.flightPut_wear (s : State) (o : FlightOp) (x : Option (Nat × Latch)) (l : Nat) : (s.flightPut o x l).wear = s.wear := rfl
@[simp] theorem State.flightPut_ports (s : State) (o : FlightOp) (x : Option (Nat × Latch)) (l : Nat) : (s.flightPut o x l).ports = s.ports := rfl
@[simp] theorem State.flightPut_outReqs (s : State) (o : FlightOp) (x : Option (Nat × Latch)) (l : Nat) : (s.flightPut o x l).outReqs = s.outReqs := rfl
@[simp] theorem State.flightPut_seqs (s : State) (o : FlightOp) (x : Option (Nat × Latch)) (l : Nat) : (s.flightPut o x l).seqs = s.seqs := rfl
@[simp] theorem State.flightPut_applied (s : State) (o : FlightOp) (x : Option (Nat × Latch)) (l : Nat) : (s.flightPut o x l).applied = s.applied := rfl
@[simp] theorem State.flightPut_replies (s : State) (o : FlightOp) (x : Option (Nat × Latch)) (l : Nat) : (s.flightPut o x l).replies = s.replies := rfl
@[simp] theorem State.flightPut_repliesDue (s : State) (o : FlightOp) (x : Option (Nat × Latch)) (l : Nat) : (s.flightPut o x l).repliesDue = s.repliesDue := rfl
@[simp] theorem State.flightPut_lostLinks (s : State) (o : FlightOp) (x : Option (Nat × Latch)) (l : Nat) : (s.flightPut o x l).lostLinks = s.lostLinks := rfl
@[simp] theorem State.flightPut_acct (s : State) (o : FlightOp) (x : Option (Nat × Latch)) (l : Nat) : (s.flightPut o x l).acct = s.acct := rfl
@[simp] theorem State.flightPut_energyRem (s : State) (o : FlightOp) (x : Option (Nat × Latch)) (l : Nat) : (s.flightPut o x l).energyRem = s.energyRem := rfl
@[simp] theorem State.flightPut_held (s : State) (o : FlightOp) (x : Option (Nat × Latch)) (l : Nat) : (s.flightPut o x l).held = s.held := rfl
@[simp] theorem State.flightPut_idleEnergy (s : State) (o : FlightOp) (x : Option (Nat × Latch)) (l : Nat) : (s.flightPut o x l).idleEnergy = s.idleEnergy := rfl
@[simp] theorem State.flightPut_nightdly (s : State) (o : FlightOp) (x : Option (Nat × Latch)) (l : Nat) : (s.flightPut o x l).nightdly = s.nightdly := rfl
@[simp] theorem State.flightPut_govmode (s : State) (o : FlightOp) (x : Option (Nat × Latch)) (l : Nat) : (s.flightPut o x l).govmode = s.govmode := rfl
@[simp] theorem State.flightPut_updPend (s : State) (o : FlightOp) (x : Option (Nat × Latch)) (l : Nat) : (s.flightPut o x l).updPend = s.updPend := rfl
@[simp] theorem State.flightPut_lastKick (s : State) (o : FlightOp) (x : Option (Nat × Latch)) (l : Nat) : (s.flightPut o x l).lastKick = s.lastKick := rfl
@[simp] theorem State.flightPut_boot (s : State) (o : FlightOp) (x : Option (Nat × Latch)) (l : Nat) : (s.flightPut o x l).boot = s.boot := rfl
@[simp] theorem State.flightPut_image (s : State) (o : FlightOp) (x : Option (Nat × Latch)) (l : Nat) : (s.flightPut o x l).image = s.image := rfl
@[simp] theorem State.flightPut_free (s : State) (o : FlightOp) (x : Option (Nat × Latch)) (l : Nat) : (s.flightPut o x l).free = s.free := rfl
@[simp] theorem State.flightPut_nextId (s : State) (o : FlightOp) (x : Option (Nat × Latch)) (l : Nat) : (s.flightPut o x l).nextId = s.nextId := rfl

/-! ### wrG changes `ctxs` alone -/

@[simp] theorem State.wrG_clock (s : State) (d : Dst) (l : Nat) (v : GVal) : (s.wrG d l v).clock = s.clock := rfl
@[simp] theorem State.wrG_inputs (s : State) (d : Dst) (l : Nat) (v : GVal) : (s.wrG d l v).inputs = s.inputs := rfl
@[simp] theorem State.wrG_agenda (s : State) (d : Dst) (l : Nat) (v : GVal) : (s.wrG d l v).agenda = s.agenda := rfl
@[simp] theorem State.wrG_iss (s : State) (d : Dst) (l : Nat) (v : GVal) : (s.wrG d l v).iss = s.iss := rfl
@[simp] theorem State.wrG_mem (s : State) (d : Dst) (l : Nat) (v : GVal) : (s.wrG d l v).mem = s.mem := rfl
@[simp] theorem State.wrG_full (s : State) (d : Dst) (l : Nat) (v : GVal) : (s.wrG d l v).full = s.full := rfl
@[simp] theorem State.wrG_loc (s : State) (d : Dst) (l : Nat) (v : GVal) : (s.wrG d l v).loc = s.loc := rfl
@[simp] theorem State.wrG_locFull (s : State) (d : Dst) (l : Nat) (v : GVal) : (s.wrG d l v).locFull = s.locFull := rfl
@[simp] theorem State.wrG_host0 (s : State) (d : Dst) (l : Nat) (v : GVal) : (s.wrG d l v).host0 = s.host0 := rfl
@[simp] theorem State.wrG_host1 (s : State) (d : Dst) (l : Nat) (v : GVal) : (s.wrG d l v).host1 = s.host1 := rfl
@[simp] theorem State.wrG_bad (s : State) (d : Dst) (l : Nat) (v : GVal) : (s.wrG d l v).bad = s.bad := rfl
@[simp] theorem State.wrG_locBad (s : State) (d : Dst) (l : Nat) (v : GVal) : (s.wrG d l v).locBad = s.locBad := rfl
@[simp] theorem State.wrG_cores (s : State) (d : Dst) (l : Nat) (v : GVal) : (s.wrG d l v).cores = s.cores := rfl
@[simp] theorem State.wrG_clusters (s : State) (d : Dst) (l : Nat) (v : GVal) : (s.wrG d l v).clusters = s.clusters := rfl
@[simp] theorem State.wrG_dies (s : State) (d : Dst) (l : Nat) (v : GVal) : (s.wrG d l v).dies = s.dies := rfl
@[simp] theorem State.wrG_therm (s : State) (d : Dst) (l : Nat) (v : GVal) : (s.wrG d l v).therm = s.therm := rfl
@[simp] theorem State.wrG_tasks (s : State) (d : Dst) (l : Nat) (v : GVal) : (s.wrG d l v).tasks = s.tasks := rfl
@[simp] theorem State.wrG_records (s : State) (d : Dst) (l : Nat) (v : GVal) : (s.wrG d l v).records = s.records := rfl
@[simp] theorem State.wrG_cmds (s : State) (d : Dst) (l : Nat) (v : GVal) : (s.wrG d l v).cmds = s.cmds := rfl
@[simp] theorem State.wrG_reds (s : State) (d : Dst) (l : Nat) (v : GVal) : (s.wrG d l v).reds = s.reds := rfl
@[simp] theorem State.wrG_mix (s : State) (d : Dst) (l : Nat) (v : GVal) : (s.wrG d l v).mix = s.mix := rfl
@[simp] theorem State.wrG_fns (s : State) (d : Dst) (l : Nat) (v : GVal) : (s.wrG d l v).fns = s.fns := rfl
@[simp] theorem State.wrG_funcJob (s : State) (d : Dst) (l : Nat) (v : GVal) : (s.wrG d l v).funcJob = s.funcJob := rfl
@[simp] theorem State.wrG_sems (s : State) (d : Dst) (l : Nat) (v : GVal) : (s.wrG d l v).sems = s.sems := rfl
@[simp] theorem State.wrG_tie (s : State) (d : Dst) (l : Nat) (v : GVal) : (s.wrG d l v).tie = s.tie := rfl
@[simp] theorem State.wrG_irqs (s : State) (d : Dst) (l : Nat) (v : GVal) : (s.wrG d l v).irqs = s.irqs := rfl
@[simp] theorem State.wrG_completions (s : State) (d : Dst) (l : Nat) (v : GVal) : (s.wrG d l v).completions = s.completions := rfl
@[simp] theorem State.wrG_linkUp (s : State) (d : Dst) (l : Nat) (v : GVal) : (s.wrG d l v).linkUp = s.linkUp := rfl
@[simp] theorem State.wrG_linkFlit (s : State) (d : Dst) (l : Nat) (v : GVal) : (s.wrG d l v).linkFlit = s.linkFlit := rfl
@[simp] theorem State.wrG_i3cAddr (s : State) (d : Dst) (l : Nat) (v : GVal) : (s.wrG d l v).i3cAddr = s.i3cAddr := rfl
@[simp] theorem State.wrG_mgmtOut (s : State) (d : Dst) (l : Nat) (v : GVal) : (s.wrG d l v).mgmtOut = s.mgmtOut := rfl
@[simp] theorem State.wrG_powerIrqs (s : State) (d : Dst) (l : Nat) (v : GVal) : (s.wrG d l v).powerIrqs = s.powerIrqs := rfl
@[simp] theorem State.wrG_spdm (s : State) (d : Dst) (l : Nat) (v : GVal) : (s.wrG d l v).spdm = s.spdm := rfl
@[simp] theorem State.wrG_mail (s : State) (d : Dst) (l : Nat) (v : GVal) : (s.wrG d l v).mail = s.mail := rfl
@[simp] theorem State.wrG_keys (s : State) (d : Dst) (l : Nat) (v : GVal) : (s.wrG d l v).keys = s.keys := rfl
@[simp] theorem State.wrG_tamper (s : State) (d : Dst) (l : Nat) (v : GVal) : (s.wrG d l v).tamper = s.tamper := rfl
@[simp] theorem State.wrG_seals (s : State) (d : Dst) (l : Nat) (v : GVal) : (s.wrG d l v).seals = s.seals := rfl
@[simp] theorem State.wrG_wear (s : State) (d : Dst) (l : Nat) (v : GVal) : (s.wrG d l v).wear = s.wear := rfl
@[simp] theorem State.wrG_ports (s : State) (d : Dst) (l : Nat) (v : GVal) : (s.wrG d l v).ports = s.ports := rfl
@[simp] theorem State.wrG_outReqs (s : State) (d : Dst) (l : Nat) (v : GVal) : (s.wrG d l v).outReqs = s.outReqs := rfl
@[simp] theorem State.wrG_seqs (s : State) (d : Dst) (l : Nat) (v : GVal) : (s.wrG d l v).seqs = s.seqs := rfl
@[simp] theorem State.wrG_applied (s : State) (d : Dst) (l : Nat) (v : GVal) : (s.wrG d l v).applied = s.applied := rfl
@[simp] theorem State.wrG_replies (s : State) (d : Dst) (l : Nat) (v : GVal) : (s.wrG d l v).replies = s.replies := rfl
@[simp] theorem State.wrG_repliesDue (s : State) (d : Dst) (l : Nat) (v : GVal) : (s.wrG d l v).repliesDue = s.repliesDue := rfl
@[simp] theorem State.wrG_lostLinks (s : State) (d : Dst) (l : Nat) (v : GVal) : (s.wrG d l v).lostLinks = s.lostLinks := rfl
@[simp] theorem State.wrG_acct (s : State) (d : Dst) (l : Nat) (v : GVal) : (s.wrG d l v).acct = s.acct := rfl
@[simp] theorem State.wrG_energyRem (s : State) (d : Dst) (l : Nat) (v : GVal) : (s.wrG d l v).energyRem = s.energyRem := rfl
@[simp] theorem State.wrG_held (s : State) (d : Dst) (l : Nat) (v : GVal) : (s.wrG d l v).held = s.held := rfl
@[simp] theorem State.wrG_idleEnergy (s : State) (d : Dst) (l : Nat) (v : GVal) : (s.wrG d l v).idleEnergy = s.idleEnergy := rfl
@[simp] theorem State.wrG_nightdly (s : State) (d : Dst) (l : Nat) (v : GVal) : (s.wrG d l v).nightdly = s.nightdly := rfl
@[simp] theorem State.wrG_govmode (s : State) (d : Dst) (l : Nat) (v : GVal) : (s.wrG d l v).govmode = s.govmode := rfl
@[simp] theorem State.wrG_updPend (s : State) (d : Dst) (l : Nat) (v : GVal) : (s.wrG d l v).updPend = s.updPend := rfl
@[simp] theorem State.wrG_lastKick (s : State) (d : Dst) (l : Nat) (v : GVal) : (s.wrG d l v).lastKick = s.lastKick := rfl
@[simp] theorem State.wrG_boot (s : State) (d : Dst) (l : Nat) (v : GVal) : (s.wrG d l v).boot = s.boot := rfl
@[simp] theorem State.wrG_image (s : State) (d : Dst) (l : Nat) (v : GVal) : (s.wrG d l v).image = s.image := rfl
@[simp] theorem State.wrG_free (s : State) (d : Dst) (l : Nat) (v : GVal) : (s.wrG d l v).free = s.free := rfl
@[simp] theorem State.wrG_nextId (s : State) (d : Dst) (l : Nat) (v : GVal) : (s.wrG d l v).nextId = s.nextId := rfl

/-! ### wrV changes `ctxs` alone -/

@[simp] theorem State.wrV_clock (s : State) (d : Dst) (l : Nat) (v : VVal) : (s.wrV d l v).clock = s.clock := rfl
@[simp] theorem State.wrV_inputs (s : State) (d : Dst) (l : Nat) (v : VVal) : (s.wrV d l v).inputs = s.inputs := rfl
@[simp] theorem State.wrV_agenda (s : State) (d : Dst) (l : Nat) (v : VVal) : (s.wrV d l v).agenda = s.agenda := rfl
@[simp] theorem State.wrV_iss (s : State) (d : Dst) (l : Nat) (v : VVal) : (s.wrV d l v).iss = s.iss := rfl
@[simp] theorem State.wrV_mem (s : State) (d : Dst) (l : Nat) (v : VVal) : (s.wrV d l v).mem = s.mem := rfl
@[simp] theorem State.wrV_full (s : State) (d : Dst) (l : Nat) (v : VVal) : (s.wrV d l v).full = s.full := rfl
@[simp] theorem State.wrV_loc (s : State) (d : Dst) (l : Nat) (v : VVal) : (s.wrV d l v).loc = s.loc := rfl
@[simp] theorem State.wrV_locFull (s : State) (d : Dst) (l : Nat) (v : VVal) : (s.wrV d l v).locFull = s.locFull := rfl
@[simp] theorem State.wrV_host0 (s : State) (d : Dst) (l : Nat) (v : VVal) : (s.wrV d l v).host0 = s.host0 := rfl
@[simp] theorem State.wrV_host1 (s : State) (d : Dst) (l : Nat) (v : VVal) : (s.wrV d l v).host1 = s.host1 := rfl
@[simp] theorem State.wrV_bad (s : State) (d : Dst) (l : Nat) (v : VVal) : (s.wrV d l v).bad = s.bad := rfl
@[simp] theorem State.wrV_locBad (s : State) (d : Dst) (l : Nat) (v : VVal) : (s.wrV d l v).locBad = s.locBad := rfl
@[simp] theorem State.wrV_cores (s : State) (d : Dst) (l : Nat) (v : VVal) : (s.wrV d l v).cores = s.cores := rfl
@[simp] theorem State.wrV_clusters (s : State) (d : Dst) (l : Nat) (v : VVal) : (s.wrV d l v).clusters = s.clusters := rfl
@[simp] theorem State.wrV_dies (s : State) (d : Dst) (l : Nat) (v : VVal) : (s.wrV d l v).dies = s.dies := rfl
@[simp] theorem State.wrV_therm (s : State) (d : Dst) (l : Nat) (v : VVal) : (s.wrV d l v).therm = s.therm := rfl
@[simp] theorem State.wrV_tasks (s : State) (d : Dst) (l : Nat) (v : VVal) : (s.wrV d l v).tasks = s.tasks := rfl
@[simp] theorem State.wrV_records (s : State) (d : Dst) (l : Nat) (v : VVal) : (s.wrV d l v).records = s.records := rfl
@[simp] theorem State.wrV_cmds (s : State) (d : Dst) (l : Nat) (v : VVal) : (s.wrV d l v).cmds = s.cmds := rfl
@[simp] theorem State.wrV_reds (s : State) (d : Dst) (l : Nat) (v : VVal) : (s.wrV d l v).reds = s.reds := rfl
@[simp] theorem State.wrV_mix (s : State) (d : Dst) (l : Nat) (v : VVal) : (s.wrV d l v).mix = s.mix := rfl
@[simp] theorem State.wrV_fns (s : State) (d : Dst) (l : Nat) (v : VVal) : (s.wrV d l v).fns = s.fns := rfl
@[simp] theorem State.wrV_funcJob (s : State) (d : Dst) (l : Nat) (v : VVal) : (s.wrV d l v).funcJob = s.funcJob := rfl
@[simp] theorem State.wrV_sems (s : State) (d : Dst) (l : Nat) (v : VVal) : (s.wrV d l v).sems = s.sems := rfl
@[simp] theorem State.wrV_tie (s : State) (d : Dst) (l : Nat) (v : VVal) : (s.wrV d l v).tie = s.tie := rfl
@[simp] theorem State.wrV_irqs (s : State) (d : Dst) (l : Nat) (v : VVal) : (s.wrV d l v).irqs = s.irqs := rfl
@[simp] theorem State.wrV_completions (s : State) (d : Dst) (l : Nat) (v : VVal) : (s.wrV d l v).completions = s.completions := rfl
@[simp] theorem State.wrV_linkUp (s : State) (d : Dst) (l : Nat) (v : VVal) : (s.wrV d l v).linkUp = s.linkUp := rfl
@[simp] theorem State.wrV_linkFlit (s : State) (d : Dst) (l : Nat) (v : VVal) : (s.wrV d l v).linkFlit = s.linkFlit := rfl
@[simp] theorem State.wrV_i3cAddr (s : State) (d : Dst) (l : Nat) (v : VVal) : (s.wrV d l v).i3cAddr = s.i3cAddr := rfl
@[simp] theorem State.wrV_mgmtOut (s : State) (d : Dst) (l : Nat) (v : VVal) : (s.wrV d l v).mgmtOut = s.mgmtOut := rfl
@[simp] theorem State.wrV_powerIrqs (s : State) (d : Dst) (l : Nat) (v : VVal) : (s.wrV d l v).powerIrqs = s.powerIrqs := rfl
@[simp] theorem State.wrV_spdm (s : State) (d : Dst) (l : Nat) (v : VVal) : (s.wrV d l v).spdm = s.spdm := rfl
@[simp] theorem State.wrV_mail (s : State) (d : Dst) (l : Nat) (v : VVal) : (s.wrV d l v).mail = s.mail := rfl
@[simp] theorem State.wrV_keys (s : State) (d : Dst) (l : Nat) (v : VVal) : (s.wrV d l v).keys = s.keys := rfl
@[simp] theorem State.wrV_tamper (s : State) (d : Dst) (l : Nat) (v : VVal) : (s.wrV d l v).tamper = s.tamper := rfl
@[simp] theorem State.wrV_seals (s : State) (d : Dst) (l : Nat) (v : VVal) : (s.wrV d l v).seals = s.seals := rfl
@[simp] theorem State.wrV_wear (s : State) (d : Dst) (l : Nat) (v : VVal) : (s.wrV d l v).wear = s.wear := rfl
@[simp] theorem State.wrV_ports (s : State) (d : Dst) (l : Nat) (v : VVal) : (s.wrV d l v).ports = s.ports := rfl
@[simp] theorem State.wrV_outReqs (s : State) (d : Dst) (l : Nat) (v : VVal) : (s.wrV d l v).outReqs = s.outReqs := rfl
@[simp] theorem State.wrV_seqs (s : State) (d : Dst) (l : Nat) (v : VVal) : (s.wrV d l v).seqs = s.seqs := rfl
@[simp] theorem State.wrV_applied (s : State) (d : Dst) (l : Nat) (v : VVal) : (s.wrV d l v).applied = s.applied := rfl
@[simp] theorem State.wrV_replies (s : State) (d : Dst) (l : Nat) (v : VVal) : (s.wrV d l v).replies = s.replies := rfl
@[simp] theorem State.wrV_repliesDue (s : State) (d : Dst) (l : Nat) (v : VVal) : (s.wrV d l v).repliesDue = s.repliesDue := rfl
@[simp] theorem State.wrV_lostLinks (s : State) (d : Dst) (l : Nat) (v : VVal) : (s.wrV d l v).lostLinks = s.lostLinks := rfl
@[simp] theorem State.wrV_acct (s : State) (d : Dst) (l : Nat) (v : VVal) : (s.wrV d l v).acct = s.acct := rfl
@[simp] theorem State.wrV_energyRem (s : State) (d : Dst) (l : Nat) (v : VVal) : (s.wrV d l v).energyRem = s.energyRem := rfl
@[simp] theorem State.wrV_held (s : State) (d : Dst) (l : Nat) (v : VVal) : (s.wrV d l v).held = s.held := rfl
@[simp] theorem State.wrV_idleEnergy (s : State) (d : Dst) (l : Nat) (v : VVal) : (s.wrV d l v).idleEnergy = s.idleEnergy := rfl
@[simp] theorem State.wrV_nightdly (s : State) (d : Dst) (l : Nat) (v : VVal) : (s.wrV d l v).nightdly = s.nightdly := rfl
@[simp] theorem State.wrV_govmode (s : State) (d : Dst) (l : Nat) (v : VVal) : (s.wrV d l v).govmode = s.govmode := rfl
@[simp] theorem State.wrV_updPend (s : State) (d : Dst) (l : Nat) (v : VVal) : (s.wrV d l v).updPend = s.updPend := rfl
@[simp] theorem State.wrV_lastKick (s : State) (d : Dst) (l : Nat) (v : VVal) : (s.wrV d l v).lastKick = s.lastKick := rfl
@[simp] theorem State.wrV_boot (s : State) (d : Dst) (l : Nat) (v : VVal) : (s.wrV d l v).boot = s.boot := rfl
@[simp] theorem State.wrV_image (s : State) (d : Dst) (l : Nat) (v : VVal) : (s.wrV d l v).image = s.image := rfl
@[simp] theorem State.wrV_free (s : State) (d : Dst) (l : Nat) (v : VVal) : (s.wrV d l v).free = s.free := rfl
@[simp] theorem State.wrV_nextId (s : State) (d : Dst) (l : Nat) (v : VVal) : (s.wrV d l v).nextId = s.nextId := rfl

/-! ### wrK changes `ctxs` alone -/

@[simp] theorem State.wrK_clock (s : State) (d : Dst) (l : Nat) (m : BitVec 256) : (s.wrK d l m).clock = s.clock := rfl
@[simp] theorem State.wrK_inputs (s : State) (d : Dst) (l : Nat) (m : BitVec 256) : (s.wrK d l m).inputs = s.inputs := rfl
@[simp] theorem State.wrK_agenda (s : State) (d : Dst) (l : Nat) (m : BitVec 256) : (s.wrK d l m).agenda = s.agenda := rfl
@[simp] theorem State.wrK_iss (s : State) (d : Dst) (l : Nat) (m : BitVec 256) : (s.wrK d l m).iss = s.iss := rfl
@[simp] theorem State.wrK_mem (s : State) (d : Dst) (l : Nat) (m : BitVec 256) : (s.wrK d l m).mem = s.mem := rfl
@[simp] theorem State.wrK_full (s : State) (d : Dst) (l : Nat) (m : BitVec 256) : (s.wrK d l m).full = s.full := rfl
@[simp] theorem State.wrK_loc (s : State) (d : Dst) (l : Nat) (m : BitVec 256) : (s.wrK d l m).loc = s.loc := rfl
@[simp] theorem State.wrK_locFull (s : State) (d : Dst) (l : Nat) (m : BitVec 256) : (s.wrK d l m).locFull = s.locFull := rfl
@[simp] theorem State.wrK_host0 (s : State) (d : Dst) (l : Nat) (m : BitVec 256) : (s.wrK d l m).host0 = s.host0 := rfl
@[simp] theorem State.wrK_host1 (s : State) (d : Dst) (l : Nat) (m : BitVec 256) : (s.wrK d l m).host1 = s.host1 := rfl
@[simp] theorem State.wrK_bad (s : State) (d : Dst) (l : Nat) (m : BitVec 256) : (s.wrK d l m).bad = s.bad := rfl
@[simp] theorem State.wrK_locBad (s : State) (d : Dst) (l : Nat) (m : BitVec 256) : (s.wrK d l m).locBad = s.locBad := rfl
@[simp] theorem State.wrK_cores (s : State) (d : Dst) (l : Nat) (m : BitVec 256) : (s.wrK d l m).cores = s.cores := rfl
@[simp] theorem State.wrK_clusters (s : State) (d : Dst) (l : Nat) (m : BitVec 256) : (s.wrK d l m).clusters = s.clusters := rfl
@[simp] theorem State.wrK_dies (s : State) (d : Dst) (l : Nat) (m : BitVec 256) : (s.wrK d l m).dies = s.dies := rfl
@[simp] theorem State.wrK_therm (s : State) (d : Dst) (l : Nat) (m : BitVec 256) : (s.wrK d l m).therm = s.therm := rfl
@[simp] theorem State.wrK_tasks (s : State) (d : Dst) (l : Nat) (m : BitVec 256) : (s.wrK d l m).tasks = s.tasks := rfl
@[simp] theorem State.wrK_records (s : State) (d : Dst) (l : Nat) (m : BitVec 256) : (s.wrK d l m).records = s.records := rfl
@[simp] theorem State.wrK_cmds (s : State) (d : Dst) (l : Nat) (m : BitVec 256) : (s.wrK d l m).cmds = s.cmds := rfl
@[simp] theorem State.wrK_reds (s : State) (d : Dst) (l : Nat) (m : BitVec 256) : (s.wrK d l m).reds = s.reds := rfl
@[simp] theorem State.wrK_mix (s : State) (d : Dst) (l : Nat) (m : BitVec 256) : (s.wrK d l m).mix = s.mix := rfl
@[simp] theorem State.wrK_fns (s : State) (d : Dst) (l : Nat) (m : BitVec 256) : (s.wrK d l m).fns = s.fns := rfl
@[simp] theorem State.wrK_funcJob (s : State) (d : Dst) (l : Nat) (m : BitVec 256) : (s.wrK d l m).funcJob = s.funcJob := rfl
@[simp] theorem State.wrK_sems (s : State) (d : Dst) (l : Nat) (m : BitVec 256) : (s.wrK d l m).sems = s.sems := rfl
@[simp] theorem State.wrK_tie (s : State) (d : Dst) (l : Nat) (m : BitVec 256) : (s.wrK d l m).tie = s.tie := rfl
@[simp] theorem State.wrK_irqs (s : State) (d : Dst) (l : Nat) (m : BitVec 256) : (s.wrK d l m).irqs = s.irqs := rfl
@[simp] theorem State.wrK_completions (s : State) (d : Dst) (l : Nat) (m : BitVec 256) : (s.wrK d l m).completions = s.completions := rfl
@[simp] theorem State.wrK_linkUp (s : State) (d : Dst) (l : Nat) (m : BitVec 256) : (s.wrK d l m).linkUp = s.linkUp := rfl
@[simp] theorem State.wrK_linkFlit (s : State) (d : Dst) (l : Nat) (m : BitVec 256) : (s.wrK d l m).linkFlit = s.linkFlit := rfl
@[simp] theorem State.wrK_i3cAddr (s : State) (d : Dst) (l : Nat) (m : BitVec 256) : (s.wrK d l m).i3cAddr = s.i3cAddr := rfl
@[simp] theorem State.wrK_mgmtOut (s : State) (d : Dst) (l : Nat) (m : BitVec 256) : (s.wrK d l m).mgmtOut = s.mgmtOut := rfl
@[simp] theorem State.wrK_powerIrqs (s : State) (d : Dst) (l : Nat) (m : BitVec 256) : (s.wrK d l m).powerIrqs = s.powerIrqs := rfl
@[simp] theorem State.wrK_spdm (s : State) (d : Dst) (l : Nat) (m : BitVec 256) : (s.wrK d l m).spdm = s.spdm := rfl
@[simp] theorem State.wrK_mail (s : State) (d : Dst) (l : Nat) (m : BitVec 256) : (s.wrK d l m).mail = s.mail := rfl
@[simp] theorem State.wrK_keys (s : State) (d : Dst) (l : Nat) (m : BitVec 256) : (s.wrK d l m).keys = s.keys := rfl
@[simp] theorem State.wrK_tamper (s : State) (d : Dst) (l : Nat) (m : BitVec 256) : (s.wrK d l m).tamper = s.tamper := rfl
@[simp] theorem State.wrK_seals (s : State) (d : Dst) (l : Nat) (m : BitVec 256) : (s.wrK d l m).seals = s.seals := rfl
@[simp] theorem State.wrK_wear (s : State) (d : Dst) (l : Nat) (m : BitVec 256) : (s.wrK d l m).wear = s.wear := rfl
@[simp] theorem State.wrK_ports (s : State) (d : Dst) (l : Nat) (m : BitVec 256) : (s.wrK d l m).ports = s.ports := rfl
@[simp] theorem State.wrK_outReqs (s : State) (d : Dst) (l : Nat) (m : BitVec 256) : (s.wrK d l m).outReqs = s.outReqs := rfl
@[simp] theorem State.wrK_seqs (s : State) (d : Dst) (l : Nat) (m : BitVec 256) : (s.wrK d l m).seqs = s.seqs := rfl
@[simp] theorem State.wrK_applied (s : State) (d : Dst) (l : Nat) (m : BitVec 256) : (s.wrK d l m).applied = s.applied := rfl
@[simp] theorem State.wrK_replies (s : State) (d : Dst) (l : Nat) (m : BitVec 256) : (s.wrK d l m).replies = s.replies := rfl
@[simp] theorem State.wrK_repliesDue (s : State) (d : Dst) (l : Nat) (m : BitVec 256) : (s.wrK d l m).repliesDue = s.repliesDue := rfl
@[simp] theorem State.wrK_lostLinks (s : State) (d : Dst) (l : Nat) (m : BitVec 256) : (s.wrK d l m).lostLinks = s.lostLinks := rfl
@[simp] theorem State.wrK_acct (s : State) (d : Dst) (l : Nat) (m : BitVec 256) : (s.wrK d l m).acct = s.acct := rfl
@[simp] theorem State.wrK_energyRem (s : State) (d : Dst) (l : Nat) (m : BitVec 256) : (s.wrK d l m).energyRem = s.energyRem := rfl
@[simp] theorem State.wrK_held (s : State) (d : Dst) (l : Nat) (m : BitVec 256) : (s.wrK d l m).held = s.held := rfl
@[simp] theorem State.wrK_idleEnergy (s : State) (d : Dst) (l : Nat) (m : BitVec 256) : (s.wrK d l m).idleEnergy = s.idleEnergy := rfl
@[simp] theorem State.wrK_nightdly (s : State) (d : Dst) (l : Nat) (m : BitVec 256) : (s.wrK d l m).nightdly = s.nightdly := rfl
@[simp] theorem State.wrK_govmode (s : State) (d : Dst) (l : Nat) (m : BitVec 256) : (s.wrK d l m).govmode = s.govmode := rfl
@[simp] theorem State.wrK_updPend (s : State) (d : Dst) (l : Nat) (m : BitVec 256) : (s.wrK d l m).updPend = s.updPend := rfl
@[simp] theorem State.wrK_lastKick (s : State) (d : Dst) (l : Nat) (m : BitVec 256) : (s.wrK d l m).lastKick = s.lastKick := rfl
@[simp] theorem State.wrK_boot (s : State) (d : Dst) (l : Nat) (m : BitVec 256) : (s.wrK d l m).boot = s.boot := rfl
@[simp] theorem State.wrK_image (s : State) (d : Dst) (l : Nat) (m : BitVec 256) : (s.wrK d l m).image = s.image := rfl
@[simp] theorem State.wrK_free (s : State) (d : Dst) (l : Nat) (m : BitVec 256) : (s.wrK d l m).free = s.free := rfl
@[simp] theorem State.wrK_nextId (s : State) (d : Dst) (l : Nat) (m : BitVec 256) : (s.wrK d l m).nextId = s.nextId := rfl

/-! ### wrQ changes `ctxs` alone -/

@[simp] theorem State.wrQ_clock (s : State) (n : BitVec 3) (v : Bool) : (s.wrQ n v).clock = s.clock := rfl
@[simp] theorem State.wrQ_inputs (s : State) (n : BitVec 3) (v : Bool) : (s.wrQ n v).inputs = s.inputs := rfl
@[simp] theorem State.wrQ_agenda (s : State) (n : BitVec 3) (v : Bool) : (s.wrQ n v).agenda = s.agenda := rfl
@[simp] theorem State.wrQ_iss (s : State) (n : BitVec 3) (v : Bool) : (s.wrQ n v).iss = s.iss := rfl
@[simp] theorem State.wrQ_mem (s : State) (n : BitVec 3) (v : Bool) : (s.wrQ n v).mem = s.mem := rfl
@[simp] theorem State.wrQ_full (s : State) (n : BitVec 3) (v : Bool) : (s.wrQ n v).full = s.full := rfl
@[simp] theorem State.wrQ_loc (s : State) (n : BitVec 3) (v : Bool) : (s.wrQ n v).loc = s.loc := rfl
@[simp] theorem State.wrQ_locFull (s : State) (n : BitVec 3) (v : Bool) : (s.wrQ n v).locFull = s.locFull := rfl
@[simp] theorem State.wrQ_host0 (s : State) (n : BitVec 3) (v : Bool) : (s.wrQ n v).host0 = s.host0 := rfl
@[simp] theorem State.wrQ_host1 (s : State) (n : BitVec 3) (v : Bool) : (s.wrQ n v).host1 = s.host1 := rfl
@[simp] theorem State.wrQ_bad (s : State) (n : BitVec 3) (v : Bool) : (s.wrQ n v).bad = s.bad := rfl
@[simp] theorem State.wrQ_locBad (s : State) (n : BitVec 3) (v : Bool) : (s.wrQ n v).locBad = s.locBad := rfl
@[simp] theorem State.wrQ_cores (s : State) (n : BitVec 3) (v : Bool) : (s.wrQ n v).cores = s.cores := rfl
@[simp] theorem State.wrQ_clusters (s : State) (n : BitVec 3) (v : Bool) : (s.wrQ n v).clusters = s.clusters := rfl
@[simp] theorem State.wrQ_dies (s : State) (n : BitVec 3) (v : Bool) : (s.wrQ n v).dies = s.dies := rfl
@[simp] theorem State.wrQ_therm (s : State) (n : BitVec 3) (v : Bool) : (s.wrQ n v).therm = s.therm := rfl
@[simp] theorem State.wrQ_tasks (s : State) (n : BitVec 3) (v : Bool) : (s.wrQ n v).tasks = s.tasks := rfl
@[simp] theorem State.wrQ_records (s : State) (n : BitVec 3) (v : Bool) : (s.wrQ n v).records = s.records := rfl
@[simp] theorem State.wrQ_cmds (s : State) (n : BitVec 3) (v : Bool) : (s.wrQ n v).cmds = s.cmds := rfl
@[simp] theorem State.wrQ_reds (s : State) (n : BitVec 3) (v : Bool) : (s.wrQ n v).reds = s.reds := rfl
@[simp] theorem State.wrQ_mix (s : State) (n : BitVec 3) (v : Bool) : (s.wrQ n v).mix = s.mix := rfl
@[simp] theorem State.wrQ_fns (s : State) (n : BitVec 3) (v : Bool) : (s.wrQ n v).fns = s.fns := rfl
@[simp] theorem State.wrQ_funcJob (s : State) (n : BitVec 3) (v : Bool) : (s.wrQ n v).funcJob = s.funcJob := rfl
@[simp] theorem State.wrQ_sems (s : State) (n : BitVec 3) (v : Bool) : (s.wrQ n v).sems = s.sems := rfl
@[simp] theorem State.wrQ_tie (s : State) (n : BitVec 3) (v : Bool) : (s.wrQ n v).tie = s.tie := rfl
@[simp] theorem State.wrQ_irqs (s : State) (n : BitVec 3) (v : Bool) : (s.wrQ n v).irqs = s.irqs := rfl
@[simp] theorem State.wrQ_completions (s : State) (n : BitVec 3) (v : Bool) : (s.wrQ n v).completions = s.completions := rfl
@[simp] theorem State.wrQ_linkUp (s : State) (n : BitVec 3) (v : Bool) : (s.wrQ n v).linkUp = s.linkUp := rfl
@[simp] theorem State.wrQ_linkFlit (s : State) (n : BitVec 3) (v : Bool) : (s.wrQ n v).linkFlit = s.linkFlit := rfl
@[simp] theorem State.wrQ_i3cAddr (s : State) (n : BitVec 3) (v : Bool) : (s.wrQ n v).i3cAddr = s.i3cAddr := rfl
@[simp] theorem State.wrQ_mgmtOut (s : State) (n : BitVec 3) (v : Bool) : (s.wrQ n v).mgmtOut = s.mgmtOut := rfl
@[simp] theorem State.wrQ_powerIrqs (s : State) (n : BitVec 3) (v : Bool) : (s.wrQ n v).powerIrqs = s.powerIrqs := rfl
@[simp] theorem State.wrQ_spdm (s : State) (n : BitVec 3) (v : Bool) : (s.wrQ n v).spdm = s.spdm := rfl
@[simp] theorem State.wrQ_mail (s : State) (n : BitVec 3) (v : Bool) : (s.wrQ n v).mail = s.mail := rfl
@[simp] theorem State.wrQ_keys (s : State) (n : BitVec 3) (v : Bool) : (s.wrQ n v).keys = s.keys := rfl
@[simp] theorem State.wrQ_tamper (s : State) (n : BitVec 3) (v : Bool) : (s.wrQ n v).tamper = s.tamper := rfl
@[simp] theorem State.wrQ_seals (s : State) (n : BitVec 3) (v : Bool) : (s.wrQ n v).seals = s.seals := rfl
@[simp] theorem State.wrQ_wear (s : State) (n : BitVec 3) (v : Bool) : (s.wrQ n v).wear = s.wear := rfl
@[simp] theorem State.wrQ_ports (s : State) (n : BitVec 3) (v : Bool) : (s.wrQ n v).ports = s.ports := rfl
@[simp] theorem State.wrQ_outReqs (s : State) (n : BitVec 3) (v : Bool) : (s.wrQ n v).outReqs = s.outReqs := rfl
@[simp] theorem State.wrQ_seqs (s : State) (n : BitVec 3) (v : Bool) : (s.wrQ n v).seqs = s.seqs := rfl
@[simp] theorem State.wrQ_applied (s : State) (n : BitVec 3) (v : Bool) : (s.wrQ n v).applied = s.applied := rfl
@[simp] theorem State.wrQ_replies (s : State) (n : BitVec 3) (v : Bool) : (s.wrQ n v).replies = s.replies := rfl
@[simp] theorem State.wrQ_repliesDue (s : State) (n : BitVec 3) (v : Bool) : (s.wrQ n v).repliesDue = s.repliesDue := rfl
@[simp] theorem State.wrQ_lostLinks (s : State) (n : BitVec 3) (v : Bool) : (s.wrQ n v).lostLinks = s.lostLinks := rfl
@[simp] theorem State.wrQ_acct (s : State) (n : BitVec 3) (v : Bool) : (s.wrQ n v).acct = s.acct := rfl
@[simp] theorem State.wrQ_energyRem (s : State) (n : BitVec 3) (v : Bool) : (s.wrQ n v).energyRem = s.energyRem := rfl
@[simp] theorem State.wrQ_held (s : State) (n : BitVec 3) (v : Bool) : (s.wrQ n v).held = s.held := rfl
@[simp] theorem State.wrQ_idleEnergy (s : State) (n : BitVec 3) (v : Bool) : (s.wrQ n v).idleEnergy = s.idleEnergy := rfl
@[simp] theorem State.wrQ_nightdly (s : State) (n : BitVec 3) (v : Bool) : (s.wrQ n v).nightdly = s.nightdly := rfl
@[simp] theorem State.wrQ_govmode (s : State) (n : BitVec 3) (v : Bool) : (s.wrQ n v).govmode = s.govmode := rfl
@[simp] theorem State.wrQ_updPend (s : State) (n : BitVec 3) (v : Bool) : (s.wrQ n v).updPend = s.updPend := rfl
@[simp] theorem State.wrQ_lastKick (s : State) (n : BitVec 3) (v : Bool) : (s.wrQ n v).lastKick = s.lastKick := rfl
@[simp] theorem State.wrQ_boot (s : State) (n : BitVec 3) (v : Bool) : (s.wrQ n v).boot = s.boot := rfl
@[simp] theorem State.wrQ_image (s : State) (n : BitVec 3) (v : Bool) : (s.wrQ n v).image = s.image := rfl
@[simp] theorem State.wrQ_free (s : State) (n : BitVec 3) (v : Bool) : (s.wrQ n v).free = s.free := rfl
@[simp] theorem State.wrQ_nextId (s : State) (n : BitVec 3) (v : Bool) : (s.wrQ n v).nextId = s.nextId := rfl

/-! ### setEvt changes `ctxs` alone -/

@[simp] theorem State.setEvt_clock (s : State) (cx n : Nat) : (s.setEvt cx n).clock = s.clock := rfl
@[simp] theorem State.setEvt_inputs (s : State) (cx n : Nat) : (s.setEvt cx n).inputs = s.inputs := rfl
@[simp] theorem State.setEvt_agenda (s : State) (cx n : Nat) : (s.setEvt cx n).agenda = s.agenda := rfl
@[simp] theorem State.setEvt_iss (s : State) (cx n : Nat) : (s.setEvt cx n).iss = s.iss := rfl
@[simp] theorem State.setEvt_mem (s : State) (cx n : Nat) : (s.setEvt cx n).mem = s.mem := rfl
@[simp] theorem State.setEvt_full (s : State) (cx n : Nat) : (s.setEvt cx n).full = s.full := rfl
@[simp] theorem State.setEvt_loc (s : State) (cx n : Nat) : (s.setEvt cx n).loc = s.loc := rfl
@[simp] theorem State.setEvt_locFull (s : State) (cx n : Nat) : (s.setEvt cx n).locFull = s.locFull := rfl
@[simp] theorem State.setEvt_host0 (s : State) (cx n : Nat) : (s.setEvt cx n).host0 = s.host0 := rfl
@[simp] theorem State.setEvt_host1 (s : State) (cx n : Nat) : (s.setEvt cx n).host1 = s.host1 := rfl
@[simp] theorem State.setEvt_bad (s : State) (cx n : Nat) : (s.setEvt cx n).bad = s.bad := rfl
@[simp] theorem State.setEvt_locBad (s : State) (cx n : Nat) : (s.setEvt cx n).locBad = s.locBad := rfl
@[simp] theorem State.setEvt_cores (s : State) (cx n : Nat) : (s.setEvt cx n).cores = s.cores := rfl
@[simp] theorem State.setEvt_clusters (s : State) (cx n : Nat) : (s.setEvt cx n).clusters = s.clusters := rfl
@[simp] theorem State.setEvt_dies (s : State) (cx n : Nat) : (s.setEvt cx n).dies = s.dies := rfl
@[simp] theorem State.setEvt_therm (s : State) (cx n : Nat) : (s.setEvt cx n).therm = s.therm := rfl
@[simp] theorem State.setEvt_tasks (s : State) (cx n : Nat) : (s.setEvt cx n).tasks = s.tasks := rfl
@[simp] theorem State.setEvt_records (s : State) (cx n : Nat) : (s.setEvt cx n).records = s.records := rfl
@[simp] theorem State.setEvt_cmds (s : State) (cx n : Nat) : (s.setEvt cx n).cmds = s.cmds := rfl
@[simp] theorem State.setEvt_reds (s : State) (cx n : Nat) : (s.setEvt cx n).reds = s.reds := rfl
@[simp] theorem State.setEvt_mix (s : State) (cx n : Nat) : (s.setEvt cx n).mix = s.mix := rfl
@[simp] theorem State.setEvt_fns (s : State) (cx n : Nat) : (s.setEvt cx n).fns = s.fns := rfl
@[simp] theorem State.setEvt_funcJob (s : State) (cx n : Nat) : (s.setEvt cx n).funcJob = s.funcJob := rfl
@[simp] theorem State.setEvt_sems (s : State) (cx n : Nat) : (s.setEvt cx n).sems = s.sems := rfl
@[simp] theorem State.setEvt_tie (s : State) (cx n : Nat) : (s.setEvt cx n).tie = s.tie := rfl
@[simp] theorem State.setEvt_irqs (s : State) (cx n : Nat) : (s.setEvt cx n).irqs = s.irqs := rfl
@[simp] theorem State.setEvt_completions (s : State) (cx n : Nat) : (s.setEvt cx n).completions = s.completions := rfl
@[simp] theorem State.setEvt_linkUp (s : State) (cx n : Nat) : (s.setEvt cx n).linkUp = s.linkUp := rfl
@[simp] theorem State.setEvt_linkFlit (s : State) (cx n : Nat) : (s.setEvt cx n).linkFlit = s.linkFlit := rfl
@[simp] theorem State.setEvt_i3cAddr (s : State) (cx n : Nat) : (s.setEvt cx n).i3cAddr = s.i3cAddr := rfl
@[simp] theorem State.setEvt_mgmtOut (s : State) (cx n : Nat) : (s.setEvt cx n).mgmtOut = s.mgmtOut := rfl
@[simp] theorem State.setEvt_powerIrqs (s : State) (cx n : Nat) : (s.setEvt cx n).powerIrqs = s.powerIrqs := rfl
@[simp] theorem State.setEvt_spdm (s : State) (cx n : Nat) : (s.setEvt cx n).spdm = s.spdm := rfl
@[simp] theorem State.setEvt_mail (s : State) (cx n : Nat) : (s.setEvt cx n).mail = s.mail := rfl
@[simp] theorem State.setEvt_keys (s : State) (cx n : Nat) : (s.setEvt cx n).keys = s.keys := rfl
@[simp] theorem State.setEvt_tamper (s : State) (cx n : Nat) : (s.setEvt cx n).tamper = s.tamper := rfl
@[simp] theorem State.setEvt_seals (s : State) (cx n : Nat) : (s.setEvt cx n).seals = s.seals := rfl
@[simp] theorem State.setEvt_wear (s : State) (cx n : Nat) : (s.setEvt cx n).wear = s.wear := rfl
@[simp] theorem State.setEvt_ports (s : State) (cx n : Nat) : (s.setEvt cx n).ports = s.ports := rfl
@[simp] theorem State.setEvt_outReqs (s : State) (cx n : Nat) : (s.setEvt cx n).outReqs = s.outReqs := rfl
@[simp] theorem State.setEvt_seqs (s : State) (cx n : Nat) : (s.setEvt cx n).seqs = s.seqs := rfl
@[simp] theorem State.setEvt_applied (s : State) (cx n : Nat) : (s.setEvt cx n).applied = s.applied := rfl
@[simp] theorem State.setEvt_replies (s : State) (cx n : Nat) : (s.setEvt cx n).replies = s.replies := rfl
@[simp] theorem State.setEvt_repliesDue (s : State) (cx n : Nat) : (s.setEvt cx n).repliesDue = s.repliesDue := rfl
@[simp] theorem State.setEvt_lostLinks (s : State) (cx n : Nat) : (s.setEvt cx n).lostLinks = s.lostLinks := rfl
@[simp] theorem State.setEvt_acct (s : State) (cx n : Nat) : (s.setEvt cx n).acct = s.acct := rfl
@[simp] theorem State.setEvt_energyRem (s : State) (cx n : Nat) : (s.setEvt cx n).energyRem = s.energyRem := rfl
@[simp] theorem State.setEvt_held (s : State) (cx n : Nat) : (s.setEvt cx n).held = s.held := rfl
@[simp] theorem State.setEvt_idleEnergy (s : State) (cx n : Nat) : (s.setEvt cx n).idleEnergy = s.idleEnergy := rfl
@[simp] theorem State.setEvt_nightdly (s : State) (cx n : Nat) : (s.setEvt cx n).nightdly = s.nightdly := rfl
@[simp] theorem State.setEvt_govmode (s : State) (cx n : Nat) : (s.setEvt cx n).govmode = s.govmode := rfl
@[simp] theorem State.setEvt_updPend (s : State) (cx n : Nat) : (s.setEvt cx n).updPend = s.updPend := rfl
@[simp] theorem State.setEvt_lastKick (s : State) (cx n : Nat) : (s.setEvt cx n).lastKick = s.lastKick := rfl
@[simp] theorem State.setEvt_boot (s : State) (cx n : Nat) : (s.setEvt cx n).boot = s.boot := rfl
@[simp] theorem State.setEvt_image (s : State) (cx n : Nat) : (s.setEvt cx n).image = s.image := rfl
@[simp] theorem State.setEvt_free (s : State) (cx n : Nat) : (s.setEvt cx n).free = s.free := rfl
@[simp] theorem State.setEvt_nextId (s : State) (cx n : Nat) : (s.setEvt cx n).nextId = s.nextId := rfl

/-! ### countSlot changes `acct` alone -/

@[simp] theorem State.countSlot_clock (s : State) (k : Nat) (c : Counter) (n : Nat) : (s.countSlot k c n).clock = s.clock := rfl
@[simp] theorem State.countSlot_inputs (s : State) (k : Nat) (c : Counter) (n : Nat) : (s.countSlot k c n).inputs = s.inputs := rfl
@[simp] theorem State.countSlot_agenda (s : State) (k : Nat) (c : Counter) (n : Nat) : (s.countSlot k c n).agenda = s.agenda := rfl
@[simp] theorem State.countSlot_iss (s : State) (k : Nat) (c : Counter) (n : Nat) : (s.countSlot k c n).iss = s.iss := rfl
@[simp] theorem State.countSlot_mem (s : State) (k : Nat) (c : Counter) (n : Nat) : (s.countSlot k c n).mem = s.mem := rfl
@[simp] theorem State.countSlot_full (s : State) (k : Nat) (c : Counter) (n : Nat) : (s.countSlot k c n).full = s.full := rfl
@[simp] theorem State.countSlot_loc (s : State) (k : Nat) (c : Counter) (n : Nat) : (s.countSlot k c n).loc = s.loc := rfl
@[simp] theorem State.countSlot_locFull (s : State) (k : Nat) (c : Counter) (n : Nat) : (s.countSlot k c n).locFull = s.locFull := rfl
@[simp] theorem State.countSlot_host0 (s : State) (k : Nat) (c : Counter) (n : Nat) : (s.countSlot k c n).host0 = s.host0 := rfl
@[simp] theorem State.countSlot_host1 (s : State) (k : Nat) (c : Counter) (n : Nat) : (s.countSlot k c n).host1 = s.host1 := rfl
@[simp] theorem State.countSlot_bad (s : State) (k : Nat) (c : Counter) (n : Nat) : (s.countSlot k c n).bad = s.bad := rfl
@[simp] theorem State.countSlot_locBad (s : State) (k : Nat) (c : Counter) (n : Nat) : (s.countSlot k c n).locBad = s.locBad := rfl
@[simp] theorem State.countSlot_ctxs (s : State) (k : Nat) (c : Counter) (n : Nat) : (s.countSlot k c n).ctxs = s.ctxs := rfl
@[simp] theorem State.countSlot_cores (s : State) (k : Nat) (c : Counter) (n : Nat) : (s.countSlot k c n).cores = s.cores := rfl
@[simp] theorem State.countSlot_clusters (s : State) (k : Nat) (c : Counter) (n : Nat) : (s.countSlot k c n).clusters = s.clusters := rfl
@[simp] theorem State.countSlot_dies (s : State) (k : Nat) (c : Counter) (n : Nat) : (s.countSlot k c n).dies = s.dies := rfl
@[simp] theorem State.countSlot_therm (s : State) (k : Nat) (c : Counter) (n : Nat) : (s.countSlot k c n).therm = s.therm := rfl
@[simp] theorem State.countSlot_tasks (s : State) (k : Nat) (c : Counter) (n : Nat) : (s.countSlot k c n).tasks = s.tasks := rfl
@[simp] theorem State.countSlot_records (s : State) (k : Nat) (c : Counter) (n : Nat) : (s.countSlot k c n).records = s.records := rfl
@[simp] theorem State.countSlot_cmds (s : State) (k : Nat) (c : Counter) (n : Nat) : (s.countSlot k c n).cmds = s.cmds := rfl
@[simp] theorem State.countSlot_reds (s : State) (k : Nat) (c : Counter) (n : Nat) : (s.countSlot k c n).reds = s.reds := rfl
@[simp] theorem State.countSlot_mix (s : State) (k : Nat) (c : Counter) (n : Nat) : (s.countSlot k c n).mix = s.mix := rfl
@[simp] theorem State.countSlot_fns (s : State) (k : Nat) (c : Counter) (n : Nat) : (s.countSlot k c n).fns = s.fns := rfl
@[simp] theorem State.countSlot_funcJob (s : State) (k : Nat) (c : Counter) (n : Nat) : (s.countSlot k c n).funcJob = s.funcJob := rfl
@[simp] theorem State.countSlot_sems (s : State) (k : Nat) (c : Counter) (n : Nat) : (s.countSlot k c n).sems = s.sems := rfl
@[simp] theorem State.countSlot_tie (s : State) (k : Nat) (c : Counter) (n : Nat) : (s.countSlot k c n).tie = s.tie := rfl
@[simp] theorem State.countSlot_irqs (s : State) (k : Nat) (c : Counter) (n : Nat) : (s.countSlot k c n).irqs = s.irqs := rfl
@[simp] theorem State.countSlot_completions (s : State) (k : Nat) (c : Counter) (n : Nat) : (s.countSlot k c n).completions = s.completions := rfl
@[simp] theorem State.countSlot_linkUp (s : State) (k : Nat) (c : Counter) (n : Nat) : (s.countSlot k c n).linkUp = s.linkUp := rfl
@[simp] theorem State.countSlot_linkFlit (s : State) (k : Nat) (c : Counter) (n : Nat) : (s.countSlot k c n).linkFlit = s.linkFlit := rfl
@[simp] theorem State.countSlot_i3cAddr (s : State) (k : Nat) (c : Counter) (n : Nat) : (s.countSlot k c n).i3cAddr = s.i3cAddr := rfl
@[simp] theorem State.countSlot_mgmtOut (s : State) (k : Nat) (c : Counter) (n : Nat) : (s.countSlot k c n).mgmtOut = s.mgmtOut := rfl
@[simp] theorem State.countSlot_powerIrqs (s : State) (k : Nat) (c : Counter) (n : Nat) : (s.countSlot k c n).powerIrqs = s.powerIrqs := rfl
@[simp] theorem State.countSlot_spdm (s : State) (k : Nat) (c : Counter) (n : Nat) : (s.countSlot k c n).spdm = s.spdm := rfl
@[simp] theorem State.countSlot_mail (s : State) (k : Nat) (c : Counter) (n : Nat) : (s.countSlot k c n).mail = s.mail := rfl
@[simp] theorem State.countSlot_keys (s : State) (k : Nat) (c : Counter) (n : Nat) : (s.countSlot k c n).keys = s.keys := rfl
@[simp] theorem State.countSlot_tamper (s : State) (k : Nat) (c : Counter) (n : Nat) : (s.countSlot k c n).tamper = s.tamper := rfl
@[simp] theorem State.countSlot_seals (s : State) (k : Nat) (c : Counter) (n : Nat) : (s.countSlot k c n).seals = s.seals := rfl
@[simp] theorem State.countSlot_wear (s : State) (k : Nat) (c : Counter) (n : Nat) : (s.countSlot k c n).wear = s.wear := rfl
@[simp] theorem State.countSlot_ports (s : State) (k : Nat) (c : Counter) (n : Nat) : (s.countSlot k c n).ports = s.ports := rfl
@[simp] theorem State.countSlot_outReqs (s : State) (k : Nat) (c : Counter) (n : Nat) : (s.countSlot k c n).outReqs = s.outReqs := rfl
@[simp] theorem State.countSlot_seqs (s : State) (k : Nat) (c : Counter) (n : Nat) : (s.countSlot k c n).seqs = s.seqs := rfl
@[simp] theorem State.countSlot_applied (s : State) (k : Nat) (c : Counter) (n : Nat) : (s.countSlot k c n).applied = s.applied := rfl
@[simp] theorem State.countSlot_replies (s : State) (k : Nat) (c : Counter) (n : Nat) : (s.countSlot k c n).replies = s.replies := rfl
@[simp] theorem State.countSlot_repliesDue (s : State) (k : Nat) (c : Counter) (n : Nat) : (s.countSlot k c n).repliesDue = s.repliesDue := rfl
@[simp] theorem State.countSlot_lostLinks (s : State) (k : Nat) (c : Counter) (n : Nat) : (s.countSlot k c n).lostLinks = s.lostLinks := rfl
@[simp] theorem State.countSlot_energyRem (s : State) (k : Nat) (c : Counter) (n : Nat) : (s.countSlot k c n).energyRem = s.energyRem := rfl
@[simp] theorem State.countSlot_held (s : State) (k : Nat) (c : Counter) (n : Nat) : (s.countSlot k c n).held = s.held := rfl
@[simp] theorem State.countSlot_idleEnergy (s : State) (k : Nat) (c : Counter) (n : Nat) : (s.countSlot k c n).idleEnergy = s.idleEnergy := rfl
@[simp] theorem State.countSlot_nightdly (s : State) (k : Nat) (c : Counter) (n : Nat) : (s.countSlot k c n).nightdly = s.nightdly := rfl
@[simp] theorem State.countSlot_govmode (s : State) (k : Nat) (c : Counter) (n : Nat) : (s.countSlot k c n).govmode = s.govmode := rfl
@[simp] theorem State.countSlot_updPend (s : State) (k : Nat) (c : Counter) (n : Nat) : (s.countSlot k c n).updPend = s.updPend := rfl
@[simp] theorem State.countSlot_lastKick (s : State) (k : Nat) (c : Counter) (n : Nat) : (s.countSlot k c n).lastKick = s.lastKick := rfl
@[simp] theorem State.countSlot_boot (s : State) (k : Nat) (c : Counter) (n : Nat) : (s.countSlot k c n).boot = s.boot := rfl
@[simp] theorem State.countSlot_image (s : State) (k : Nat) (c : Counter) (n : Nat) : (s.countSlot k c n).image = s.image := rfl
@[simp] theorem State.countSlot_free (s : State) (k : Nat) (c : Counter) (n : Nat) : (s.countSlot k c n).free = s.free := rfl
@[simp] theorem State.countSlot_nextId (s : State) (k : Nat) (c : Counter) (n : Nat) : (s.countSlot k c n).nextId = s.nextId := rfl

/-! ### What the updates write -/

@[simp] theorem State.updIss_iss (s : State) (f : Issue → Issue) : (s.updIss f).iss = f s.iss := rfl
@[simp] theorem State.hw_iss (s : State) (u : HwUpd) : (s.hw u).iss = { s.iss with hw := s.iss.hw ++ [u] } := rfl
@[simp] theorem State.prog_iss (s : State) (n : CReg) (v : Word) :
    (s.prog n v).iss = { s.iss with prog := s.iss.prog ++ [(n, v)] } := rfl
@[simp] theorem State.setSeed_iss (s : State) (g : Word) : (s.setSeed g).iss = { s.iss with seed := some g } := rfl

end Sys2Proof.Machine
end

