-- ==== Sys2Proof/Laws/Ops.lean ====
section
/-!
SUPPORT. Laws of the shared operations: what each leaves in the context it acts on, and that it leaves every other context alone.
-/
namespace Sys2Proof.Machine

theorem State.ctx_setCtx (s : State) (cx : Nat) (c : Ctx) (j : Nat) :
    (s.setCtx cx c).ctx j = if cx = j then c else s.ctx j := FMap.getD_put _ _ _ _ _
@[simp] theorem State.ctx_setCtx_self (s : State) (cx : Nat) (c : Ctx) : (s.setCtx cx c).ctx cx = c := by
  simp [State.ctx_setCtx]
theorem State.ctx_updCtx (s : State) (cx : Nat) (f : Ctx → Ctx) (j : Nat) :
    (s.updCtx cx f).ctx j = if cx = j then f (s.ctx cx) else s.ctx j := State.ctx_setCtx _ _ _ _
@[simp] theorem State.ctx_updCtx_self (s : State) (cx : Nat) (f : Ctx → Ctx) : (s.updCtx cx f).ctx cx = f (s.ctx cx) := by
  simp [State.ctx_updCtx]
theorem State.ctx_updCtx_ne (s : State) {cx j : Nat} (h : cx ≠ j) (f : Ctx → Ctx) : (s.updCtx cx f).ctx j = s.ctx j := by
  simp [State.ctx_updCtx, h]
theorem State.core_updCore (s : State) (k : Nat) (f : Core → Core) (j : Nat) :
    (s.updCore k f).core j = if k = j then f (s.core k) else s.core j := FMap.getD_put _ _ _ _ _
@[simp] theorem State.core_updCore_self (s : State) (k : Nat) (f : Core → Core) : (s.updCore k f).core k = f (s.core k) := by
  simp [State.core_updCore]
theorem State.cluster_updCluster (s : State) (k : Nat) (f : Cluster → Cluster) (j : Nat) :
    (s.updCluster k f).cluster j = if k = j then f (s.cluster k) else s.cluster j := FMap.getD_put _ _ _ _ _
@[simp] theorem State.cluster_updCluster_self (s : State) (k : Nat) (f : Cluster → Cluster) :
    (s.updCluster k f).cluster k = f (s.cluster k) := by simp [State.cluster_updCluster]
theorem State.die_updDie (s : State) (d : Nat) (f : Die → Die) (j : Nat) :
    (s.updDie d f).die j = if d = j then f (s.die d) else s.die j := FMap.getD_put _ _ _ _ _
@[simp] theorem State.die_updDie_self (s : State) (d : Nat) (f : Die → Die) : (s.updDie d f).die d = f (s.die d) := by
  simp [State.die_updDie]

@[simp] theorem State.core_updCtx (s : State) (cx : Nat) (f : Ctx → Ctx) (j : Nat) : (s.updCtx cx f).core j = s.core j := rfl
@[simp] theorem State.ctx_updCore (s : State) (k : Nat) (f : Core → Core) (j : Nat) : (s.updCore k f).ctx j = s.ctx j := rfl
@[simp] theorem State.ctx_updIss (s : State) (f : Issue → Issue) (j : Nat) : (s.updIss f).ctx j = s.ctx j := rfl
@[simp] theorem State.core_updIss (s : State) (f : Issue → Issue) (j : Nat) : (s.updIss f).core j = s.core j := rfl

@[simp] theorem State.cur_upd (s : State) (f : Ctx → Ctx) : (s.upd f).cur = f s.cur := by simp [State.upd, State.cur]
@[simp] theorem State.cur_updSt (s : State) (f : Strand → Strand) : (s.updSt f).cur = { s.cur with st := f s.cur.st } := by
  simp [State.updSt]
theorem State.ctx_updSt (s : State) (f : Strand → Strand) (j : Nat) :
    (s.updSt f).ctx j = if s.iss.cx = j then { s.cur with st := f s.cur.st } else s.ctx j := by
  simp [State.updSt, State.upd, State.cur, State.ctx_updCtx]
@[simp] theorem State.cur_hw (s : State) (u : HwUpd) : (s.hw u).cur = s.cur := rfl
@[simp] theorem State.ctx_hw (s : State) (u : HwUpd) (j : Nat) : (s.hw u).ctx j = s.ctx j := rfl
@[simp] theorem State.cur_setSeed (s : State) (g : Word) : (s.setSeed g).cur = s.cur := rfl
@[simp] theorem State.ctx_setSeed (s : State) (g : Word) (j : Nat) : (s.setSeed g).ctx j = s.ctx j := rfl
@[simp] theorem State.ctx_prog (s : State) (n : CReg) (v : Word) (j : Nat) : (s.prog n v).ctx j = s.ctx j := rfl
@[simp] theorem State.cur_prog (s : State) (n : CReg) (v : Word) : (s.prog n v).cur = s.cur := rfl

/-- A slot that executes has its effect; one that does not has none (R96). -/
theorem guarded_holds {p : Pred} {s : State} (f : State → State) (h : Pred.holds p s.cur.st.q = true) :
    guarded p f s = .next (f s) := by simp [guarded, h]
theorem guarded_skips {p : Pred} {s : State} (f : State → State) (h : Pred.holds p s.cur.st.q = false) :
    guarded p f s = .next s := by simp [guarded, h]
theorem guarded_next (p : Pred) (s : State) (f : State → State) : ∃ t, guarded p f s = .next t := ⟨_, rfl⟩

/-- The entry that a result in flight makes (R87, R251, R267). -/
def flightOf (s : State) (o : FlightOp) (x : Option (Nat × Latch)) (l : Nat) : Flight :=
  { op := o, latch := if s.iss.template then none else x, left := l, coreCount := s.iss.template, ord := s.nextId }

/-- A result in flight leaves the current context as it was, but for the table. -/
theorem State.cur_flightPut (s : State) (o : FlightOp) (x : Option (Nat × Latch)) (l : Nat) :
    (s.flightPut o x l).cur = { s.cur with st := { s.cur.st with
      flight := s.cur.st.flight ++ [flightOf s o x l] } } := by
  simp [State.flightPut, flightOf]

/-- A result in flight leaves every other context alone. -/
theorem State.ctx_flightPut_ne (s : State) (o : FlightOp) (x : Option (Nat × Latch)) (l : Nat) {j : Nat} (h : s.iss.cx ≠ j) :
    (s.flightPut o x l).ctx j = s.ctx j := by simp [State.flightPut, State.ctx_updSt, h]

end Sys2Proof.Machine
end

