-- ==== Sys2Proof/Tests/Slice0.lean ====
section
/-!
SUPPORT. Tests: ill-formed terms that the well-formedness check refuses, words written out from the spec's encodings, and, for each
statement with hypotheses, a state and operands that meet them.
-/
namespace Sys2Proof.Tests
open Sys2Proof Sys2Proof.Machine Sys2Proof.Claims

/-! ## Well-formedness -/

def aD : Dst := ⟨false, 7⟩
def r4 : Src := .reg 4
def r0 : Src := .reg 0
def rrr : OpRRR := ⟨.always, aD, r4, .reg 5, r0, .rne⟩
def sm (f : Form) (sx : Bool) (z : Size) (a : Src) : OpSM := ⟨.always, aD, a, f, sx, z, r0, 0⟩

/-- A term of each kind of limit that breaks it, beside one that keeps it. -/
theorem test_wf_predicates : Instr.wf (.add rrr) = true ∧ Instr.wf (.add { rrr with p := .onClear 0 }) = false ∧
    Instr.wf (.add { rrr with d := ⟨true, 16⟩ }) = false ∧ Instr.wf (.add { rrr with c := .reg 1 }) = false ∧
    Instr.wf (.add { rrr with rm := .ru }) = false ∧ Instr.wf (.popc rrr) = false ∧ Instr.wf (.sel rrr) = true ∧
    Instr.wf (.sel { rrr with c := .reg 8 }) = false ∧ Instr.wf (.faddF { rrr with rm := .sr }) = true := by decide
theorem test_wf_fields : Instr.wf (.bext ⟨.always, aD, r4, r0, 63, 0⟩) = true ∧ Instr.wf (.bext ⟨.always, aD, r4, r0, 63, 1⟩) = false ∧
    Instr.wf (.bext ⟨.always, aD, r4, .reg 1, 0, 0⟩) = false ∧ Instr.wf (.li ⟨.always, aD, r4, 0⟩) = false ∧
    Instr.wf (.waitSet 0 39) = true ∧ Instr.wf (.waitSet 0 40) = false := by decide
theorem test_wf_scalar_memory : Instr.wf (.ldLoc (sm .plain false .d (.reg 7))) = true ∧
    Instr.wf (.ldLoc (sm .plain false .d (.reg 8))) = false ∧ Instr.wf (.ldLoc (sm .plain false .w (.reg 7))) = false ∧
    Instr.wf (.ldDev (sm .fill false .d r4)) = false ∧ Instr.wf (.ldDev (sm .take false .w r4)) = false ∧
    Instr.wf (.ldDev (sm .plain true .d r4)) = false ∧ Instr.wf (.ldPeer (sm .wait false .d r4)) = false ∧
    Instr.wf (.ldPeer (sm .plain false .d (.reg 5))) = false ∧
    Instr.wf (.ldLoc { sm .plain false .d (.reg 7) with imm := 0x800 }) = false ∧
    Instr.wf (.atomAddLoc ⟨.always, aD, .reg 7, .w, r0, 0⟩) = false ∧ Instr.wf (.atomAddDev ⟨.always, aD, r4, .w, r0, 0⟩) = true ∧
    Instr.wf (.stDev (sm .plain false .d r4)) = false := by decide
theorem test_wf_spill_and_barrier : Instr.wf (.spLd ⟨.always, aD, r4, .reg 1, 0⟩) = false ∧
    Instr.wf (.spSt ⟨.always, aD, r4, .reg 1, 0⟩) = false ∧ Instr.wf (.spSt ⟨.always, ⟨false, 0⟩, r4, .reg 1, 0⟩) = true ∧
    Instr.wf (.barInit ⟨.always, aD, 0, 0, 0, r0, r0⟩) = false := by decide
theorem test_wf_vector : Instr.wf (.vadd ⟨.first, .always, aD, r4, r4, r0, .s8, .rne, 0⟩) = true ∧
    Instr.wf (.vadd ⟨.first, .always, aD, r4, r4, r0, .f, .rne, 0⟩) = false ∧
    Instr.wf (.vadd ⟨.first, .always, aD, r4, r4, .reg 16, .s8, .rne, 0⟩) = false ∧
    Instr.wf (.vadd ⟨.first, .always, aD, r4, r4, r0, .s8, .rne, 1⟩) = false ∧
    Instr.wf (.kand ⟨.first, .always, ⟨false, 16⟩, r4, r4⟩) = false ∧
    Instr.wf (.vcmpEq ⟨.first, .always, ⟨false, 16⟩, r4, r4, r0, .s8⟩) = false ∧
    Instr.wf (.vsplat ⟨.first, .always, aD, r4, r0, r0, .s8, 0⟩) = false := by decide
theorem test_wf_lattice : Instr.wf (.mpushV ⟨.always, r4, .bf, false, 31⟩) = true ∧
    Instr.wf (.mpushV ⟨.always, r4, .bf, false, 32⟩) = false ∧ Instr.wf (.mpushV ⟨.always, r4, .bf, true, 0⟩) = false ∧
    Instr.wf (.mpushV ⟨.always, r4, .s32, false, 0⟩) = false ∧ Instr.wf (.maccV ⟨.always, 0, r4, .f, false, 0⟩) = false := by decide
theorem test_wf_commands : Wf.cpMods 0x000#12 = true ∧ Wf.cpMods 0x00C#12 = true ∧ Wf.cpMods 0x06C#12 = false ∧
    Wf.cpMods 0x20C#12 = false ∧ Wf.cpMods 0x001#12 = false ∧ Wf.gathMods 0x180#12 = true ∧ Wf.gathMods 0x300#12 = false ∧
    Instr.wf (.pfxPin ⟨.second, .always, aD, r4, r0, r0⟩) = false := by decide

/-! ## Words written out from the encodings (Tables 04-6, 04-7, 05-1 to 05-9, 01-12, 01-14) -/

theorem test_decode_header : (Header.ofWord 0x81000000#32).length = 10 ∧ (Header.ofWord 0xD3858600#32).length = 32 ∧
    decodeTableWord 32 0x01019600 = some (.waitDue 0 37) ∧ decodeTableWord 32 0x00020000 = some (.emptyBundle 1 false) := by decide
/-- S: `ld.dev.d.take g7, [g4]` (07), then PRED | OP | D | A | B | C | IMM of `add g1, g2, g3` under q1, of `li g2, -1` and of
`fma.f g1, g2, g3, g4` in mode RU. -/
theorem test_decode_scalar : decodeSlot .s (Raw.ofWord 0x0841C44C0000#48 none) =
      .ok (.s (.ldDev ⟨.always, ⟨false, 7⟩, .reg 4, .take, false, .d, .reg 0, 0⟩)) ∧
    decodeSlot .s (Raw.ofWord (9#4 ++ 0x01#8 ++ 1#6 ++ 2#6 ++ 3#6 ++ 0#6 ++ 0#12) none) =
      .ok (.s (.add ⟨.onSet 1, ⟨false, 1⟩, .reg 2, .reg 3, .reg 0, .rne⟩)) ∧
    decodeSlot .s (Raw.ofWord (0#4 ++ 0x62#8 ++ 2#6 ++ 0#6 ++ 0#6 ++ 0#6 ++ 0xFFF#12) none) =
      .ok (.s (.li ⟨.always, ⟨false, 2⟩, .reg 0, -1⟩)) := ⟨rfl, rfl, rfl⟩
/-- V: the words of `vfma.bf` and `vrotm.z8` (08); M: `macc.s8` and `mdrain` (09). -/
theorem test_decode_vector_and_lattice :
    decodeSlot .v0 (Raw.ofWord 0x023101083E05#48 none) =
      .ok (.v (.vfma ⟨.first, .always, ⟨false, 4⟩, .reg 1, .reg 2, .reg 3, .bf, .rne, false, 5⟩)) ∧
    decodeSlot .v1 (Raw.ofWord 0x0461820C0628#48 none) =
      .ok (.v (.vrotm ⟨.second, .always, ⟨false, 6⟩, .reg 2, .reg 3, .reg 0, .z8, 40⟩)) ∧
    decodeSlot .m (Raw.ofWord 0x008003000100#48 none) = .ok (.m (.maccV ⟨.always, 0, .reg 3, .s8, false, 0⟩)) ∧
    decodeSlot .m (Raw.ofWord 0x00C200000000#48 none) = .ok (.m (.mdrain ⟨.always, ⟨false, 8⟩, 0, false, 0⟩)) := ⟨rfl, rfl, rfl, rfl⟩
/-- C: `vld.loc v2, [b1]`; L: `br` of -1 (OFF has 30 bits) and `brk 5`. -/
theorem test_decode_copy_and_branch :
    decodeSlot .c1 (Raw.ofWord (0#4 ++ 0x01#8 ++ 2#6 ++ 1#6 ++ 0#6 ++ 0#6 ++ 0#12) none) =
      .ok (.c (.vldLoc ⟨.second, .always, ⟨false, 2⟩, .reg 1, .plain, false, .reg 0, .s4, 0⟩)) ∧
    decodeSlot .l (Raw.ofWord 0x00103FFFFFFF#48 none) = .ok (.l (.br ⟨.always, -1⟩)) := ⟨rfl, rfl⟩
def pw (s : StreamId) (ws : List Word) : Option Instr :=
  match decodePacket s ws 4096 none with
  | .ok i => some i
  | .error _ => none
def st0 : StreamId := ⟨0, 0, 0⟩
/-- The packets assembled under R42. -/
theorem test_decode_packets :
    pw st0 [0x0000000100000301, 0x80000100, 1] = some (.pkWriteAdd ⟨st0, false, 3⟩ .host 0x80000100 1) ∧
    pw st0 [0x0000000100040403, 0x4000000000, 0xFF, 0] = some (.pkPred ⟨st0, false, 4⟩ .dev .ne 0x4000000000 0xFF 0) ∧
    pw st0 [0x0000000400000204, 0x10] = some (.pkLoop ⟨st0, false, 2⟩ 4 0x10) ∧
    pw st0 [0x000000030001010C] = some (.pkIrq ⟨st0, true, 1⟩ 3) := ⟨rfl, rfl, rfl, rfl⟩

/-! ## Small states -/

/-- The machine after reset, with a context 0 of these contents. -/
def one (c : Ctx) : State := { ctxs := [(0, c)] }
/-- A strand whose general registers hold these values, untracked. -/
def gs (l : List (Nat × Word)) : FMap GVal := l.map fun (n, v) => (n, ⟨v, 15⟩)
def aTask : Task := { va := 0x4000, asn := 1, job := 3, die := 0, prio := 2, level := 2, size := 1, acc := 0, rows := 0, spill := 0
                      keep := false, code := 0x10000, sched := 0, extents := [], succ := 0, nsucc := 0, state := .resident }
/-- A context that runs the task of record 0x4000. -/
def bound (c : Ctx) : State := { one { c with task := some 0x4000 } with tasks := [(0x4000, aTask)] }
/-- A resident run of 4 KiB at 0x10000, of LPDDR6. -/
def aRun : Run := { va := 0x10000, size := 4096, pa := 0x20000, resident := true, r := true, w := true, x := true, fe := true }

/-! ## Scalar and control (O: ScalarInteger to SupervisorAndBreak) -/

/-- A slot always executes, and `sel` names q7. -/
theorem test_hyp_scalar : Pred.holds .always (State.reset.cur.st.q) = true ∧ Pred.holds (.onSet 7) 0x80#8 = true ∧
    Pred.holds (.onClear 7) 0x7F#8 = true ∧ (7#5).toNat < 8 ∧ (63#6).toNat + ((0#6).toNat + 1) ≤ 64 ∧
    (0#6).toNat + ((63#6).toNat + 1) ≤ 64 ∧ State.reset.iss.committed = none ∧
    ({ iss := { committed := some { presented := 3 } } } : State).iss.committed = some { presented := 3 } := by decide
/-- A residue that passes, one that does not, and a RES bit that is not written. -/
theorem test_hyp_residues :
    let s := one { st := { g := [(1, ⟨16, 1⟩), (2, ⟨16, 2⟩), (3, ⟨16, 15⟩)] } }
    passes s (.reg 1) ∧ ¬ passes s (.reg 2) ∧ passes s (.reg 3) ∧ CReg.due ∈ [CReg.due, .lc, .tvec, .fbundle, .alarm, .watch] ∧
    (0xFFFFFFFF#64).getLsbD 39 = false := by unfold passes; decide
/-- The corner cases of a division: a divisor of 0, and −2^63 by −1. -/
theorem test_division_corners :
    (divisionRows.map fun r => r.2.2 7 0) = [-1, 2 ^ 64 - 1, 7, 7] ∧
    (divisionRows.map fun r => BitVec.ofInt 64 (r.2.2 (BitVec.ofInt 64 (-2 ^ 63)) (-1))) =
      [BitVec.ofInt 64 (-2 ^ 63), 0, 0, BitVec.ofInt 64 (-2 ^ 63)] := by decide
/-- The largest finite code of E4M3 is neither an infinity nor a NaN. -/
theorem test_hyp_representable : 0x7E < 2 ^ Ty.e4.width ∧ (∀ n, decodeFloat .e4 0x7E ≠ .inf n) ∧ decodeFloat .e4 0x7E ≠ .nan := by
  decide
/-- Spill accesses at the last word and the last vector slot of a store of 256 bytes, and one byte past it. -/
theorem test_hyp_spill :
    let s := one { st := { ctl := { spillSize := 256 }, g := gs [(1, 248), (2, 128), (3, 256)] } }
    let o (n : BitVec 5) : OpSS := ⟨.always, aD, .reg n, .reg 0, 0⟩
    passes s (.reg 1) ∧ spillFits s (o 1) 8 ∧ spillFits s (o 2) 128 ∧ ¬ spillFits s (o 3) 8 ∧ ¬ spillFits s (o 3) 128 ∧
    passes s (.reg 0) := by unfold passes spillFits; decide
/-- A spill word in error, in the slot that the two loads read. -/
theorem test_hyp_spill_error :
    let s := one { st := { ctl := { spillSize := 256 }, spill := [(16, { bad := true })], g := gs [(2, 128)] } }
    let o : OpSS := ⟨.always, aD, .reg 2, .reg 0, 0⟩
    spillFits s o 8 ∧ spillFits s o 128 ∧ (FMap.getD s.cur.st.spill (spillBase s o 8 / 8) {}).bad = true ∧
    (FMap.getD s.cur.st.spill (spillBase s o 128 / 8 + 0) {}).bad = true := by unfold spillFits; decide
theorem test_hyp_lanes : passesV (0#1024, 0#128) := fun j _ => Or.inr (by simp [lres])
/-- A slot whose predicate is q1 does not execute while q1 is 0. -/
theorem test_hyp_skipped : (∃ r, encodeSlot (.add { rrr with p := .onSet 1 }) = some (.s, r) ∧ executes r.pred 0#8 = false) :=
  ⟨_, rfl, by decide⟩
theorem test_hyp_frame : exec (.add rrr) State.reset = .next (State.reset.entering [gEntry State.reset aD 1 0 0]) := rfl
/-- A handler that may be entered and one that may not; a count above 1 and at 1. -/
theorem test_hyp_traps :
    let s (b : Bool) : State := bound { st := { ctl := { tvec := 0x8001, intrap := b, lc := 2 } } }
    (s false).cur.st.ctl.tvec.getLsbD 0 = true ∧ (s false).cur.st.ctl.intrap = false ∧ (s true).cur.st.ctl.intrap = true ∧
    (s true).iss.len < 64 ∧ (s true).cur.task = some 0x4000 ∧ FMap.find (s true).tasks 0x4000 = some aTask := by decide
/-- A result for g0 that is readable now. -/
theorem test_hyp_g0 :
    let e : Flight := { op := .g 0 ⟨5, 5⟩, latch := some (3, { val := 5, sres := 5 }), left := 0 }
    let s := one { st := { flight := [e], q := 0x80 } }
    (s.ctx 0).st.flight = [e] ∧ readable s e = true ∧ s.cur.st.q.getLsbD (7#5).toNat = true := ⟨rfl, rfl, rfl⟩
/-- What the instructions do on small states: a wrap, a borrow, a shift by the width, a saturated branch. -/
theorem test_add_wraps :
    exec (.addImm ⟨.always, ⟨false, 1⟩, .reg 1, 1⟩) (one { st := { g := [(1, ⟨-1, 0⟩)] } }) =
      .next ((one { st := { g := [(1, ⟨-1, 0⟩)] } }).entering [gEntry State.reset ⟨false, 1⟩ 1 0 0]) := rfl
theorem test_shl_by_64_is_by_0 :
    exec (.shlImm ⟨.always, ⟨false, 1⟩, .reg 1, 64⟩) (one { st := { g := [(1, ⟨3, 3⟩)] } }) =
      .next ((one { st := { g := [(1, ⟨3, 3⟩)] } }).entering [gEntry State.reset ⟨false, 1⟩ 1 3 3]) := rfl

/-! ## Memory and synchronisation (O: ScratchpadAccesses to FencesAndTaskEnd) -/

/-- One member on core 0 and one on core 1 of cluster 0; four rows of the core's own scratchpad; a run of device memory whose second
page is absent. -/
def memState : State :=
  { bound { rows := 4, rowBase := 8, runs := [aRun, { aRun with va := 0x20000, resident := false }],
            st := { b := [(1, 3)], g := gs [(1, 0x10FF8), (2, 0x2003), (3, 0x20000), (4, 0x30000), (6, 0x40), (7, 2), (8, 0x40), (9, 288)],
                    ctl := { job := 3 } } } with
    tasks := [(0x4000, { aTask with place := some { cluster := 0, members := [(0, 0, 8), (1, 0, 16)] } })]
    linkUp := [(0, true)], funcJob := [(0, 0x80000003#64)], full := [0x20FF8 / 8] }
/-- A scalar access with field A a register. -/
def smA (n : BitVec 5) (f : Form) : OpSM := ⟨.always, aD, .reg n, f, false, .d, .reg 6, 0⟩

/-- The last row of the crew, in the core's own scratchpad and in the one of core 1. -/
theorem test_hyp_scratchpad :
    localRow memState (.reg 1) (wordRowOff 0) < memState.cur.rows ∧ memState.crewRow 0 (clusterCore 0x2003) = some 16 ∧
    clusterRow 0x2003 (wordRowOff 0) < memState.cur.rows ∧ padClean memState (localKey memState (.reg 1) 0) 8 ∧
    passes memState (.reg 2) ∧ passes memState (.reg 6) ∧ Memory.wf memState.loc = true :=
  ⟨by decide, by decide, by decide, (nofun : ∀ w ∈ [], _), Or.inl rfl, Or.inl rfl, rfl⟩
/-- The last word of the run of LPDDR6, full, with every permission. -/
theorem test_hyp_device :
    let a : DevAt := { idx := 0, run := aRun, va := 0x10FF8, pa := some 0x20FF8 }
    passes memState (.reg 1) ∧ memState.devCheck 0 (deviceAddr memState (.reg 1) 0) 8 true false false = .ok a ∧
    memState.devCheck 0 (deviceAddr memState (.reg 1) 0) 8 true true false = .ok a ∧
    memState.devCheck 0 (deviceAddr memState (.reg 1) 0) 8 false true true = .ok a ∧
    memState.devCheck 0 (deviceAddr memState (.reg 1) 0) 8 true false true = .ok a ∧ memState.unreadable 0 0x20FF8 8 = false ∧
    { memState with bad := [0x20FF8 / 8] }.unreadable 0 0x20FF8 8 = true ∧ joined memState 0x20FF8 ∧
    memClean memState (tagAddr 0x20FF8) 8 ∧ inLpddr 0x20FF8 = true ∧ memClean memState 0x20FF8 8 ∧ unowned memState 0x20FF8 8 ∧ memState.stored = true ∧ 0x20FF8 % 8 = 0 ∧
    inSet memState.full (0x20FF8 / 8) = true ∧ inSet State.reset.full (0x20FF8 / 8) = false :=
  ⟨Or.inl rfl, rfl, rfl, rfl, rfl, rfl, by decide, by unfold joined; decide, (nofun : ∀ w ∈ [], _), by decide, (nofun : ∀ w ∈ [], _),
   by unfold unowned; decide, rfl, by decide, by decide, by decide⟩
/-- A page of the home of another die, with the link to it and without; a page of the tag window, whose words describe 0x20000 on. -/
def tagRun : Run := { aRun with pa := tagAddr 0x20000 / 4096 * 4096 }
def tagState : State := bound { runs := [tagRun], st := { g := gs [(1, 0x10800), (2, 0x10800)] } }
theorem test_hyp_tag_window :
    let a : DevAt := { idx := 0, run := tagRun, va := 0x10800, pa := some (tagAddr 0x20000) }
    passes tagState (.reg 1) ∧ tagState.devCheck 0 (deviceAddr tagState (.reg 1) 0) 8 true false false = .ok a ∧
    tagState.devCheck 0 (deviceAddr tagState (.reg 1) 0) 8 false true false = .ok a ∧ inTags (tagAddr 0x20000) = true ∧ tagAddr 0x20000 % 128 = 0 ∧
    memClean tagState (tagAddr 0x20000) 128 ∧ joined tagState (tagAddr 0x20000) ∧ risingSet tagState.full = true ∧
    tagged (tagAddr 0x20000) 0 = 0x20000 / 8 ∧ (∀ i < 1024, inSet tagState.bad (tagged (tagAddr 0x20000) i) = false) ∧
    ¬ joined { memState with lostLinks := [1] } 0x3000000000 :=
  ⟨Or.inl rfl, rfl, rfl, by decide, by decide, (nofun : ∀ w ∈ [], _), by unfold joined; decide, rfl, by decide, fun _ _ => rfl,
   by unfold joined; decide⟩
/-- A store of one byte by another strand to the word that is read, and one to the next word, under a job that traps mixed sizes. -/
def mixState (at_ : Nat) : State :=
  { memState with tasks := [(0x4000, { aTask with jrec := [2 ^ 59] })]
                  mix := [{ strand := 9, addr := at_, size := 1, len := 1, tick := 0, probe := false }] }
set_option maxRecDepth 20000 in
theorem test_hyp_mixed :
    let clashes (r : MixRecord) : Prop := r.strand ≠ (mixState 0).strandId 0 ∧ (mixState 0).clock.toNat < r.tick + 4096 ∧
      0x20FF0 < r.addr + r.len ∧ r.addr < 0x20FF0 + 8 ∧ (r.addr ≠ 0x20FF0 ∨ r.size ≠ 8)
    ((mixState 0).taskOf 0).map (fun x => bit (x.jw 0) 59) = some true ∧
    (∀ r ∈ (mixState 0x20FF4).mix, r.size ∈ [1, 2, 4, 8, 128] ∧ clashes r) ∧ (∀ r ∈ (mixState 0x20FF8).mix, ¬ clashes r) ∧
    (mixState 0x20FF4).devCheckWith true false 0 0x10FF0 8 true false false =
      .ok { idx := 0, run := aRun, va := 0x10FF0, pa := some 0x20FF0 } ∧ aRun.resident = true := by
  refine ⟨rfl, ?_, ?_, rfl, rfl⟩ <;> decide
/-- Outside every run; a sealed page, a compute-only one, and one that may not be written; a page that was absent at dispatch. -/
theorem test_hyp_device_faults :
    (∀ r ∈ memState.cur.runs, ¬ (r.va ≤ 0x30000 ∧ 0x30000 < r.va + r.size)) ∧
    { aRun with isSealed := true }.isSealed = true ∧ { aRun with co := true }.co = true ∧ { aRun with w := false }.w = false ∧
    memState.sealTag (0x20000 + (0x10000 - 0x10000)) = 0 ∧
    memState.devCheck 0 (deviceAddr memState (.reg 3) 0) 8 true false false =
      .ok { idx := 1, run := { aRun with va := 0x20000, resident := false }, va := 0x20000, pa := none } ∧
    memState.devCheck 0 (deviceAddr memState (.reg 3) 0) 8 false true false =
      .ok { idx := 1, run := { aRun with va := 0x20000, resident := false }, va := 0x20000, pa := none } :=
  ⟨by decide, rfl, rfl, rfl, rfl, rfl, rfl⟩
/-- `pagein` of a resident run, of an absent one, and outside every run. -/
theorem test_hyp_pagein : findRun memState.cur.runs 0x10FF8 = some (0, aRun) ∧
    findRun memState.cur.runs 0x20000 = some (1, { aRun with va := 0x20000, resident := false }) ∧
    findRun memState.cur.runs 0x30000 = none := by decide
/-- Another module that can be reached, a module number past the last, and a port whose link is up. -/
theorem test_hyp_remote : pairPasses memState (.reg 6) ∧ pairModule memState (.reg 6) < 288 ∧ pairModule memState (.reg 8) = 288 ∧
    pairModule memState (.reg 6) ≠ memState.boot.modid.toNat ∧ memState.reachable = true ∧ pairPort memState (.reg 6) = 0 ∧
    FMap.getD memState.linkUp 0 false = true ∧ (memState.jobFn 0 (memState.jobOf 0)).isSome ∧ Memory.wf (memState.hostMem 0) = true ∧
    ¬ (FMap.getD State.reset.linkUp 0 false = true) :=
  ⟨⟨Or.inl rfl, Or.inl rfl⟩, by decide, by decide, by decide, by decide, by decide, rfl, by decide, rfl, by decide⟩
/-- The module of the strand itself, with address space 7 open to peers and 0x10000 in it, or nothing there; every port down. -/
def ownState (up : Bool) (ls : List (Nat × Leaf)) : State :=
  { memState with
    boot := { modid := 2, asntab := 0x50000 }, mem := Memory.setNum [] 0x50070 8 (2 ^ 62 + 2 ^ 61), dies := [(0, { tlb := ls })]
    ports := (List.range 9).map fun p => (p, { rate := if up then 0 else 3 })
    tasks := [(0x4000, { aTask with jrec := [7 * 2 ^ 16] })] }
def leafAt (va pa : Nat) : Leaf :=
  { va := va, size := 4096, pa := pa, r := true, w := true, x := false, fe := false, isSealed := false, co := false, bgeo := 0, efmt := 0
    lclass := 0 }
theorem test_hyp_own_module :
    let s := ownState true [(7, leafAt 0x10000 0x20000)]
    pairModule s (.reg 6) = s.boot.modid.toNat ∧ (s.peerPlace (dieOf 0) (s.pasnOf 0) 0x10000 128 true true).1 = .ok (0x20000, false) ∧
    s.spoiled 0x20000 128 = false ∧ { s with bad := [0x4000] }.spoiled 0x20000 8 = true ∧ memClean s 0x20000 128 ∧ unowned s 0x20000 128 ∧
    Memory.wf s.mem = true ∧ ((ownState true []).peerPlace (dieOf 0) ((ownState true []).pasnOf 0) 0x10000 8 true true).1 = .error .xlat ∧
    (ownState false []).reachable = false := by
  refine ⟨by decide, by decide +kernel, by decide, by decide, (nofun : ∀ w ∈ [], _), by unfold unowned; decide +kernel, by decide +kernel,
    by decide +kernel, by decide⟩
/-- A barrier in the last row of the crew, in a phase that has passed and in one that has not. -/
theorem test_hyp_barrier :
    let o (n : BitVec 5) : OpBR := ⟨.always, aD, 1, 0, 7, .reg n, .reg 0⟩
    barRow memState (o 0) < memState.cur.rows ∧ padClean memState (barKey memState (o 0)) 16 ∧
    phaseOf (Memory.num memState.loc (barKey memState (o 7)) 16) ≠ (srcG memState (.reg 7)).toNat % 16 ∧
    phaseOf (Memory.num memState.loc (barKey memState (o 0)) 16) = (srcG memState (.reg 0)).toNat % 16 ∧
    memState.cur.st.barLimit = none ∧ memState.iss.committed = none :=
  ⟨by decide, (nofun : ∀ w ∈ [], _), by decide, by decide, rfl, rfl⟩
/-- A strand with a command in queue 0, and one with a PEER access of its own. -/
def busy : State := { memState with
  cmds := [{ id := 1, cx := 0, queue := 0, kind := .settle, barrier := none, sectors := 1, promised := 9, doneAt := 9 }]
  outReqs := [{ tag := ⟨1, 0, 0, 0⟩, mod := 2, op := .load 0 8, sent := 0, tries := 0, cx := 0, pend := some 1, cmd := none, port := 0 }] }
theorem test_hyp_commands : noCommands memState 31 ∧ ¬ noCommands busy 1 :=
  ⟨by unfold noCommands; decide, by unfold noCommands; decide⟩
theorem test_hyp_peer_accesses : noPeer memState ∧ ¬ noPeer busy := ⟨by unfold noPeer; decide, by unfold noPeer; decide⟩
/-- A crew of one has met; one whose other member has not presented its `crew.sync` has not. -/
theorem test_hyp_crew : crewPresent memState ∧ ¬ crewPresent { memState with ctxs := memState.ctxs ++ [(4, { task := some 0x4000 })] } :=
  ⟨Or.inl (by decide), by
    rintro (h | ⟨-, h⟩)
    · exact absurd h (by decide)
    · exact absurd (h 4 (by decide) (by decide)).1 (by decide)⟩
/-- An atomic add of 64 bits at the last word wraps and returns the old value; `cas` that finds another value writes nothing. -/
theorem test_atomic_rows : (atomicRows.map fun r => r.2.2.2.2.2 64 (2 ^ 64 - 1) 1 0) =
    [some 0, some 1, some (2 ^ 64 - 1), some (2 ^ 64 - 2), some (2 ^ 64 - 1), some 1, some 1, some (2 ^ 64 - 1), some 1, none] := by
  simp [atomicRows, signedN]

/-! ## Vector, lattice, copy and prefix instructions (O: VectorInteger to KvBindingAndPrefixTable) -/

/-- Types of each set, widths of each conversion, and a split of a vector of 128 bytes. -/
theorem test_hyp_vector : Ty.s8.setI = true ∧ Ty.z64.setI = true ∧ Ty.bf.setF = true ∧ Ty.f.setF = true ∧ 8 ≤ Ty.s8.width ∧
    (15#8).toNat < 1024 / Ty.s64.width ∧ (127#8).toNat < 128 ∧ Ty.hf.width = Ty.bf.width ∧ Ty.f.width = 2 * Ty.bf.width ∧
    2 * Ty.e4.width = Ty.hf.width ∧ Ty.s16 ∈ [Ty.s16, .hf, .bf] ∧ Ty.e5 ∈ [Ty.s8, .z8, .e4, .e5, .s16, .z16, .hf, .bf] ∧
    Ty.s8.isInt = true ∧ Ty.bf.isInt = false := by decide
/-- A NaN, both infinities, a zero and a finite code of FP16, the last a whole number. -/
theorem test_hyp_exp2 : decodeFloat .hf 0x7E00 = .nan ∧ decodeFloat .hf 0xFC00 = .inf true ∧ decodeFloat .hf 0x7C00 = .inf false ∧
    (decodeFloat .hf 0x8000).isZero = true ∧ (∃ m e, decodeFloat .hf 0x4200 = .fin m e ∧ m ≠ 0 ∧ m.natAbs * 2 ^ e.toNat % 2 ^ (-e).toNat = 0 ∧
      m.natAbs * 2 ^ e.toNat / 2 ^ (-e).toNat ≤ 1000) ∧
    (∃ m e, decodeFloat .hf 0x3800 = .fin m e ∧ m ≠ 0 ∧ m.natAbs * 2 ^ e.toNat % 2 ^ (-e).toNat ≠ 0) :=
  ⟨rfl, rfl, rfl, by decide, ⟨_, _, rfl, by decide⟩, _, _, rfl, by decide⟩
/-- A K4O block whose scale says NaN, and one whose scale does not. -/
theorem test_hyp_blocks : 0xFF000 / 2 ^ 12 % 2 ^ 8 = 255 ∧ 0x7F000 / 2 ^ 12 % 2 ^ 8 ≠ 255 := by decide
/-- The last row that the crew holds, the first that it does not, and the last row of a buffer of width 16. -/
def latState : State := bound { rows := 4, st := { g := gs [(2, 3), (3, 0), (4, 4), (5, 0)] } }
theorem test_hyp_lattice : (Ty.bf, BufTag.bf) ∈ pushTags ∧ tileReads latState (.reg 2) 0 ∧ latState.iss.template = false ∧
    pairPasses latState (.reg 4) ∧ latState.cur.rows ≤ tileRow latState (.reg 4) 0 :=
  ⟨by decide, ⟨rfl, ⟨Or.inl rfl, Or.inl rfl⟩, by decide, (nofun : ∀ w ∈ [], _)⟩, rfl, ⟨Or.inl rfl, Or.inl rfl⟩, by decide⟩
/-- A beat of a type that the active buffer accepts, and an empty buffer. -/
theorem test_hyp_beats : Ty.bf ∈ accepted (one { st := { active := { tag := .bf } } }).cur.st.active.tag ∧ latState.cur.st.active.tag = .none ∧
    Pred.holds .always latState.cur.st.q = true ∧ bufferClean latState .bf ∧
    ¬ bufferClean (one { st := { active := { tag := .bf, bad := [31 * 16] } } }) .bf ∧ Ty.bf ∉ accepted .s8 := by
  unfold bufferClean; decide
/-- Pages of the own weight bank: INT8, K4O in both layouts, sealed with a key, sealed without one, and one that was absent. -/
def weightPage (f : Nat) (sl : Bool) : Run :=
  { aRun with pa := 0x10000000000, efmt := f, isSealed := sl, fe := false, w := false }
def weights (f : Nat) (sl : Bool) (ks : FMap KeySlot) : State :=
  { bound { runs := [weightPage f sl], st := { g := gs [(1, 0x10000)] } } with keys := ks, seals := if sl then [(0x10000000, 5)] else [] }
theorem test_hyp_weights : findRun (weights 2 false []).cur.runs 0x10000 = some (0, weightPage 2 false) ∧
    (weightPage 2 false).r = true ∧ (weights 2 false []).cur.st.ctl.watch.getLsbD 2 = false ∧ (weights 2 false []).bad = [] ∧
    0 < (weightPage 2 false).page ∧ (2, BufTag.s8, 8, 64) ∈ weightFormats ∧ 60 % 4 = 0 ∧ 60 + 4 ≤ 512 / 8 ∧
    0 / 64 * 64 + 8 * 8 * 4 ≤ (weightPage 2 false).page ∧
    (weights 2 true []).sealTag 0x10000000000 ≠ 0 ∧ (weights 2 true []).keyFor 5 ((weights 2 true []).asnOf 0) = none ∧
    ((weights 2 true [(5, { loaded := true, asn := 1 })]).keyFor 5 ((weights 2 true [(5, { loaded := true, asn := 1 })]).asnOf 0)).isSome ∧
    36 * 109 = 36 * 109 ∧ 109 + 4 ≤ (weightPage 14 false).page / 36 ∧ { weightPage 14 false with bgeo := 1 }.bgeo = 1 ∧
    { weightPage 2 false with resident := false }.resident = false :=
  by decide +kernel
/-- Every byte of the page has its tag, and with it its key or none. -/
theorem test_hyp_sealed (a : Nat) (h : 0x10000000000 ≤ a) (h' : a < 0x10000000000 + 4096) :
    (weights 2 false []).sealTag a = 0 ∧ (weights 2 true [(5, { loaded := true, asn := 1 })]).sealTag a = 5 ∧
    (weights 2 true [(5, { loaded := true, asn := 1 })]).keyFor 5 1 ≠ none := by
  have e : a / 4096 = 0x10000000 := by omega
  unfold State.sealTag
  refine ⟨?_, ?_, by decide⟩
  · rw [e]; split <;> rfl
  · rw [e, if_pos (show inMram a = true by unfold inMram mramBase bankSize; simp; omega)]; rfl
/-- Device rows of 128 bytes: a plain one, one of FP16 elements that a load converts to FP32, one of K4O blocks, and an absent one. -/
def rows128 (f : Nat) (res : Bool) : State :=
  bound { runs := [{ aRun with efmt := f, resident := res }], st := { g := gs [(1, 0x10F80), (2, 0x10000)] } }
set_option maxRecDepth 20000 in
theorem test_hyp_vector_device :
    (rows128 0 true).devCheck 0 (vecAddr (rows128 0 true) ⟨.first, .always, aD, .reg 1, .plain, false, r0, .s4, 0⟩) 128 true false false =
      .ok { idx := 0, run := aRun, va := 0x10F80, pa := some 0x20F80 } ∧
    (rows128 0 false).devCheck 0 (vecAddr (rows128 0 false) ⟨.first, .always, aD, .reg 1, .plain, false, r0, .s4, 0⟩) 128 false true false =
      .ok { idx := 0, run := { aRun with resident := false }, va := 0x10F80, pa := none } ∧
    (((rows128 9 true).decCheck 0 0x10000 .f).toOption.map fun x => (x.1, x.2.isSome)) =
      some ({ idx := 0, run := { aRun with efmt := 9 }, va := 0x10000, pa := some 0x20000 }, true) ∧ efmtOf 9 = .ty .hf ∧
    (((rows128 14 true).decCheck 0 0x10000 .bf).toOption.map fun x => (x.1, x.2.isSome)) =
      some ({ idx := 0, run := { aRun with efmt := 14 }, va := 0x10000, pa := some 0x20000 }, true) ∧ efmtOf 14 = .k4o ∧ memClean (rows128 0 true) 0x20F80 128 ∧ unowned (rows128 0 true) 0x20F80 128 ∧
    (rows128 0 true).unreadable 0 0x20F80 128 = false ∧ { rows128 0 true with bad := [0x20F80 / 8] }.unreadable 0 0x20F80 128 = true ∧
    (rows128 0 true).lostLinks = [] ∧
    tagState.devCheck 0 (vecAddr tagState ⟨.first, .always, aD, .reg 1, .plain, false, r0, .s4, 0⟩) 128 false true false =
      .ok { idx := 0, run := tagRun, va := 0x10800, pa := some (tagAddr 0x20000) } :=
  ⟨rfl, rfl, by decide +kernel, rfl, by decide +kernel, rfl, (nofun : ∀ w ∈ [], _), by unfold unowned; decide, by decide, by decide, rfl, rfl⟩

/-! ## Records in memory -/

def words (m : Memory) (a : Nat) (ws : List Nat) : Memory :=
  ws.zipIdx.foldl (fun m x => Memory.setNum m (a + 8 * x.2) 8 x.1) m
/-- A box of 2 × 1 × 1 elements of .s32 in DEVICE, its barrier in row 3, slot 7. -/
def boxWords : List Nat := [3 * 2 ^ 60 + 2 ^ 48 + 2 ^ 31 + 3 * 2 ^ 32 + 7 * 2 ^ 45, 2 + 2 ^ 32, 1, 8, 8, 0, 0, 2 + 2 ^ 16 + 2 ^ 32]
/-- 0x20000: the box; 0x20040: a schedule entry with LAST; 0x20080: a KV descriptor; 0x200C0: its geometry; 0x20100: the block table;
0x20140: a template record; 0x20180: a level record; 0x201C0: a restart record; 0x20400: what a store may overwrite. -/
def recMem : Memory :=
  words (words (words (words (words (words [] 0x20000 boxWords) 0x20040 [2 ^ 61 + 3 * 2 ^ 48 + 7 * 2 ^ 45 + 2 ^ 18 + 2 ^ 16 + 1, 0x10000, 0x10400, 0])
    0x20080 [2 ^ 63 + 2 ^ 62, 0x100C0, 0x10100, 1]) 0x200C0 [16 * 2 ^ 16]) 0x20100 [0x11000]) 0x20140 [0xB000000000, 0, 2 ^ 16, 0]
def recState : State :=
  { bound { rows := 4, rowBase := 8, tiles := 1, runs := [{ aRun with size := 0x10000 }, { aRun with va := 0x30000, resident := false }],
            st := { g := gs [(1, 0x10000), (2, 0x10400), (3, 3 * 2 ^ 16 + 7 * 2 ^ 29 + 2 ^ 32), (4, 0x10040), (5, 0x10080), (6, 0x10140),
                             (7, 0x10180), (8, 0x101C0), (9, 0x30000), (10, 100 * 2 ^ 32 + 2 ^ 16 + 7 * 2 ^ 13 + 3), (11, 3), (12, 0x10080), (13, 0)]
                    ctl := { seqlen := 1 }, kv := some { desc := 0x10080, w := [0xC000000000000000, 0x100C0, 0x10100, 1], geom := [0x100000] } } } with
    mem := recMem, dies := [(0, { tlb := [(1, leafAt 0x10000 0x20000), (1, leafAt 0x11000 0x21000)] })]
    tasks := [(0x4000, { aTask with sched := 0x10040 })] }
def ceA (a b c : BitVec 5) (m : BitVec 12) : OpCE := ⟨.first, .always, aD, .reg a, .reg b, .reg c, m⟩
theorem test_hyp_record_state : Memory.wf recState.loc = true ∧ passes recState (.reg 1) ∧ passes recState (.reg 10) ∧
    recordAt recState (srcG recState (.reg 1)) 64 0x10000 boxWords ∧
    barOperand recState true 3 7 (some (padKey 0 8 3 112)) ∧ boxPasses recState 0x10000 boxWords true 0x10400 0 ∧
    boxPasses recState 0x10000 boxWords false 0x10400 0 ∧
    (recState.tsrPlan 0x10000 (Tsr.of boxWords) true 0x10400 0).2.absent = none :=
  ⟨rfl, Or.inl rfl, Or.inl rfl, ⟨_, _, rfl, rfl, rfl, rfl, by decide +kernel⟩, ⟨by decide, rfl, (nofun : ∀ w ∈ [], _)⟩, by unfold boxPasses; decide,
   by unfold boxPasses; decide, by decide⟩
/-- A copy of 100 bytes whose sides pass, and one whose source was absent. -/
theorem test_hyp_copy :
    (recState.cpSide 2 0x10000 (100 * 2 ^ 32) 100 false).err = none ∧ (recState.cpSide 2 0x10400 (100 * 2 ^ 32) 100 true).err = none ∧
    (recState.cpSide 2 0x10000 (100 * 2 ^ 32) 100 false).absent = none ∧ (recState.cpSide 2 0x30000 (100 * 2 ^ 32) 100 false).err = none ∧
    (recState.cpSide 2 0x30000 (100 * 2 ^ 32) 100 false).absent = some 1 := by decide
/-- The schedule's entry is due at the next stage; a queue that has ended stays. -/
theorem test_hyp_schedule : recState.schedBase = 0x10040 ∧ recState.cur.st.schedDone = false ∧
    recordAt recState 0x10040 32 0x10040 [2 ^ 61 + 3 * 2 ^ 48 + 7 * 2 ^ 45 + 2 ^ 18 + 2 ^ 16 + 1, 0x10000, 0x10400, 0] ∧
    (2 ^ 61 + 3 * 2 ^ 48 + 7 * 2 ^ 45 + 2 ^ 18 + 2 ^ 16 + 1) % 65536 ≤ 1 ∧ State.schedBase (bound {}) = 0 ∧
    (0 : Nat) < (2 ^ 61 + 3 * 2 ^ 48 + 7 * 2 ^ 45 + 2 ^ 18 + 2 ^ 16 + 1) % 65536 :=
  ⟨by decide, rfl, ⟨_, _, rfl, rfl, rfl, rfl, by decide +kernel⟩, by decide, by decide, by decide⟩
/-- Rows of a tile drain to a box; a reduction at home and in another module; one gathered token. -/
theorem test_hyp_engine :
    (Tsr.of boxWords).valid = true ∧ (Tsr.of boxWords).sp = 0 ∧ (Tsr.of boxWords).rows 0x10400 1 ≠ [] ∧
    (∀ r ∈ (Tsr.of boxWords).rows 0x10400 1, ∃ d : DevRange, recState.devSpan true r.addr r.n = .ok d ∧ d.absent = none) ∧
    recState.devCheck 0 0x10400 128 false true false = .ok { idx := 0, run := { aRun with size := 0x10000 }, va := 0x10400, pa := some 0x20400 } ∧
    recState.devCheck 0 0x10480 8 false true false = .ok { idx := 0, run := { aRun with size := 0x10000 }, va := 0x10480, pa := some 0x20480 } ∧
    (2 ^ 42).testBit 42 = true :=
  ⟨by decide, by decide, by decide, by
    intro r hr
    have h : r = (⟨0, 0, 8, 0x10400⟩ : BoxRow) := by
      have : (Tsr.of boxWords).rows 0x10400 1 = [⟨0, 0, 8, 0x10400⟩] := by decide
      simpa [this] using hr
    exact ⟨_, by rw [h]; rfl, rfl⟩, rfl, rfl, by decide⟩
def kvB : KvBind := { desc := 0x10080, w := [0xC000000000000000, 0x100C0, 0x10100, 1], geom := [0x100000] }
set_option maxRecDepth 20000 in
theorem test_hyp_gather : recState.cur.st.kv = some kvB ∧ 0 < ((KvBind.geo kvB).hd * Ty.f.width + 1023) / 1024 ∧
    (0 + 1 - 1) / 16 - 0 / 16 ≤ 1 ∧ 0 < (KvBind.geo kvB).layers ∧ 0 < (KvBind.geo kvB).heads ∧
    (∀ i < 1, (3 + i) % 8192 < recState.cur.rows) ∧
    ∃ ts s1, recState.gatherTokens 0 (KvBind.geo kvB) 0 1 false 1 0 = (.ok ts, s1) :=
  ⟨rfl, by decide, by decide, by decide, by decide, by decide, ⟨_, _, rfl⟩⟩
set_option maxRecDepth 20000 in
/-- A descriptor and its geometry that pass, and the walk of block 0; a word that is no descriptor; an absent one. -/
theorem test_hyp_kv :
    let w := [2 ^ 63 + 2 ^ 62, 0x100C0, 0x10100, 1, 0, 0, 0, 0]
    recordAt recState 0x10080 64 0x10080 w ∧ recordAt recState 0x100C0 64 0x100C0 [16 * 2 ^ 16, 0, 0, 0, 0, 0, 0, 0] ∧
    recordAbsentAt recState 0x30000 64 ∧
    (∃ s1, recState.kvWalk 0 (KvGeo.of 0x10080 w [16 * 2 ^ 16]) 0 true = (.ok (0x11000, 0x21000), s1)) ∧
    descOk w = true ∧ geomAddr w = 0x100C0 ∧ geomOk [16 * 2 ^ 16, 0, 0, 0, 0, 0, 0, 0] = true ∧ geomOk w = false ∧
    descOk boxWords = false ∧ (KvGeo.of 0x10080 w [16 * 2 ^ 16]).wr = true ∧
    recState.mixtrap 0 = false ∧ recState.bad = [] ∧ leValue ((recState.peek 0x21000 8).take 2) ≤ 1 ∧ recState.lostLinks = [] ∧
    recState.sealTag 0x21000 = 0 ∧ ({ seals := [(0x10000000, 5)] } : State).sealTag 0x10000000000 ≠ 0 := by
  refine ⟨⟨_, _, rfl, rfl, rfl, rfl, ?_⟩, ⟨_, _, rfl, rfl, rfl, rfl, ?_⟩, ⟨_, rfl, rfl⟩, ⟨_, rfl⟩, ?_⟩ <;> decide +kernel

/-! ## The sequencer and the prefix table (O: Sequencer, KvBindingAndPrefixTable) -/

/-- A sequencer that the strand owns, with a `mzero acc0` in slot 0, one level of two trips, and its counters at their last tuple. -/
def zeroTmpl : Tmpl := { mw := 0xB000000000, en := 1 }
def pairTmpl : Tmpl := { mw := 0x9 * 2 ^ 36 + 2 * 2 ^ 24 + 2 ^ 8, en := 1 }
def seqWith (t : Tmpl) (m : LnsMode) (o : Option Nat) : State :=
  { recState with cores := [(0, { lns := { mode := m, owner := o, tmpl := [(0, t)], lvl := [(0, (2, 0))], trips := [2, 1, 1, 1, 1, 1], cnt := [1, 0, 0, 0, 0, 0] } })] }
theorem test_hyp_sequencer_load : mayLoad (seqWith zeroTmpl .idle (some 0)) ∧ mayLoad (seqWith zeroTmpl .idle none) ∧ ¬ mayLoad (seqWith zeroTmpl .running (some 0)) ∧
    ¬ mayLoad (seqWith zeroTmpl .idle (some 1)) ∧ Tmpl.ok (templateOf [0xB000000000, 0, 2 ^ 16, 0]) 1 [] = true ∧
    Tmpl.ok (templateOf [0xB000000000, 0, 2 ^ 16, 0]) 0 [] = false ∧ Tmpl.ok pairTmpl 1 [4] = false := by
  unfold mayLoad; decide
set_option maxRecDepth 20000 in
theorem test_hyp_sequencer_records : recordAt recState 0x10140 32 0x10140 [0xB000000000, 0, 2 ^ 16, 0] ∧
    recordAt recState 0x10180 16 0x10180 [0, 0] ∧ recordAt recState 0x101C0 64 0x101C0 [0, 0, 0, 0, 0, 0, 0, 0] ∧
    recordAbsentAt recState 0x30000 32 ∧ ¬ (2 ^ 53 / 2 ^ 53 % 2 ^ 10 = 0) ∧ srcG recState (.reg 13) = 0 ∧ srcG recState (.reg 8) ≠ 0 := by
  refine ⟨⟨_, _, rfl, rfl, rfl, rfl, ?_⟩, ⟨_, _, rfl, rfl, rfl, rfl, ?_⟩, ⟨_, _, rfl, rfl, rfl, rfl, ?_⟩, ⟨_, rfl, rfl⟩, ?_⟩ <;>
    decide +kernel
/-- A run that may start, without and with a pair, and one that may not; a run that has stopped; a tuple that is the last, and one
that is not; counters below their trips. -/
theorem test_hyp_sequencer_run :
    (seqOf (seqWith zeroTmpl .idle (some 0))).order = [0] ∧ (seqOf (seqWith zeroTmpl .idle (some 0))).pairReg = none ∧
    (seqOf (seqWith pairTmpl .idle (some 0))).pairReg = some 2 ∧ (seqOf (seqWith {} .idle (some 0))).order = [] ∧
    (seqOf (seqWith zeroTmpl .stopped (some 0))).mode = .stopped ∧ (seqOf (seqWith zeroTmpl .stopped none)).mode ≠ .running ∧
    tupleValue [1, 0, 0, 0, 0, 0] [2, 1, 1, 1, 1, 1] + 1 = tupleCount [2, 1, 1, 1, 1, 1] ∧
    tupleValue [0, 0, 0, 0, 0, 0] [2, 1, 1, 1, 1, 1] + 1 < tupleCount [2, 1, 1, 1, 1, 1] ∧
    (∀ i < 6, [1, 0, 0, 0, 0, 0].getD i 0 < [2, 1, 1, 1, 1, 1].getD i 0) ∧ (1 : Nat) ∉ (seqOf (seqWith zeroTmpl .idle none)).order := by
  decide
theorem test_hyp_template : (zeroTmpl.m = some (.mzero ⟨.always, 0⟩)) ∧ zeroTmpl.en = 1 ∧
    ((seqOf (seqWith zeroTmpl .running (some 0))).template 0) = zeroTmpl ∧
    (let c := FMap.getD (seqWith zeroTmpl .running (some 0)).ctxs 0 {}
     c.st.flight = [] ∧ c.dormant = false ∧ c.dawnHeld = false ∧ c.freeze = false ∧ c.st.mode ≠ .frozen ∧ c.st.mode ≠ .ended) ∧
    (seqOf (seqWith zeroTmpl .idle none)).owner = none := ⟨rfl, rfl, rfl, ⟨rfl, rfl, rfl, rfl, by decide, by decide⟩, rfl⟩

/-- Entry 0 of the table belongs to the strand's address space, with its page at 0x11000; the page's pin count is `n`. -/
def pfxWith (n : Nat) (full : Bool) : State :=
  { recState with
    mem := words recMem 0x21000 [n]
    dies := [(0, { tlb := [(1, leafAt 0x10000 0x20000), (1, leafAt 0x11000 0x21000)]
                   pfx := (List.range (if full then 64 else 1)).map fun i => (i, { valid := true, asn := 1, hash := 7, page := 0x11000, tok := 0x10000 }) })] }
theorem test_hyp_prefix_entries : visible (pfxWith 1 false) 0 ∧ ¬ visible (pfxWith 1 false) 1 ∧
    (entryAt (pfxWith 1 false) 1).valid = false ∧ (∀ j < 1, (entryAt (pfxWith 1 false) j).valid = true) ∧
    (∀ e < 64, (entryAt (pfxWith 1 true) e).valid = true) := by unfold visible; decide +kernel
set_option maxRecDepth 20000 in
theorem test_hyp_prefix_pages : (∃ s1, (pfxWith 1 false).pfxAddr 0 1 0x11000 true = (some 0x21000, s1)) ∧
    (∃ s1, (pfxWith 1 false).pfxAddr 0 1 0x11001 true = (none, s1)) ∧ (∃ s1, (pfxWith 1 false).pfxAddr 0 1 0x10000 false = (some 0x20000, s1)) ∧
    inTags 0x21000 = false ∧ inLpddr 0x21000 = true ∧ memClean (pfxWith 1 false) 0x21000 8 ∧ unowned (pfxWith 1 false) 0x21000 8 ∧
    pinsAt (pfxWith 65535 false) 0x21000 = 65535 ∧ pinsAt (pfxWith 2 false) 0x21000 = 2 ∧ pinsAt (pfxWith 1 false) 0x21000 = 1 ∧
    Memory.wf (pfxWith 1 false).mem = true :=
  ⟨⟨_, rfl⟩, ⟨_, rfl⟩, ⟨_, rfl⟩, by decide, by decide, (nofun : ∀ w ∈ [], _), by unfold unowned; decide +kernel, by decide +kernel, by decide +kernel,
   by decide +kernel, by decide +kernel⟩
set_option maxRecDepth 20000 in
theorem test_hyp_prefix_operand : ∃ bs, operandAt recState 0x10000 64 1 bs := by
  refine ⟨recState.peek 0x20000 64, by decide +kernel, fun i hi => ?_⟩
  obtain rfl : i = 0 := by omega
  exact ⟨{ idx := 0, run := { aRun with size := 0x10000 }, va := 0x10000, pa := some 0x20000 }, 0x20000, rfl, rfl, rfl, by decide +kernel⟩

/-! ## Traps, results, holds and engines (O: TrapsAndWaits to Engines) -/

/-- The bundle of a lone `crew.sync`: PRES L, OP 0x1C; and of a lone `ld.loc.d.take g7, [b1]`. -/
def syncBytes : List Byte := leBytes 10 0x01C00000000002000000
def takeBytes : List Byte := [0, 0, 0, 0x80, 0, 0, 0x4C, 0xC1, 1, 8]
/-- A strand at a bundle, with an alarm, a known-answer mismatch and a fault of its sequencer pending. -/
def trapState (m : Mode) (inh : Bool) : State :=
  { bound { runs := [aRun, { aRun with va := 0x20000, resident := false }], fetchBase := 0x10FF0, fetchBuf := syncBytes
            st := { pc := 0x10FF0, mode := m, kat := some 5, lnsFault := some { cause := .kvFault, slot := 4 },
                    ctl := { alarm := 9, intrap := inh, tvec := 0x8001 } } } with clock := 9 }
theorem test_hyp_between_bundles : (trapState .wait false).ctx 0 = (trapState .wait false).cur ∧ alarmDue (trapState .wait false) 0 ∧
    ¬ alarmDue { trapState .wait false with clock := 8 } 0 ∧ mayTrap (trapState .run false) 0 ∧ mayTrap (trapState .wait false) 0 ∧
    ¬ mayTrap (trapState .hold false) 0 ∧ ((trapState .run true).ctx 0).st.ctl.intrap = true ∧
    ((trapState .run false).ctx 0).st.kat = some 5 ∧ Cause.kvFault ∉ [Cause.feRetry, .missedPromise, .katMismatch, .brk, .timer] := by
  unfold alarmDue mayTrap; decide
/-- The places in which a strand takes the fault of its template, and its other conditions. -/
theorem test_hyp_learns (m : Mode) (h : m = .run ∨ m = .hold ∨ m = .fuseWait ∨ m = .sleep 9 true) : mayLearn (trapState m false) 0 ∧
    ((trapState m false).ctx 0).st.lnsFault = some { cause := .kvFault, slot := 4 } ∧ ((trapState m false).ctx 0).reissue = none ∧
    (FMap.getD (trapState m false).cores (0 / 4) {}).lns.mode ≠ .running := by
  refine ⟨?_, rfl, rfl, by show LnsMode.idle ≠ .running; decide⟩
  rcases h with rfl | rfl | rfl | rfl
  · exact Or.inl (by unfold mayTrap; decide)
  · exact Or.inr ⟨by decide, rfl, rfl, rfl, Or.inl ⟨rfl, rfl⟩⟩
  · exact Or.inr ⟨by decide, rfl, rfl, rfl, Or.inr (Or.inl rfl)⟩
  · exact Or.inr ⟨by decide, rfl, rfl, rfl, Or.inr (Or.inr ⟨9, true, rfl, by decide⟩)⟩
/-- A sleep at its tick, with a copy that was promised by then. -/
theorem test_hyp_sleep : ((trapState (.sleep 9 true) false).ctx 0).st.mode = .sleep 9 true ∧ (trapState .run false).clock.toNat = 9 ∧
    ∃ k ∈ [({ id := 1, cx := 0, queue := 0, kind := .settle, barrier := none, sectors := 1, promised := 9, doneAt := 9 } : Cmd)],
      k.cx = 0 ∧ k.isCopy = true ∧ k.promised ≤ 9 := by decide
/-- Code in a page that was not resident at dispatch, and code past the end of every run; the bytes before them can be fetched. -/
theorem test_hyp_fetch : fetchCode (trapState .run false) 0 0x20000 4 ∧ fetchCode (trapState .run false) 0 0x30000 5 ∧
    ¬ fetchable (trapState .run false) 0 0x20000 ∧ fetchable (trapState .run false) 0 0x10FF9 ∧
    buffered ((trapState .run false).ctx 0) 0x10FF0 4 ∧ headerAt ((trapState .run false).ctx 0) = 0x02000000 := by
  refine ⟨⟨fun _ => rfl, fun h => ?_⟩, ⟨fun ⟨r, h, _⟩ => ?_, fun _ => rfl⟩, ?_, ⟨aRun, rfl, rfl, rfl, rfl, rfl, rfl, rfl⟩, by unfold buffered; decide, by decide⟩
  · exact absurd (h { aRun with va := 0x20000, resident := false } rfl) (by decide)
  · exact nomatch (h.symm.trans rfl : some r = none)
  · rintro ⟨r, h, hr, _⟩
    have e : some r = some { aRun with va := 0x20000, resident := false } := h.symm.trans rfl
    cases e
    exact absurd hr (by decide)
/-- DUE has risen for a waiting context. -/
theorem test_hyp_wait : ((trapState .wait false).flagsOf 0).getLsbD 38 = true ∧ ((trapState .wait false).ctx 0).waitFlags.getLsbD 38 = false := by
  decide
/-- A promised load without its data, and a known-answer compare at its end. -/
def lateState (x : Option Nat) : State :=
  { bound { st := { flight := [{ op := .g 1 {}, left := 1, lands := x }] } } with clock := 4 }
theorem test_hyp_promises : (∀ e ∈ ((lateState (some 5)).ctx 0).st.flight, e.missed = false) ∧ (((lateState (some 5)).ctx 0).st.flight[0]?.bind fun e => e.lands) = some 5 ∧
    (FMap.getD (lateState none).cores 0 {}).divBusy ≤ 1 := by decide
theorem test_hyp_kat : ∀ e ∈ [({ op := .mkat 5 true, latch := none, left := 0 } : Flight)], e.left = 0 ∧ e.op = .mkat 5 true ∧ e.latch = none := by
  simp

/-- A context that holds for the word at 0x20000, in the form and memory given. -/
def holding (r : HoldReq) (full : Bool) : State :=
  { bound { rows := 4, st := { mode := .hold }, hold := some { presented := 0, req := some r, bytes := takeBytes } } with
    full := if full then [0x4000] else [], locFull := if full then [0] else [], clock := 100 }
theorem test_hyp_held :
    (let r := HoldReq.fe (.dev 0x20000) .take 0 0x10000 2
     holdsWith (holding r true) 0 { presented := 0, req := some r, bytes := takeBytes } r ∧ formHolds .take ∧
     formFits .take (inSet (holding r true).full (0x20000 / 8)) ∧ ¬ formFits .take (inSet (holding r false).full (0x20000 / 8)) ∧
     (holding r true).stored = true ∧ inLpddr 0x20000 = true ∧ memClean (holding r true) 0x20000 8 ∧
     memClean (holding r true) (tagAddr 0x20000) 8 ∧ unowned (holding r true) 0x20000 8) ∧
    (let r := HoldReq.fe (.loc 0) .fill 0 0 0
     holdsWith (holding r false) 0 { presented := 0, req := some r, bytes := takeBytes } r ∧
     formFits .fill (inSet (holding r false).locFull 0) ∧ padClean (holding r false) 0 8) ∧
    (let r := HoldReq.bar 0 0 (some 100)
     holdsWith (holding r false) 0 { presented := 0, req := some r, bytes := takeBytes } r ∧
     padClean (holding r false) 0 16 ∧ slotLMet (holding r false) 0 { presented := 0, req := some r, bytes := takeBytes } ∧
     phaseOf (Memory.num (holding r false).loc 0 16) = 0 ∧ 100 ≤ (holding r false).clock.toNat) := by
  refine ⟨⟨⟨rfl, rfl, rfl, rfl, rfl⟩, Or.inr (Or.inl rfl), Or.inl ⟨Or.inr rfl, rfl⟩, ?_, rfl, by decide, (nofun : ∀ w ∈ [], _), (nofun : ∀ w ∈ [], _), by unfold unowned; decide⟩,
    ⟨⟨rfl, rfl, rfl, rfl, rfl⟩, Or.inr ⟨rfl, rfl⟩, (nofun : ∀ w ∈ [], _)⟩,
    ⟨⟨rfl, rfl, rfl, rfl, rfl⟩, (nofun : ∀ w ∈ [], _), Or.inr nofun, by decide, by decide⟩⟩
  rintro (⟨-, h⟩ | ⟨h, -⟩)
  · exact absurd h (by decide)
  · exact absurd h (by decide)
/-- A hold with no fence, and one behind a fence that waits for a command. -/
theorem test_hyp_form_alone :
    (let r := HoldReq.fe (.dev 0x20000) .take 0 0x10000 2
     formAlone (holding r true) 0 { presented := 0, req := some r, bytes := takeBytes }) ∧
    busy.lReady 0 (.fenceQ 1) = false ∧ busy.lReady 0 (.fenceQ 2) = true ∧
    ¬ slotLMet busy 0 { presented := 0, lreq := some (.fenceQ 1) } ∧ slotLMet busy 0 { presented := 0, lreq := some (.fenceQ 1), synced := true } :=
  ⟨⟨Or.inr nofun, by decide +kernel⟩, by decide, by decide, by rintro (h | h); exacts [absurd h (by decide), absurd (h _ rfl) (by decide)], Or.inl rfl⟩
/-- A form that has been performed, in a strand whose core's sequencer does not run; one that has not. -/
def tookHold (v : Option Word) : Hold := { presented := 0, req := some (.fe (.loc 0) .take 0 0 0), got := v, bytes := takeBytes }
def tookState (v : Option Word) : State := bound { rows := 4, st := { mode := .hold }, hold := some (tookHold v) }
theorem test_hyp_took : (tookHold (some 5)).commits = true ∧ (tookHold none).commits = false ∧ (tookState (some 5)).boot.powered = true ∧
    (FMap.getD (tookState (some 5)).cores 0 {}).lns.mode ≠ .running ∧ ((tookState (some 5)).ctx 0).st.flight = [] ∧
    localRow (seenFrom (tookState (some 5)) 0) (.reg 1) (wordRowOff 0) < ((tookState (some 5)).ctx 0).rows ∧
    Pred.holds .always (tookHold (some 5)).q = true ∧ (tookState none).stored = true ∧ FMap.sorted (tookState none).ctxs = true ∧
    (tookHold none).synced = false := by decide +kernel
/-- The bundles decode, and a lone strand's crew has met. -/
theorem test_hyp_hold_bundles :
    ((decodeBundle syncBytes).map fun b => b.slots.map fun x => x.2.2.toOption) = some [some (.l (.crewSync ⟨.always⟩))] ∧
    ((decodeBundle takeBytes).map fun b => b.slots.map fun x => x.2.2.toOption) =
      some [some (.s (.ldLoc ⟨.always, ⟨false, 7⟩, .reg 1, .take, false, .d, .reg 0, 0⟩))] ∧
    ((decodeBundle takeBytes).map fun b => (b.head.wait, b.head.stop)) = some (false, false) ∧
    (trapState .run false).fetch 0 = .bytes syncBytes := ⟨rfl, rfl, rfl, rfl⟩
/-- A job that parks, with room in its park region. -/
def parking : State :=
  { holding (.fe (.dev 0x20000) .take 0 0x10000 2) false with
    tasks := [(0x4000, { aTask with jrec := [0x1000000000000000, 0, 0, 0, 1] })] }
theorem test_hyp_park : (∃ p, parking.park 0x4000 0x20000 .take = some p) ∧ parking.clock.toNat = 100 ∧
    ((aTask.jrec.headD 0).getLsbD 60 = false) := ⟨⟨_, rfl⟩, by decide, by decide⟩

/-- A sector that settles, a result that lands, and a command of each kind at the head of its queue. -/
def cmdOf (q : Nat) (k : CmdKind) (code : Nat) (b : Option Nat) : Cmd :=
  { id := 1, cx := 0, queue := q, kind := k, barrier := b, sectors := 1, code := code, promised := 9, doneAt := 9, evt := some 31 }
def engineState (c : Cmd) : State := { bound { rows := 4 } with cmds := [c], loc := Memory.setNum [] 0 16 (2 ^ 24 + 3 * 2 ^ 4) }
theorem test_hyp_engines :
    headsQueue (engineState (cmdOf 0 .settle 5 (some 0))) 0 0 (cmdOf 0 .settle 5 (some 0)) ∧ (engineState (cmdOf 0 .settle 5 (some 0))).stored = true ∧
    (engineState (cmdOf 0 .settle 5 (some 0))).lostLinks = [] ∧ State.reset.boot.jobtab % 64 = 0 ∧
    1 ≤ secOf (Memory.num (engineState (cmdOf 0 .settle 5 (some 0))).loc 0 16) ∧ padClean (engineState (cmdOf 0 .settle 5 (some 0))) 0 16 ∧
    headsQueue (engineState (cmdOf 4 (.reduce .s32 0 (.dev 0x20000) (some (.dev 0x20080)) 1) 0 none)) 0 4
      (cmdOf 4 (.reduce .s32 0 (.dev 0x20000) (some (.dev 0x20080)) 1) 0 none) ∧
    (∀ i < 8, inLpddr (0x20000 + i) = true) ∧ 0x20080 % 64 ≤ 40 ∧ 0x20000 + 128 ≤ 0x20080 :=
  ⟨⟨rfl, rfl⟩, rfl, rfl, rfl, by decide +kernel, (nofun : ∀ w ∈ [], _), ⟨rfl, rfl⟩, by decide, by decide, by decide⟩
/-- An interlocked result for a register in which one of a later issue, or of an earlier one, has landed in the cycle. -/
theorem test_hyp_beaten : let p : Pend := { id := 1, reg := some (.g 2), latch := some 3, kind := .value 5 0 9 }
    beatenG { landRegs := [(.g 2, 4)] } p = true ∧ beatenG { landRegs := [(.g 2, 0)] } p = false ∧ beatenG {} p = false ∧
    beatenX { landLatches := [(3, 4)] } p 3 = true ∧ beatenX {} p 3 = false := by decide
/-- A command that its engine has started, with and without a request of it outstanding, and a move that has not been started. -/
def started1 : Cmd := { cmdOf 0 .settle 0 (some 0) with started := true }
def startedState (rs : List OutReq) : State := { engineState started1 with outReqs := rs }
def reqOf1 : OutReq := { tag := ⟨1, 0, 0, 0⟩, mod := 2, op := .load 0 8, sent := 0, tries := 0, cx := 0, pend := none, cmd := some 1, port := 0 }
theorem test_hyp_started (rs : List OutReq) : headsQueue (startedState rs) 0 0 started1 ∧ started1.started = true ∧ started1.code = 0 ∧
    (∃ r ∈ (startedState [reqOf1]).outReqs, r.cmd = some started1.id) ∧ (startedState []).outReqs = [] :=
  ⟨⟨rfl, rfl⟩, rfl, rfl, ⟨reqOf1, List.mem_singleton.2 rfl, rfl⟩, rfl⟩
def moveOf1 : Cmd := cmdOf 0 (.move [] [{ src := .dev 0x20000, dst := .loc 8, n := 16 }] false) 0 none
theorem test_hyp_move : headsQueue (engineState moveOf1) 0 0 moveOf1 ∧ moveOf1.started = false ∧ (∀ i < 16, inLpddr (0x20000 + i) = true) ∧
    memClean (engineState moveOf1) 0x20000 16 ∧ padClean (engineState moveOf1) 8 16 :=
  ⟨⟨rfl, rfl⟩, rfl, by decide, (nofun : ∀ w ∈ [], _), (nofun : ∀ w ∈ [], _)⟩
/-- A crew of two with rotations of one row that match, and of one and two rows that do not. -/
def rotState (n : Nat) : State :=
  let c (m : Nat) : Ctx := { task := some 0x4000, rows := 4, rowBase := 8, st := { ctl := { member := BitVec.ofNat 3 m } } }
  let k (id cx m b : Nat) : Cmd := { id := id, cx := cx, queue := 1, kind := .rotate 0 1 m false, barrier := some b, sectors := 4 * m, promised := 0, doneAt := 0 }
  { ctxs := [(0, c 0), (4, c 1)], cmds := [k 1 0 1 0, k 2 4 n 0x100000]
    loc := Memory.setNum (Memory.setNum [] 0 16 (8 * 2 ^ 24)) 0x100000 16 (8 * 2 ^ 24) }
theorem test_hyp_rotations : (∀ n ∈ [1, 2],
      ((rotState n).ctxs.filter fun e => e.2.task = some 0x4000).map Prod.fst = [0, 4] ∧ (rotState n).stored = true ∧
      ((rotState n).ctx 4).st.ctl.member = 1 ∧ 4 ≤ secOf (Memory.num (rotState n).loc 0 16) ∧ 4 * n ≤ secOf (Memory.num (rotState n).loc 0x100000 16)) ∧
    (∃ c, headsQueue (rotState 1) 4 1 c ∧ c.id = 2) ∧ padClean (rotState 1) (padKey 0 8 1 0) 128 ∧ padKey 0 8 1 0 + 128 ≤ padKey 1 8 1 0 ∧
    1 < ((rotState 1).ctx 0).rows :=
  ⟨by decide +kernel, ⟨_, ⟨rfl, rfl⟩, rfl⟩, (nofun : ∀ w ∈ [], _), by decide, by decide⟩

/-! ## The selector, task records, retirement and walks (O: SelectorFetchAndLockStep to RetirementAndWalks) -/

open Sys2Proof.Claims in
/-- A core whose context 0 waits for a fusion, whose context 2 has been eligible for a quantum, and whose context 3 is inside a group. -/
def selState (g : Bool) : State :=
  { ctxs := [(0, { task := some 0x4000, runs := [aRun], fetchBase := 0x10FC0, fetchBuf := syncBytes, fetchAt := some 9, probe := some 1
                   st := { mode := .fuseWait, pc := 0x10FC0 } }),
             (2, { task := some 0x4000, runs := [aRun], fetchBase := 0x10FF0, fetchBuf := syncBytes, st := { pc := 0x10FF0 }, eligFor := 4096 }),
             (3, { task := some 0x4000, atBoundary := false })]
    cores := [(0, { gated := g })], tasks := [(0x4000, { aTask with place := some ⟨0, [(0, 0, 0)]⟩ })] }
theorem test_hyp_selector : quantumSpent (selState true) 0 ∧ ¬ insideGroup (selState true) (runningOn (selState true) 0) ∧
    insideGroup (selState true) 3 ∧ ¬ quantumSpent (selState true) 1 ∧ (∀ e, 0 < e → e < 2 → (selState true).eligible (after_ (selState true) 0 e) = false) ∧
    (selState true).eligible (after_ (selState true) 0 2) = true ∧ (FMap.getD (selState true).cores 0 {}).gated = true ∧
    (∃ i < 4, (selState true).eligible (0 * 4 + i) = true) ∧ (FMap.getD (selState false).cores 0 {}).gated = false ∧
    (∀ i < 4, (selState true).eligible (4 + i) = false) := by
  unfold quantumSpent
  refine ⟨by decide, fun h => absurd h.2.1 (by decide), ⟨by decide, by decide, by decide, by decide, ?_⟩, by decide, fun e h h' => ?_, by decide +kernel, by decide, ⟨2, by decide, by decide +kernel⟩, by decide, by decide⟩
  · rintro ⟨-, h | ⟨bs, b, h, -⟩⟩
    · exact absurd h (by decide)
    · have e : (match State.fetch (selState true) 3 with | .bytes _ => true | _ => false) = false := by decide +kernel
      rw [h] at e
      exact Bool.noConfusion e
  · rw [show e = 1 by omega]; decide
/-- A gated core whose contexts' `%flags` are as it last saw them, and one of which they have changed; no context of it is eligible. -/
def gatedState (l : List Word) : State :=
  { ctxs := [(0, { task := some 0x4000, st := { mode := .wait } })], cores := [(0, { gated := true, seen := l })] }
theorem test_hyp_ungate : let f := (List.range 4).map fun i => (gatedState []).flagsOf (0 * 4 + i)
    (List.range 4).map (fun i => (gatedState f).flagsOf (0 * 4 + i)) = f ∧ f ≠ [] ∧
    ∀ i < 4, (gatedState f).eligible (0 * 4 + i) = false := by decide +kernel
theorem test_hyp_fetch_line : ((selState true).ctx 2).fetchAt = none ∧ ((selState true).ctx 0).fetchAt ≠ none ∧
    runAt (selState true) 0 (0x10FC0 + 10) aRun ∧ aRun.resident = true := ⟨by decide, by decide, rfl, rfl⟩
theorem test_hyp_fuse :
    let x := { aTask with place := some ⟨0, [(0, 0, 0)]⟩ }
    FMap.find (selState true).tasks 0x4000 = some x ∧ crewContexts x ⟨0, [(0, 0, 0)]⟩ = [0] ∧
    (∀ cx ∈ [0], ((((selState true).ctx cx).st.mode = .fuseWait ∨ ((selState true).ctx cx).st.ctl.fused = true) ∧
      ((selState true).ctx cx).freeze = false ∧ ((selState true).ctx cx).dormant = false ∧ ((selState true).ctx cx).dawnHeld = false)) ∧ (∃ cx ∈ [0], ((selState true).ctx cx).st.mode = .fuseWait) ∧
    ((selState true).ctx 0).probe = some 1 ∧ ((selState true).ctx 2).st.mode ≠ .fuseWait := by decide

/-- A system with a job table at 0x40000 (ASN 0) and task records of job 3 from 0x10000 on. -/
def sysState : State :=
  { bound { runs := [{ aRun with size := 0x10000 }, { aRun with va := 0x30000, resident := false }],
            st := { g := gs [(1, 0x10000), (2, 0x10080), (3, 0x10100), (4, 0x10180), (5, 0x10200), (6, 0x10280), (7, 0x30000), (8, 7), (9, 1)], ctl := { job := 3 }
                    pend := [{ id := 1, reg := some (.g 1), kind := .walk 0x10000 5 }, { id := 2, reg := some (.g 2), kind := .walk 0x30000 5 },
                             { id := 3, reg := some (.g 3), kind := .sweep 7 5 }] } } with
    mem := words (words (words (words (words (words (words [] 0x400C0 [2 ^ 63, 0, 0, 0, 0, 0, 0, 0]) 0x20000 [0, 3 * 2 ^ 52])
      0x20080 [2 ^ 48 + 2 ^ 32, 3 * 2 ^ 52]) 0x20100 [2 ^ 49 + 5 * 2 ^ 32, 3 * 2 ^ 52]) 0x20180 [2 ^ 32, 3 * 2 ^ 52 + 5 * 2 ^ 42])
      0x20200 [0, 4 * 2 ^ 52]) 0x20280 [2 ^ 48, 3 * 2 ^ 52]
    boot := { jobtab := 0x40000, asntab := 0x50000 }
    dies := [(0, { tlb := [(0, leafAt 0x40000 0x40000), (1, leafAt 0x30000 0x22000)] })]
    tasks := [(0x4000, { aTask with jrec := [2 ^ 57] })] }
def sysRec (k : Nat) : List Nat := wordsOf (sysState.peek (0x20000 + 128 * k) 128)
set_option maxRecDepth 20000 in
theorem test_hyp_task_record (k : Nat) (h : k < 6) :
    taskRecordAt sysState (BitVec.ofNat 64 (0x10000 + 128 * k)) (0x10000 + 128 * k) (0x20000 + 128 * k) (sysRec k) := by
  have : k = 0 ∨ k = 1 ∨ k = 2 ∨ k = 3 ∨ k = 4 ∨ k = 5 := by omega
  rcases this with rfl | rfl | rfl | rfl | rfl | rfl <;> exact ⟨_, rfl, rfl, by decide +kernel, rfl, rfl, rfl, by decide⟩
theorem test_hyp_task_words :
    recordAbsentAt sysState (srcG sysState (.reg 7)) 128 ∧ passes sysState (.reg 1) ∧
    srcG sysState (.reg 3) = BitVec.ofNat 64 (0x10000 + 128 * 2) := ⟨⟨_, rfl, rfl⟩, Or.inl rfl, rfl⟩
/-- Record 4 is of another job and record 3 is not valid; 0 and 5 may be spawned, 1 and 2 have dependences to count. -/
theorem test_hyp_task_instructions : Memory.wf sysState.mem = true ∧
    recField (sysRec 4) 1 63 52 ≠ sysState.jobOf 0 ∧ (∀ k ∈ [0, 1, 2, 3, 5], recField (sysRec k) 1 63 52 = sysState.jobOf 0) ∧
    (sysState.jobRec 0 3).1 = some [0x8000000000000000, 0, 0, 0, 0, 0, 0, 0] ∧ ((bound {}).jobRec 0 3).1 = none ∧
    recOk (sysRec 3) (readableIn sysState.cur.runs) (2 ^ 32) = false ∧ (∀ k ∈ [0, 1, 2, 5], recOk (sysRec k) (readableIn sysState.cur.runs) (2 ^ 32) = true) ∧
    recIdle (sysRec 0) = true ∧ recIdle (sysRec 1) = false ∧ recField (sysRec 0) 0 63 48 = 0 ∧
    recField (sysRec 1) 0 63 48 = 1 ∧ recField (sysRec 1) 0 34 32 = 1 ∧ recField (sysRec 2) 0 63 48 = 2 ∧
    recIdle (sysRec 5) = true ∧ recField (sysRec 5) 0 63 48 ≠ 0 ∧ FMap.find sysState.tasks 0x20080 = none := by decide +kernel
theorem test_hyp_retire :
    (∃ x, sysState.taskOf 0 = some x ∧ (x.jrec.headD 0).getLsbD 57 = true) ∧ ¬ (∃ x, (bound {}).taskOf 0 = some x ∧ (x.jrec.headD 0).getLsbD 57 = true) ∧
    (let busy (a : Nat) : Prop := ∃ e ∈ sysState.tasks, e.2.state ≠ .idle ∧ e.2.state ≠ .ended ∧
        (e.2.asn = a ∨ ∃ j, (sysState.jobRec e.2.die e.2.job).1 = some j ∧ (j.getD 0 0).toNat % 2 ^ 16 = a)
     busy 1 ∧ ¬ busy 7) ∧ (sysState.asnEntry 7).1 ≠ 2 ∧
    (({ sysState with mem := words [] 0x50070 [2 ^ 63] }).asnEntry 7).1 = 2 := by
  refine ⟨⟨_, rfl, rfl⟩, ?_, ⟨⟨(0x4000, { aTask with jrec := [2 ^ 57] }), by decide +kernel, nofun, nofun, Or.inl rfl⟩, ?_⟩, by decide +kernel, by decide +kernel⟩
  · rintro ⟨x, h, h'⟩; cases h; exact absurd h' (by decide)
  · rintro ⟨e, h, -, -, h'⟩
    rw [show e = (0x4000, { aTask with jrec := [2 ^ 57] }) from List.mem_singleton.1 h] at h'
    rcases h' with h' | ⟨j, hj, h'⟩
    · exact absurd h' (by decide)
    · have : (some j : Option (List Word)) = some [0x8000000000000000, 0, 0, 0, 0, 0, 0, 0] := hj.symm.trans (by decide +kernel)
      cases this
      exact absurd h' (by decide)
theorem test_hyp_walk_ends :
    (sysState.ctx 0).st.pend.find? (fun q => q.id = 1) = some { id := 1, reg := some (.g 1), kind := .walk 0x10000 5 } ∧
    (sysState.ctx 0).st.pend.find? (fun q => q.id = 3) = some { id := 3, reg := some (.g 3), kind := .sweep 7 5 } ∧
    runAt sysState 0 0x10000 { aRun with size := 0x10000 } ∧ runAt sysState 0 0x30000 { aRun with va := 0x30000, resident := false } ∧
    (sysState.translate 0 (sysState.asnOf 0) 0x30000).1 = some (leafAt 0x30000 0x22000) ∧
    (({ sysState with dies := [] }).translate 0 (sysState.asnOf 0) 0x30000).1 = none ∧ (sysState.ctx 0).runs.length ≤ 62 ∧
    (sysState.ctx 0).task = some 0x4000 ∧ FMap.find sysState.tasks 0x4000 = some { aTask with jrec := [2 ^ 57] } ∧
    ∀ p, beatenG (sysState.ctx 0) p = false :=
  ⟨rfl, rfl, rfl, rfl, by decide +kernel, by decide +kernel, by decide, rfl, rfl, fun _ => rfl⟩

/-! ## The scheduler (O: DispatchBindAndSave, ParkedAndFaulted) -/

/-- A die with one ready task of job 3: word 1 of its record, its job's words, and the ASN's state. -/
def jobWords (h : Nat) : List Nat := [2 ^ 63 + h * 2 ^ 62 + 1, 0, 0x10080, 0, 0, 2 ^ 59 + 0x11000, 0, 0]
def schTask (x : Task) : Task := { x with jrec := (jobWords 0).map (BitVec.ofNat 64), state := .ready }
def feLeaf (b : Bool) : Leaf := { leafAt 0x11000 0x21000 with fe := b }
def schState (x : Task) (w1 : Nat) (j : List Nat) (asn : Nat) (cl : Cluster) : State :=
  { mem := words (words (words (words [] 0x400C0 j) 0x4008 [w1]) 0x50010 [asn * 2 ^ 62]) 0x20080 [3 * 2 ^ 32]
    boot := { jobtab := 0x40000, asntab := 0x50000 }
    dies := [(0, { levels := [(2, [0x4000])],
                   tlb := [(0, leafAt 0x40000 0x40000), (1, feLeaf true), (1, leafAt 0x10000 0x20000)] })]
    clusters := [(0, cl)], tasks := [(0x4000, x)] }
def schJob (h : Nat) : List Word := (jobWords h).map (BitVec.ofNat 64)
def upCl : Cluster := { mode := .active, eff := 256 }
theorem test_hyp_top : topTask (schState (schTask aTask) 0 (jobWords 0) 1 upCl) 0 2 0x4000 ∧
    (∀ l, FMap.getD (FMap.getD (State.reset).dies 0 {}).levels l [] = []) ∧ FMap.sorted (FMap.getD (State.reset).dies 0 {}).levels = true := by
  refine ⟨⟨by decide, ⟨[], rfl⟩, fun l h => ?_, fun l h => ?_, by unfold onLines; decide, by decide⟩, fun _ => rfl, rfl⟩
  · have e : ¬ 2 = l := by omega
    simp [schState, FMap.getD, FMap.find, e]
  · simp [levelOf, schState, FMap.getD, FMap.find, h.symm]
/-- A killed task and one that is not, a halted job and one that is not, a retiring ASN and one that is not; a crew of two on a die of
whose clusters one core each works. -/
theorem test_hyp_decision : (schTask aTask).die = 0 ∧
    Memory.wf (schState (schTask aTask) 0 (jobWords 0) 1 upCl).mem = true ∧ (schTask aTask).saved = none ∧
    Memory.num (schState (schTask aTask) (2 ^ 51) (jobWords 0) 1 upCl).mem 0x4008 8 / 2 ^ 51 % 2 = 1 ∧
    Memory.num (schState (schTask aTask) 0 (jobWords 0) 1 upCl).mem 0x4008 8 / 2 ^ 51 % 2 = 0 ∧
    jobField (schJob 1) 0 62 62 = 1 ∧ jobField (schJob 0) 0 62 62 = 0 ∧ (schTask aTask).jrec = schJob 0 ∧
    ((schState (schTask aTask) 0 (jobWords 0) 2 upCl).asnEntry 1).1 = 2 ∧ ((schState (schTask aTask) 0 (jobWords 0) 1 upCl).asnEntry 1).1 ≠ 2 ∧
    jobField (schJob 0) 2 55 7 * 128 ≠ 0x4000 ∧
    (∀ cl < 32, workingCores { schState (schTask aTask) 0 (jobWords 0) 1 upCl with
      cores := (List.range 256).map fun i => (i, { working := i % 8 == 0 }) } 0 cl < ({ schTask aTask with size := 2 } : Task).size) ∧
    ((schTask aTask).extents.map fun w => w.toNat % 2 ^ 12 * 2 ^ (w.toNat / 2 ^ 56 % 2 ^ 5) + 1).sum ≤ 64 := by decide +kernel
set_option maxRecDepth 20000 in
theorem test_hyp_job_record :
    jobIs (schState (schTask aTask) 0 (jobWords 0) 1 upCl) 0 3 [0x4000] (schJob 0) ∧
    (schState (schTask aTask) 0 [] 1 upCl).jobRec 0 3 = (none, schState (schTask aTask) 0 [] 1 upCl) :=
  ⟨⟨by decide +kernel, 0x400C0, by decide +kernel, by decide⟩, by decide +kernel⟩
set_option maxRecDepth 20000 in
theorem test_hyp_clusters :
    awakeCluster (schState aTask 0 [] 1 upCl) 0 ∧ (∀ i < 0, ¬ awakeCluster (schState aTask 0 [] 1 upCl) i) ∧
    (∀ cl < 32, ¬ awakeCluster (schState aTask 0 [] 1 {}) (0 * 32 + cl)) ∧ emptyDie (schState aTask 0 [] 1 {}) 0 ∧
    (FMap.getD (schState aTask 0 [] 1 {}).clusters (0 * 32) {}).mode = .night := by
  unfold awakeCluster emptyDie
  exact ⟨by decide, by decide, by decide +kernel, by decide +kernel, rfl⟩
/-- A ready task that has waited long enough to rise, and one that has not. -/
theorem test_hyp_aging :
    let x : Task := { aTask with state := .ready, jrec := [2 ^ 61] }
    x.phase = .rest ∧
    ((x.jrec.getD 0 0).getLsbD 61 = true) ∧ x.level < min 127 (x.prio + (65536 - x.readyAt) / (max 1 0 * 65536)) ∧
    min 127 (x.prio + (65535 - x.readyAt) / (max 1 0 * 65536)) ≤ x.level := by decide +kernel

/-- A crew of one, placed in context 1 of core 0 from row 8: in a phase, with what is saved of it. -/
def placed (ph : TaskPhase) (st : TaskState) (sv : Option (List SavedMember)) : Task :=
  { aTask with rows := 2, place := some ⟨0, [(0, 1, 8)]⟩, phase := ph, state := st, saved := sv, jrec := schJob 0 }
def member : SavedMember := { core := 0, st := { g := gs [(1, 7)] }, rowBytes := [(3, 9)], rowFull := [], lns := some {} }
def crewState (x : Task) (m : Mode) (fr : Bool) : State :=
  { schState x 0 (jobWords 0) 1 upCl with
    ctxs := [(1, { task := some 0x4000, freeze := fr, rowBase := 8, rows := 2, st := { mode := m, g := gs [(1, 7)] } })], clock := 5 }
theorem test_hyp_placed_crew (ph : TaskPhase) (st : TaskState) (sv : Option (List SavedMember)) : placedOne (placed ph st sv) 0 0 1 8 ∧ 8 + (placed ph st sv).rows ≤ 8192 ∧
    contextAt (placed ph st sv).die 0 0 1 = 1 ∧ (placed ph st sv).victims = [] ∧ (placed ph st sv).sched = 0 ∧ (placed ph st sv).bindAt ≤ 5 :=
  ⟨⟨rfl, rfl, by decide, by decide⟩, (by decide : 8 + 2 ≤ 8192), rfl, rfl, rfl, Nat.zero_le 5⟩
theorem test_hyp_crew_state : let s := crewState (placed .rest .resident none) .run true
    s.stored = true ∧ FMap.sorted s.ctxs = true ∧ awakeCluster s 0 ∧ (FMap.getD s.cores 0 {}).working = true ∧
    (s.ctx 1).task = some 0x4000 ∧ (s.ctx 1).freeze = true ∧ (s.ctx 1).st.owed = 0 ∧ (s.ctx 1).hold = none ∧ (s.ctx 1).inStall = false ∧
    (s.ctx 1).st.mode = .run ∧ (s.ctx 1).dawnHeld = false ∧ (s.ctx 1).reissue = none ∧ inLpddr 0x4000 = true ∧ quiet s 1 ∧ (s.ctx 1).rowBase = 8 ∧ ¬ awakeCluster s 1 ∧
    (FMap.getD ({ s with cores := [(0, { working := false })] } : State).cores 0 {}).working = false := by
  refine ⟨by decide +kernel, rfl, by unfold awakeCluster; decide, by decide, rfl, rfl, rfl, rfl, rfl, rfl, rfl, rfl, by decide, ?_, rfl, by unfold awakeCluster; decide, rfl⟩
  exact ⟨fun c h => (nomatch (show c ∈ ([] : List Cmd) from h)), fun c h => (nomatch (show c ∈ ([] : List OutReq) from h)), rfl,
    fun e h => (nomatch (show e ∈ ([] : List Flight) from h))⟩
theorem test_hyp_saved_member : member.st.active.fills = [] ∧ member.st.shadow.fills = [] ∧ FMap.sorted member.rowBytes = true ∧
    (∀ e ∈ member.rowBytes, e.1 < 128 * (placed .binding .ready (some [member])).rows) ∧ member.lns = some {} ∧
    ({ placed .binding .ready (some [member]) with savedBad := true }).saved ≠ none := by decide
theorem test_hyp_no_sealed_push : noSealedPush member.st := fun e h => nomatch (show e ∈ ([] : List Flight) from h)
/-- Element (0, 1) of tile 0 lies in the tile's first word. -/
theorem test_hyp_tile_error : tileWordBad { accBad := [0] } 0 0 1 ∧ ¬ tileWordBad { accBad := [0] } 0 0 2 := by unfold tileWordBad; decide

/-- A task that parks on the word at 0x20000, or has parked on it; a change has marked it, or none has. -/
def parkList (w : List Nat) : ParkList := { job := 3, word := 0x20000, items := [(1, 0x4000, .take)], woken := w }
def parkedState (ph : TaskPhase) (st : TaskState) (w : List Nat) : State :=
  { schState { aTask with parkWord := some 0x20000, phase := ph, state := st, jrec := schJob 0 } 0 (jobWords 0) 1 upCl with
    clock := 5, dies := [(0, { tlb := [(0, leafAt 0x40000 0x40000)], parks := [(0x20000 * 4096 + 3, parkList w)] })] }
theorem test_hyp_parked (w : List Nat) : let s := parkedState (.saving .parked 5 none 0 false) .resident w
    Memory.wf s.mem = true ∧ inLpddr 0x20000 = true ∧ formHolds .take ∧ Memory.num s.mem 0x4000 8 / 2 ^ 48 = 0 ∧ homeDie 0x20000 = 0 ∧
    inLpddr 0x4000 = true ∧ FMap.find (FMap.getD s.dies (homeDie 0x20000) {}).parks (0x20000 * 4096 + 3) = some (parkList w) ∧
    FMap.sorted (FMap.getD s.dies (homeDie 0x20000) {}).parks = true ∧
    (∀ p ∈ (FMap.getD s.dies (homeDie 0x20000) {}).parks, p.2.word = 0x20000 → p.1 = 0x20000 * 4096 + 3) ∧
    inSet [0x4000] 0x4000 = true ∧ inSet [] 0x4000 = false ∧ s.bad = [] ∧ (parkList w).word = 0x20000 ∧ inSet s.full (0x20000 / 8) ≠ true :=
  ⟨(by decide +kernel : Memory.wf (parkedState .rest .resident []).mem = true), by decide, Or.inr (Or.inl rfl),
   (by decide +kernel : Memory.num (parkedState .rest .resident []).mem 0x4000 8 / 2 ^ 48 = 0), by decide, by decide, rfl, rfl,
   fun p h _ => by rw [show p = (0x20000 * 4096 + 3, parkList w) from List.mem_singleton.1 h], by decide, by decide, rfl, rfl,
   (by decide : inSet (parkedState .rest .resident []).full (0x20000 / 8) ≠ true)⟩

def aRecord : FaultRecord :=
  { kind := 1, cause := 5, slot := 0, len := 1, member := 0, task := 0x4000, record := 0x4000, addr := 0, data := 0, bundle := 0, tick := 0, place := 0 }
def queueState (full : Bool) (fe : Bool) : State :=
  { schState { aTask with jrec := schJob 0 } 0 (jobWords 0) 1 upCl with
    records := [(3, [aRecord])], full := if full then [0x21000 / 8] else []
    dies := [(0, { tlb := [(0, leafAt 0x40000 0x40000), (1, feLeaf fe), (1, leafAt 0x10000 0x20000)] })] }
theorem test_hyp_fault_record :
    FMap.getD (queueState false true).records 3 [] = aRecord :: [] ∧ FMap.find (queueState false true).tasks aRecord.task = some { aTask with jrec := schJob 0 } ∧
    (queueState false true).stored = true ∧ (queueState false true).jobRec 0 3 = (some (schJob 0), queueState false true) ∧
    (queueState false true).jobPa 0 3 = (some 0x400C0, queueState false true) ∧ FMap.getD (queueState false true).records 4 [] = [] ∧
    jobField (schJob 0) 5 55 6 * 64 + 64 * (jobField (schJob 0) 6 31 0 % 2 ^ jobField (schJob 0) 5 63 59) = 0x11000 ∧
    jobField (schJob 0) 2 55 7 * 128 = 0x10080 ∧ jobField (schJob 0) 0 15 0 = 1 :=
  ⟨rfl, rfl, by decide +kernel, by decide +kernel, by decide +kernel, rfl, by decide, by decide, by decide⟩
theorem test_hyp_fault_queue :
    cachedAt (queueState false true) 0 1 0x11000 (feLeaf true) ∧ cachedAt (queueState true true) 0 1 0x11000 (feLeaf true) ∧
    cachedAt (queueState false false) 0 1 0x11000 (feLeaf false) ∧ inSet (queueState true true).full (0x21000 / 8) = true ∧
    cachedAt (queueState false true) 0 1 0x10080 (leafAt 0x10000 0x20000) ∧ memClean (queueState false true) 0x21000 64 ∧
    unowned (queueState false true) 0x21000 8 ∧ unowned (queueState false true) 0x21008 56 ∧
    (queueState false true).spoiled 0x20080 128 = false ∧ 1 < Memory.num (queueState false true).mem 0x20080 8 / 2 ^ 32 % 8 ∧
    Memory.num (queueState false true).mem 0x20080 8 / 2 ^ 32 % 8 < 6 ∧ inLpddr 0x21000 = true ∧ inLpddr 0x20080 = true :=
  ⟨by unfold cachedAt; decide +kernel, by unfold cachedAt; decide +kernel, by unfold cachedAt; decide +kernel, by decide,
   by unfold cachedAt; decide +kernel, (nofun : ∀ w ∈ [], _), by unfold unowned; decide +kernel, by unfold unowned; decide +kernel,
   by decide +kernel, by decide +kernel, by decide +kernel, by decide, by decide⟩

/-! ## Power (O: ClusterPower to DuskBootAndDawn) -/

/-- Cluster 0 with a strand in context 0, the cluster's state and the clock given; every core of it gated. -/
def powState (c : Cluster) (m : Mode) (tick : Word) : State :=
  { ctxs := [(0, { task := some 0x4000, dormant := c.mode = .night, st := { mode := m } })]
    clusters := [(0, c)], clock := tick, nightdly := 1, tasks := [(0x4000, aTask)]
    cores := (List.range 8).map fun i => (i, { gated := true }) }
def nightCl : Cluster := { mode := .night }
theorem test_hyp_governed : governedIs (powState upCl .run 0) 0 0xFFFF ∧ slewIs upCl.eff 0xFFFF 0x101 ∧ governedIs (powState upCl .run 0) 1 0 ∧
    slewIs upCl.eff 0 0 ∧ slewIs 0 0 0 := by
  have a : strandIn (powState upCl .run 0) 0 := ⟨_, .head _, rfl, by decide⟩
  have b : ¬ strandIn (powState upCl .run 0) 1 ∧ ¬ reservedFor (powState upCl .run 0) 1 := by
    constructor
    · unfold strandIn; decide
    · rintro ⟨e, h, h', -⟩; rw [show e = (0x4000, aTask) from List.mem_singleton.1 h] at h'; exact absurd h' (by decide)
  refine ⟨⟨fun h => absurd a h.1, fun _ => ⟨16, ⟨16, 16, ?_, fun _ => rfl, ?_, fun _ => rfl, by decide⟩, by decide⟩⟩,
    ⟨by decide, fun _ _ => ⟨0, by decide⟩, fun h => absurd h (by decide)⟩, ⟨fun _ => rfl, fun h => (h.elim b.1 b.2).elim⟩,
    ⟨by decide, fun _ h => absurd h (by decide), fun _ => ⟨8, by decide⟩⟩, ⟨fun _ => rfl, fun h => absurd rfl h, fun h => absurd h (by decide)⟩⟩
  · rintro (h | h) <;> exact absurd h (by decide)
  · rintro ⟨-, h | h⟩ <;> exact absurd h (by decide)
theorem test_hyp_night :
    (let s := powState { mode := .doze } .run 4096
     (clusterOf_ s 0).mode = .doze ∧ s.clock.toNat % 4096 = 0 ∧ (clusterOf_ s 0).since + nightTicks s ≤ s.clock.toNat ∧
     (clusterOf_ s 0).waking = false ∧ 0 ∉ (dieAt s (0 / 32)).dayQueue) ∧
    (let s := powState upCl (.sleep 9 false) 4096
     (clusterOf_ s 0).mode = .active ∧
     (∀ i < 8, (FMap.getD s.cores (0 * 8 + i) {}).gated = true ∧ (FMap.getD s.cores (0 * 8 + i) {}).gatedSince + nightTicks s ≤ s.clock.toNat) ∧
     (∀ e ∈ s.ctxs, e.1 / 32 = 0 → e.2.st.pend = [] ∧ ∀ m ∈ s.cmds, m.cx ≠ e.1) ∧
     s.spillBytes 0 ≤ s.boot.savesz.toNat * 2 ^ 20 - (dieAt s 0).saveUsed ∧ 0 < s.spillBytes 0 ∧ (s.ctx 0).task ≠ none) ∧
    (let s := powState { mode := .nightfall, timer := 9 } .run 10
     (clusterOf_ s 0).mode = .nightfall ∧ (clusterOf_ s 0).timer ≤ s.clock.toNat ∧ 8 < (clusterOf_ s 0).timer ∧ s.stored = true) := by
  refine ⟨by decide, ⟨by decide, by decide, by decide, by decide +kernel, by decide +kernel⟩, by decide +kernel⟩
theorem test_hyp_daybreak :
    (let s := powState nightCl (.sleep 9 false) 10
     (s.ctx 0).dormant = true ∧ (s.ctx 0).dawnHeld = false ∧ (s.ctx 0).st.mode = .sleep 9 false ∧ (clusterOf_ s 0).mode = .night ∧
     (clusterOf_ s 0).waking = false ∧ 0 ∉ (dieAt s (0 / 32)).dayQueue ∧ (s.ctx 1).dormant = false ∧ (dieAt s 0).dayQueue.head? ≠ some 0) ∧
    (let s := { powState nightCl .run 10 with dies := [(0, { dayQueue := [0] })] }
     (dieAt s 0).dayQueue.head? = some 0 ∧ ((List.range 32).filter fun i => (clusterOf_ s (0 / 32 * 32 + i)).waking).length < 4) ∧
    (let s := powState { mode := .daybreak, waking := true, timer := 9 } .run 10
     (clusterOf_ s 0).waking = true ∧ (clusterOf_ s 0).mode = .daybreak ∧ (clusterOf_ s 0).timer ≤ s.clock.toNat ∧
     ∀ e ∈ s.ctxs, e.2.st.active.fills = [] ∧ e.2.st.shadow.fills = [] ∧ e.2.st.flight = []) ∧
    (clusterOf_ (powState { mode := .active, waking := true } .run 10) 0).waking = true ∧
    ({ boot := { powerRefused := true } } : State).boot.powerRefused = true := by decide +kernel
/-- At 40 eighths of a degree the weight is 1; colder and hotter samples lie beyond the ends of the scale. -/
theorem test_hyp_thermal : (-80 : Int) < (40 : BitVec 16).toInt - 40 ∧ (40 : BitVec 16).toInt - 40 < 2640 ∧ (2 * 1 - 1) ^ 80 ≤ 2 ^ (0 + 80) ∧
    2 ^ (0 + 80) < (2 * 1 + 1) ^ 80 ∧ (-50 : BitVec 16).toInt - 40 ≤ -80 ∧ 2640 ≤ (2700 : BitVec 16).toInt - 40 ∧ ¬ (60 < 60 ∨ 60 = 60 ∧ 2 < 2) := by
  decide

/-- A model-update unit of die 0 with this journal, its source at 0x20000 and its destination at page 5 of MRAM. -/
def muState (m : MuMode) (j : List Journal) : State :=
  { dies := [(0, { mu := { mode := m, src := 0x20, dst := 0x10000005, journal := j } })], mem := [(0x20003, 7)] }
def entry (dest page : Nat) : Journal := { txn := 0, dest := dest, page := page, crc := 0, sealTag := 0 }
theorem test_hyp_update (m : MuMode) (j : List Journal) : (muOf (muState m j) 0).mode = m ∧ (muOf (muState m j) 0).journal = j := ⟨rfl, rfl⟩
theorem test_hyp_stage : let s := muState .opened []
    Memory.wf s.mem = true ∧ (muOf s 0).keyslot = 0 ∧ (∀ j ∈ (muOf s 0).journal, j.page ≠ journalPage 0 0) ∧ bankOfPa ((muOf s 0).dst.toNat * 4096) = 0 ∧
    (2 ^ 40 + 0 * 2 ^ 33 ≤ (muOf s 0).dst.toNat * 4096 ∧ (muOf s 0).dst.toNat * 4096 < 2 ^ 40 + (0 + 1) * 2 ^ 33 ∧
      (muOf s 0).dst.toNat * 4096 % 2 ^ 25 < 0x1FC0000 ∧ inLpddr ((muOf s 0).src.toNat * 4096) = true) ∧
    (FMap.getD s.wear (journalPage 0 0) 0).toNat < (muOf s 0).wearlim.toNat ∧
    ¬ (2 ^ 40 ≤ (muOf {} 0).dst.toNat * 4096 ∧ (muOf {} 0).dst.toNat * 4096 < 2 ^ 40 + 2 ^ 35 ∧ (muOf {} 0).dst.toNat * 4096 % 2 ^ 25 < 0x1FC0000) ∧
    (∀ i < 64, ∃ j ∈ (List.range 64).map fun i => entry 0 (journalPage 0 i), j.page = journalPage 0 i) := by decide +kernel
theorem test_hyp_commit_end : let s := muState .committing [entry 0x10000005 (journalPage 0 0)]
    (muOf s 0).journal.filter (fun j => j.txn = (muOf s 0).stxn.toNat) = [entry 0x10000005 (journalPage 0 0)] ∧
    (entry 0x10000005 (journalPage 0 0)).dest ≠ (entry 0x10000005 (journalPage 0 0)).page ∧ (entry 0x10000005 (journalPage 0 0)).sealTag = 0 ∧
    (FMap.getD s.wear 0x10000005 0).toNat < (muOf s 0).wearlim.toNat ∧ (muOf s 0).failed = false ∧
    (muOf { s with dies := [(0, { mu := { muOf s 0 with failed := true } })] } 0).failed = true ∧
    (muOf s 0).wearlim.toNat ≤ (FMap.getD [(0x10000005, (4000000 : BitVec 32))] 0x10000005 0).toNat := by decide

/-- A module with one strand; off with an image; held. -/
def onState : State := powState upCl .run 9
def anImage (ok : Bool) : Image :=
  { valid := ok, crcOk := true, clock := 9, modid := 0, ctxs := [(0, { task := some 0x4000 })], cores := [], tasks := []
    recs := [(0x4000, 3 * 2 ^ 32, 0)], loc := [(5, 7)], locFull := [0], locBad := [], seqs := [], owed := [] }
def offState (i : Option Image) (l : Bool) : State := { boot := { powered := false, locked := l }, image := i }
/-- Held after a Dawn: context 0 has been restored; `l` are the clusters that are still being restored. -/
def heldState (c : Cluster) (l : List Nat) : State :=
  { ctxs := [(0, { task := some 0x4000, dawnHeld := true })], clusters := [(0, c)], image := some (anImage true)
    boot := { held := true, dawn := l } }
theorem test_hyp_dusk : onState.stored = true ∧ onState.boot.powered = true ∧ onState.boot.held = false ∧ (∀ e ∈ onState.ctxs, e.2.hold = none) ∧
    (tookState none).boot.held = false ∧ FMap.sorted onState.ctxs = true ∧ (onState.ctx 0).task ≠ none := by decide +kernel
theorem test_hyp_boot (i : Option Image) (l : Bool) : (offState i l).boot.powered = false ∧ (offState i l).boot.locked = l ∧ (offState i l).image = i ∧
    (∀ d, (muOf (offState i l) d).journal = []) := ⟨rfl, rfl, rfl, fun _ => rfl⟩
/-- A journal with a page that no commit record covers, and with a committed one whose destination is worn or is not. (Whether firmware is
accepted, and whether a page reads back, are free values; each answer has its clause.) -/
def torn (ok : Bool) (n : BitVec 32) : State :=
  { offState none false with wear := [(0x10000005, n)], dies := [(0, { mu := { journal := [{ entry 0x10000005 (journalPage 0 0) with committed := ok }] } })] }
theorem test_hyp_torn : (∀ j ∈ (muOf (torn false 0) 0).journal, j.committed = false) ∧
    (muOf (torn true 0) 0).journal.filter Journal.committed = [{ entry 0x10000005 (journalPage 0 0) with committed := true }] ∧
    0x10000005 ≠ journalPage 0 0 ∧ (FMap.getD (torn true 0).wear 0x10000005 0).toNat < (muOf (torn true 0) 0).wearlim.toNat ∧
    (muOf (torn true 4000000) 0).wearlim.toNat ≤ (FMap.getD (torn true 4000000).wear 0x10000005 0).toNat ∧
    (∀ e, e ≠ 0 → (muOf (torn true 0) e).journal = []) := by
  refine ⟨by decide +kernel, by decide +kernel, by decide, by decide +kernel, by decide +kernel, fun e h => ?_⟩
  have h' : ¬ 0 = e := fun x => h x.symm
  simp [muOf, dieAt, torn, offState, FMap.getD, FMap.find, h']
theorem test_hyp_image : (anImage true).valid = true ∧ (anImage true).crcOk = true ∧
    (anImage false).valid = false ∧ (offState none true).stored = true := by decide +kernel
theorem test_hyp_release : (heldState upCl [0]).boot.held = true ∧ (heldState upCl [0]).boot.dawn ≠ [] ∧ (heldState upCl []).stored = true ∧
    (heldState upCl []).boot.held = true ∧ (heldState upCl []).boot.dawn = [] ∧ ((heldState upCl []).image.map Image.owed).getD [] = [] ∧
    ((heldState upCl []).ctx 0).dawnHeld = true ∧ ((heldState upCl []).ctx 1).dawnHeld = false ∧
    ((heldState upCl []).image.map Image.recs).getD [] = [(0x4000, 3 * 2 ^ 32, 0)] ∧ inLpddr 0x4000 = true ∧ inLpddr (0x4000 + 120) = true ∧
    FMap.sorted (heldState upCl []).ctxs = true ∧ (∀ e ∈ (heldState upCl []).ctxs, e.1 / 32 = 0 / 32 → e.2.dawnHeld = true) := by
  decide +kernel
theorem test_hyp_discard : ¬ reservedFor (heldState upCl []) (0 / 32) := by rintro ⟨e, h, -⟩; exact nomatch h

/-! ## Links, alarms and registers (O: PortsChangeRate to HostRegisters) -/

def eyeState (r : BitVec 2) (low : Nat) : State :=
  { ports := [(0, { rate := r, low := low, autoup := true, highSince := some 0 })], clock := 0x40000000 }
theorem test_hyp_eye : (5 : Byte) ∈ [60, 5] ∧ (∀ b ∈ [60, (5 : Byte)], 5 ≤ b) ∧
    (let x := portAt (eyeState 2 15) 0; x.rate = 2 ∧ 16 ≤ (if (5 : Byte) < x.dnth then x.low + 1 else 0)) ∧
    (let x := portAt (eyeState 1 15) 0; x.rate ≠ 3 ∧ x.rate ≠ 2 ∧ 16 ≤ (if (5 : Byte) < x.dnth then x.low + 1 else 0)) ∧
    (let x := portAt (eyeState 1 0) 0; x.autoup = true ∧ (if (60 : Byte) < x.dnth then x.low + 1 else 0) < 16 ∧
      (if (60 : Byte) < x.upth then none else some (x.highSince.getD 0)) = some 0 ∧ 0 + 2 ^ 30 ≤ (eyeState 1 0).clock.toNat) ∧
    (portAt (eyeState 3 0) 0).rate = 3 ∧ (portAt (eyeState 0 0) 0).rate = 0 := by decide

def aTag (q : Nat) : Tag := ⟨1, 0, q, 0⟩
def aShard (op : ShardOp) (ok : Bool) : Shard := ⟨aTag 0, 7, op, 0, shardCrc (aTag 0) 7 op + (if ok then 0 else 1), true⟩
/-- Address space 7, valid and open to peers, with its leaf at 0x10000. -/
def peerState (l : Leaf) (ap : List Applied) : State :=
  { mem := words [] 0x50070 [2 ^ 62 + 2 ^ 61], boot := { asntab := 0x50000 }, applied := ap, dies := [(0, { tlb := [(7, l)] })] }
theorem test_hyp_shard : let s := peerState (leafAt 0x10000 0x20000) []
    s.stored = true ∧ peerLeaf s (aShard (.load 0x10000 128) true) 0x10000 128 (leafAt 0x10000 0x20000) ∧
    openLeaf s (leafAt 0x10000 0x20000) 0x10000 ∧ memClean s 0x20000 128 ∧ unowned s 0x20000 128 ∧ inLpddr 0x20000 = true ∧
    0x10000 % 4096 + 128 ≤ 4096 ∧ (∀ home, ∀ a ∈ keptOf s (aTag 0) home, a.tag ≠ aTag 0) ∧ (keptOf s (aTag 0) (homeOf 0x20000)).length < 4096 ∧
    (s.asnEntry 6).1 ≠ 1 ∧ s.homeOfOp 0 7 (.store 0x10000 [0] false) = some (homeOf 0x20000) ∧ (feLeaf true).fe = true ∧
    ¬ openLeaf s { leafAt 0x10000 0x20000 with isSealed := true } 0x10000 ∧ (List.replicate 128 (0 : Byte)).length = 128 := by
  refine ⟨by decide +kernel, ⟨by decide +kernel, by decide +kernel, by unfold cachedAt; decide +kernel, by decide⟩, ⟨rfl, by decide, rfl⟩,
    (nofun : ∀ w ∈ [], _), by unfold unowned; decide +kernel, by decide, by decide,
    fun _ a h => (nomatch (show a ∈ ([] : List Applied) from (List.mem_filter.1 h).1)), by show (0 : Nat) < 4096; decide,
    by decide +kernel, by decide +kernel, rfl, fun h => absurd h.1 (by decide), by decide +kernel⟩
theorem keptOf_replicate (l : Leaf) (a : Applied) (n : Nat) (t : Tag) (h : a.tag.mod = t.mod ∧ a.tag.die = t.die) :
    keptOf (peerState l (List.replicate n a)) t a.home = List.replicate n a :=
  List.filter_eq_self.2 fun b hb => by rw [(List.mem_replicate.1 hb).2]; simpa using h
/-- An answer is found again by its tag at its home; a filter of 4,096 later tags. -/
theorem test_hyp_filter (l : Leaf) (r : BitVec 1024) :
    (peerState l [⟨aTag 0, 5, r⟩]).applied.find? (fun a => a.tag = aTag 0 ∧ a.home = 5) = some ⟨aTag 0, 5, r⟩ ∧
    4096 ≤ (keptOf (peerState l (List.replicate 4096 ⟨aTag 1, 5, r⟩)) (aTag 0) 5).length ∧
    (∀ a ∈ keptOf (peerState l (List.replicate 4096 ⟨aTag 1, 5, r⟩)) (aTag 0) 5, olderThan 0 a.tag.seq) ∧
    ∃ a ∈ keptOf (peerState l (List.replicate 4096 ⟨aTag 1, 5, r⟩)) (aTag 2) 5, ¬ olderThan 2 a.tag.seq := by
  rw [keptOf_replicate l ⟨aTag 1, 5, r⟩ _ (aTag 0) ⟨rfl, rfl⟩, keptOf_replicate l ⟨aTag 1, 5, r⟩ _ (aTag 2) ⟨rfl, rfl⟩]
  refine ⟨rfl, (List.length_replicate ..).ge, fun a h => ?_, ⟨aTag 1, 5, r⟩, List.mem_replicate.2 ⟨by decide, rfl⟩, ?_⟩
  · rw [(List.mem_replicate.1 h).2]; show olderThan 0 1; unfold olderThan; decide
  · show ¬ olderThan 2 1; unfold olderThan; decide

/-- A request under a tag, with the result or the command that waits for it. -/
def reqState (tries : Nat) (cmd : Option Nat) (port : BitVec 2) : State :=
  { bound { st := { pend := [{ id := 4, reg := some (.g 1), kind := .peer 0 }] } } with
    outReqs := [{ tag := aTag 0, mod := 1, op := .load 0 8, sent := 0, tries := tries, cx := 0, pend := if cmd = none then some 4 else none
                  cmd := cmd, port := 0, sectors := 1 }]
    cmds := [{ id := 7, cx := 0, queue := 0, kind := .settle, barrier := some 0, sectors := 1, promised := 9, doneAt := 9 }]
    ports := [(0, { rate := port })], loc := Memory.setNum [] 0 16 (2 ^ 24 + 3 * 2 ^ 4), clock := 50000 }
theorem test_hyp_request : (∃ r, outstanding (reqState 0 none 0) (aTag 0) r ∧ r.tries < 3 ∧ r.sent + 50000 ≤ (reqState 0 none 0).clock.toNat) ∧
    (∃ r, outstanding (reqState 3 none 0) (aTag 0) r ∧ 3 ≤ r.tries ∧ r.cmd = none ∧ r.pend = some 4) ∧
    ((reqState 3 none 0).ctx 0).st.pend.find? (fun q => q.id = 4) = some { id := 4, reg := some (.g 1), kind := .peer 0 } ∧
    (∀ r ∈ (reqState 0 none 0).outReqs, r.tag ≠ aTag 1) ∧ noneHeld (reqState 0 none 0) (aTag 0) ∧ noneHeld (reqState 3 none 0) (aTag 0) :=
  ⟨⟨_, rfl, by decide, by decide⟩, ⟨_, rfl, by decide, rfl, rfl⟩, rfl, by decide, by unfold noneHeld; decide, by unfold noneHeld; decide⟩
/-- A request that is held back behind another. -/
theorem test_hyp_request_held : ∃ r q : OutReq, ({ outReqs := [r, q] } : State).outReqs = [r, q] ∧ r.tag = aTag 0 ∧ q.tag ≠ aTag 0 ∧ r.cmd = none ∧
    q.waiting = true :=
  ⟨{ tag := aTag 0, mod := 1, op := .load 0 8, sent := 0, tries := 0, cx := 0, pend := none, cmd := none, port := 0 },
   { tag := aTag 1, mod := 1, op := .load 0 8, sent := 0, tries := 0, cx := 0, pend := none, cmd := none, port := 0, waiting := true },
   rfl, rfl, by decide, rfl, rfl⟩
theorem test_hyp_request_command : ∃ r c, outstanding (reqState 0 (some 7) 0) (aTag 0) r ∧ r.cmd = some 7 ∧
    (reqState 0 (some 7) 0).cmds.find? (fun c => c.id = 7) = some c ∧ c.barrier = some 0 ∧ r.dst = none ∧ r.secs = [] ∧ noneHeld (reqState 0 (some 7) 0) (aTag 0) ∧ 0 < r.sectors ∧
    r.sectors ≤ secOf (Memory.num (reqState 0 (some 7) 0).loc 0 16) ∧ padClean (reqState 0 (some 7) 0) 0 16 ∧
    Memory.wf (reqState 0 (some 7) 0).loc = true :=
  ⟨_, _, rfl, rfl, rfl, rfl, rfl, rfl, by unfold noneHeld; decide, by decide, by decide +kernel, (nofun : ∀ w ∈ [], _), by decide +kernel⟩
/-- Ports that carry, that are down and that retrain; requests and answers with the right CRC and a wrong one. -/
theorem test_hyp_carries (tag : Tag) (code : Byte) (v : BitVec 1024) (op : ShardOp) : carriesOn (reqState 0 none 0) 0 ∧
    carriesOn (peerState (leafAt 0x10000 0x20000) []) 0 ∧ ¬ carriesOn (reqState 0 none 3) 0 ∧
    ¬ carriesOn { ports := [(0, { retrain := some 9 })] } 0 ∧ goodShard (aShard op true) ∧ ¬ goodShard (aShard op false) ∧
    goodAnswer tag code v (answerCrc tag (some code) v) ∧ ¬ goodAnswer tag code v (answerCrc tag (some code) v + 1) := by
  refine ⟨by unfold carriesOn; decide, by unfold carriesOn; decide, by unfold carriesOn; decide, by unfold carriesOn; decide, BitVec.add_zero _, fun h => ?_, rfl, fun h => ?_⟩
  · exact absurd (h : shardCrc (aTag 0) 7 op + 1 = _) (by show ¬ shardCrc (aTag 0) 7 op + 1 = shardCrc (aTag 0) 7 op; bv_omega)
  · unfold goodAnswer at h; bv_omega
def heldEnergy : State := { held := [(0, 10), (3, 30)] }
theorem test_hyp_energy : FMap.sorted heldEnergy.held = true ∧ 0 < ((heldEnergy.held.filter fun h => h.1 / 256 = 0).map Prod.snd).sum ∧
    (∀ h ∈ heldEnergy.held, h.1 / 256 ≠ 1) ∧ FMap.sorted heldEnergy.acct = true := by decide

/-- Stream 0 of PF 0 of port 0, with this head. -/
def strm : StreamId := ⟨0, 0, 0⟩
def headState (h : StreamHead) : State := { fns := [(0, { heads := [(0, h)] })], sems := [(0, { owner := 1 })] }
theorem test_hyp_heads : inUse { en := true } ∧ (∀ i < 4, ¬ inUse (headOf (headState {}) ⟨0, 0 + 1, i⟩)) ∧ ringRefused { log2 := 11 } ∧ ¬ ringRefused {} ∧
    (headOf (headState { en := true, log2 := 11 }) strm).en = true ∧ FMap.sorted (headState {}).fns = true := by
  unfold inUse ringRefused; decide
theorem test_hyp_semaphore : (headState {}).tie ≤ 1 ∧ (semAt (headState {}) 0).1 = 1 ∧ (semAt (headState {}) 1).1 = 0 ∧
    (FMap.getD (headState {}).sems 0 {}).cycle ≠ some (headState {}).clock.toNat := by decide
theorem test_hyp_register (r d : Bool) : (({ boot := { ready := r, dispatched := d } } : State).boot.ready, ({ boot := { ready := r, dispatched := d } } : State).boot.dispatched) = (r, d) := rfl
/-- A vector masked and unmasked, pending and not. -/
def vectorState (m : BitVec 32) (p : Word) : State := { fns := [(0, { msix := [(3, m)], pending := p })] }
theorem test_hyp_msix_vector : (FMap.getD (fnAt (vectorState 1 1) 0 0).msix 3 1).getLsbD 0 = true ∧
    (FMap.getD (fnAt (vectorState 0 0) 0 0).msix 3 1).getLsbD 0 = false ∧ (fnAt (vectorState 1 1) 0 0).pending.getLsbD 0 = true ∧
    (fnAt (vectorState 1 0) 0 0).pending.getLsbD 0 = false ∧ (0 : Word).getLsbD 0 = false ∧ (1 : Word).getLsbD 0 = true := by decide

/-! ## Streams and whole steps (O: StreamHeads to ManagementAndKeys, StepRunsTheDecoded, RoundTrips, GeneralRegisterZero) -/

/-- A PF stream of job 3, whose address space reaches 0x10000, and 0x11000 with full/empty bits; a task record at 0x10000. -/
def strState (h : StreamHead) : State :=
  { schState { aTask with stream := some strm } 0 (jobWords 0) 1 upCl with
    fns := [(0, { heads := [(0, { h with job := 3, en := true })] })], linkUp := [(0, true)], boot := { jobtab := 0x40000, asntab := 0x50000, ready := true }
    mem := words (words [] 0x400C0 (jobWords 0)) 0x20000 [0, 3 * 2 ^ 52] }
def pkh (pe : Bool) (n : Byte) : PkH := ⟨strm, pe, n⟩
theorem test_hyp_stream_record : (strState {}).stored = true ∧ performs (strState {}) (pkh false 3) ∧
    (strState {}).headRec strm = (some (schJob 0), strState {}) ∧
    (let s := { strState {} with boot := {} }; s.headRec strm = (none, s)) ∧
    predOf (headOf (strState { pred0 := false }) strm) = false ∧ (strState {}).headJob strm = 3 :=
  ⟨by decide +kernel, Or.inl rfl, by decide +kernel, by decide +kernel, rfl, by decide⟩
theorem test_hyp_stream_leaf : streamLeaf (strState {}) strm 0x10000 8 0x20000 (leafAt 0x10000 0x20000) ∧
    streamLeaf (strState {}) strm 0x11000 8 0x21000 (feLeaf true) ∧ closedTo (strState {}) strm 0x60000 (fun l => l.w = true) := by
  refine ⟨⟨schJob 0, by decide +kernel, by unfold cachedAt; decide +kernel, by decide, by decide, ⟨rfl, by decide, rfl⟩, rfl, by decide,
      (nofun : ∀ w ∈ [], _), by unfold unowned; decide +kernel⟩,
    ⟨schJob 0, by decide +kernel, by unfold cachedAt; decide +kernel, by decide, by decide, ⟨rfl, by decide, rfl⟩, rfl, by decide,
      (nofun : ∀ w ∈ [], _), by unfold unowned; decide +kernel⟩, ⟨schJob 0, by decide +kernel, Or.inl (by decide +kernel)⟩⟩
theorem test_hyp_word_read : wordRead (strState {}) strm .dev 0x10008 (BitVec.ofNat 64 (3 * 2 ^ 52)) ∧ wordRead (strState {}) strm .host 0 0 ∧
    holdsOf .geu 3 1 1 = true ∧ holdsOf .ltu 3 1 1 = false :=
  ⟨⟨0x20008, leafAt 0x10000 0x20000, ⟨schJob 0, by decide +kernel, by unfold cachedAt; decide +kernel, by decide, by decide, ⟨rfl, by decide, rfl⟩, rfl,
    by decide, (nofun : ∀ w ∈ [], _), by unfold unowned; decide +kernel⟩, rfl, by decide +kernel⟩, ⟨rfl, by decide⟩, by decide, by decide⟩
theorem test_hyp_stream_waits (w : StreamWait) : (headOf (strState { wait := w }) strm).wait = w := rfl
theorem test_hyp_job_packet : ((strState {}).jobRec 0 3).1 ≠ none ∧ (({ strState {} with boot := {} } : State).jobRec 0 3).1 = none := by decide +kernel
/-- A level 1 at its end, and inside; a loop at level 0; a window over the loop's body. -/
def lvl (p : Nat) : Level := { sp := .dev, pos := p, stop := 0x10040 }
def aLoop (n : Nat) : LoopState := { level := n, start := 16, body := List.replicate 16 (some 0), left := 2, at_ := 8 }
theorem test_hyp_levels (w : StreamWait) : (headOf (strState { levels := [lvl 0x10040], wait := w }) strm).levels = lvl 0x10040 :: [] ∧
    (lvl 0x10040).pos = (lvl 0x10040).stop ∧ (lvl 0x10000).pos ≠ (lvl 0x10000).stop ∧
    (headOf (strState { levels := [lvl 0x10040, lvl 0x10000] }) strm).levels.length = 2 ∧
    (headOf (strState { loop := some (aLoop 0) }) strm).loop = some (aLoop 0) ∧ (aLoop 0).level = (headOf (strState {}) strm).levels.length ∧
    (aLoop 0).level ≠ (headOf (strState { levels := [lvl 0x10040] }) strm).levels.length := ⟨rfl, rfl, by decide, rfl, rfl, rfl, by decide⟩
theorem test_hyp_window : windowHolds { wptr := 64, window := some (0, List.replicate 64 (some 0)) } (16 + 8) (List.replicate 64 (some 0)) ∧
    coverage { wptr := 8 } < 16 + 8 := ⟨⟨rfl, by decide, by decide, by decide, rfl, rfl, by decide⟩, by decide⟩
/-- A launch of a good record, of one of another job, and an address without a leaf. -/
def goodRec : List Nat := wordsOf ((strState {}).peek 0x20000 128)
theorem test_hyp_launch : (strState {}).jobRead 0 1 0x10000 128 = (some 0x20000, strState {}) ∧ ((strState {}).jobRead 0 1 0x60000 128).1 = none ∧
    recField goodRec 1 63 52 = 3 ∧ recIdle goodRec = true ∧
    recOk goodRec (fun a => (((strState {}).translate 0 1 a).1.map Leaf.r).getD false) (2 ^ 32) = true ∧
    (strState {}).jobRec 0 3 = (some (schJob 0), strState {}) := by
  refine ⟨by decide +kernel, by decide +kernel, by decide +kernel, by decide +kernel, by decide +kernel, by decide +kernel⟩
theorem test_hyp_signal : (∃ e ∈ (strState {}).tasks, e.2.stream = some strm ∧ e.2.state ≠ .ended) ∧
    (∀ e ∈ ({ strState {} with tasks := [] } : State).tasks, e.2.stream = some strm → e.2.state = .ended) := by decide

theorem test_hyp_management : answering State.reset ∧ ¬ answering { boot := { powered := false } } ∧ plainOffset 0x10 ∧
    windowEvent 0x7000 5 (.slotclr 5) ∧ windowEvent 0x48 0xA5 .kick := by
  unfold answering plainOffset
  exact ⟨by decide, by decide, by decide, Or.inr (Or.inr (Or.inr (Or.inr (Or.inr (Or.inr (Or.inl (by decide))))))), Or.inr (Or.inr (Or.inl (by decide)))⟩
/-- A responder in a state of its own on a channel, with a message at hand: a plain one, a record with the right tag, and one with a wrong
tag. -/
def spdmState (x : Spdm) (via : SpdmVia) : State := { spdm := [(via.ch, x)], linkUp := [(0, true)], mail := via }
def sealedVia (x : Spdm) (via : SpdmVia) (m : List Byte) : SpdmVia :=
  { via with tag := some (BitVec.ofNat 128 (leValue (sessionSeal via.ch x.id x.reqSecret x.reqSeq m).2)) }
theorem test_hyp_channels : channelOpen (spdmState {} {}) 0 ∧ channelOpen (spdmState {} { ch := 1 }) 1 ∧ ¬ channelOpen (spdmState {} { ch := 2 }) 2 := by
  unfold channelOpen; decide
theorem test_hyp_plain (x : Spdm) (p1 p2 : Byte) (b m : List Byte) : let v : SpdmVia := { p1 := p1, p2 := p2, body := b }
    arrives (spdmState x v) (spdmState x v).mail m ∧ arrives (spdmState x { v with ch := 1 }) { v with ch := 1 } m ∧
    spdmOf (spdmState x v) 0 = x ∧ FMap.sorted (spdmState x v).keys = true :=
  ⟨⟨test_hyp_channels.1, nofun⟩, ⟨test_hyp_channels.2.1, nofun⟩, rfl, rfl⟩
theorem test_hyp_session (x : Spdm) (p1 p2 : Byte) (m : List Byte) (h : x.exchanging = true ∨ x.session = true) :
    let v := sealedVia x { p1 := p1, p2 := p2 } m
    arrives (spdmState x v) v m ∧ v.tag ≠ none ∧ (spdmState x v).mail = v :=
  ⟨⟨test_hyp_channels.1, fun g hg => ⟨h, by rw [← Option.some.inj hg]; exact sessionSeal_tag 0 x.id x.reqSecret x.reqSeq m⟩⟩, nofun, rfl⟩
theorem test_hyp_wrong_tag (m : List Byte) : ¬ rightTag (spdmState {} { tag := some 0 }) { tag := some 0 } m := fun h => by
  rcases (h 0 rfl).1 with h | h <;> exact nomatch h
/-- A point of P-384 and one that is none. -/
theorem test_hyp_points : ecOn ecBase = true ∧ ecOn (0, 0) = false := by decide +kernel
/-- FINISH with the verification data that the transcript calls for, and with other data: a value of 64 bytes is one of them. -/
theorem test_hyp_finish (l : List Byte) (h : l.length = 64) : l = leBytes 64 (BitVec.ofNat 512 (leValue l)).toNat ∧
    leBytes 64 (0 : BitVec 512).toNat ≠ leBytes 64 (1 : BitVec 512).toNat := ⟨(leBytes_ofNat 64 l h).symm, by decide +kernel⟩

/-- The bundle of a lone `add g1, g2, g3`: a core whose one strand stands at it, fetched. -/
def addBytes : List Byte := leBytes 10 (0x0010420C0000 * 2 ^ 32 + 2 ^ 31)
def addWord : SlotWord := .s (.add ⟨.always, ⟨false, 1⟩, .reg 2, .reg 3, .reg 0, .rne⟩)
def addState : State :=
  { ctxs := [(0, { task := some 0x4000, runs := [aRun], fetchBase := 0x10FF0, fetchBuf := addBytes, st := { pc := 0x10FF0, g := gs [(2, 5), (3, 6)] } })]
    agenda := [.core 0] }
def addBundle : Bundle := { head := Header.ofWord 0x80000000, first := none, slots := [(.s, Raw.ofWord 0x0010420C0000 none, .ok addWord)] }
def addRest : State := { addState with agenda := [] }
theorem test_hyp_alone : alone addState 0 0 ∧ readyBundle addState 0 0 addBytes addBundle ∧ parted addBundle [(addWord, 0)] [] := by
  refine ⟨by unfold alone; exact ⟨by decide, by decide +kernel⟩, ⟨rfl, rfl, by decide +kernel⟩, ?_⟩
  unfold parted
  refine ⟨?_, rfl, fun w h => ?_, fun w h => absurd h List.not_mem_nil⟩
  · unfold Bundle.words addBundle; rfl
  · obtain rfl := List.mem_singleton.1 h
    unfold inSlotS addWord; trivial
theorem test_hyp_in_order : ∃ u : State, inOrder addBytes [(addWord, 0)] (begunAt addRest 0 0 addBundle.head 10) u ∧ u.iss.faulted = none ∧
    u.iss.held = false ∧ u.lnsReady 0 ≠ some 0 ∧ (addRest.edgeCounts 0).peerOver u 0 = false ∧ (u.ctx 0).st.flight.length ≤ 32 ∧
    inOrder addBytes [] u u := by
  refine ⟨(begunAt addRest 0 0 addBundle.head 10).entering _, ⟨fun h => absurd (by decide +kernel) h, fun _ => ⟨_, rfl, rfl⟩⟩, ?_, ?_, ?_, ?_, ?_, rfl⟩ <;> decide +kernel
/-- A stream turn that decodes a packet of its window. -/
def turnState : State := { strState { wptr := 8, window := some (0, (leBytes 8 0x100).map some) } with agenda := [.stream strm] }
theorem test_hyp_turn : ∃ u, State.streamTurn { turnState with agenda := [] } strm = (.perform (.pkNop ⟨strm, false, 1⟩), u) := ⟨_, rfl⟩
theorem test_hyp_event_and_clock : ({ agenda := [.ev .kick] } : State).agenda = .ev .kick :: [] ∧ State.reset.agenda = [] ∧
    ({ boot := { powered := false } } : State).inputs = [] ∧ State.reset.stored = true ∧ ∃ t, step State.reset = .next t :=
  ⟨rfl, rfl, rfl, by decide +kernel, _, rfl⟩
theorem test_hyp_round_trip : packetForm strm 64 (.pkNop ⟨strm, false, 1⟩) ∧ encodePacket (.pkNop ⟨strm, false, 1⟩) = some [0x100] ∧
    Instr.wf (.add rrr) = true ∧ (encodeSlot (.add rrr)).isSome = true := ⟨⟨rfl, by decide⟩, rfl, by decide, by decide⟩
/-- A selection under a predicate register, and a result for g0 that becomes readable with its latch. -/
def g0State : State := one { st := { q := 4, flight := [{ op := .g 0 ⟨7, 15⟩, latch := some (0, {}), left := 0 }] } }
theorem test_hyp_zero : g0State.cur.st.q.getLsbD 2 = true ∧ (g0State.ctx 0).st.flight = [{ op := .g 0 ⟨7, 15⟩, latch := some (0, {}), left := 0 }] ∧
    readable g0State { op := .g 0 ⟨7, 15⟩, latch := some (0, {}), left := 0 } = true ∧
    (g0State.ctx 0).landLatches = [] := ⟨by decide, rfl, rfl, rfl⟩

end Sys2Proof.Tests
end

section
/-!
SUPPORT. Proofs of the statements about the module's scope: what module reset leaves, how the clock goes on, and that every
instruction and every step has a next state.
-/
open Sys2Proof.Claims

namespace Sys2Proof.Machine

/-! ## The clock ticks (R1) -/

/-- `t` is `s` but for its contexts, the free values drawn, and the ticks counted for held strands (R406): all that a tick changes
before it lays out what moves. -/
def sameButFetch (s t : State) : Prop := ∃ cs n h, t = { s with ctxs := cs, free := n, held := h }

@[refl] theorem sameButFetch_refl (s : State) : sameButFetch s s := ⟨_, _, _, rfl⟩

theorem sameButFetch_trans {s t u : State} (hst : sameButFetch s t) (htu : sameButFetch t u) : sameButFetch s u := by
  obtain ⟨_, _, _, rfl⟩ := hst
  obtain ⟨_, _, _, rfl⟩ := htu
  exact ⟨_, _, _, rfl⟩

theorem sameButFetch_foldl {α : Type} {f : State → α → State} (hf : ∀ s x, sameButFetch s (f s x)) (xs : List α) (s : State) :
    sameButFetch s (xs.foldl f s) := by
  induction xs generalizing s with
  | nil => rfl
  | cons x xs ih => exact sameButFetch_trans (hf s x) (ih (f s x))

theorem sameButFetch_updCtx (s : State) (cx : Nat) (f : Ctx → Ctx) : sameButFetch s (s.updCtx cx f) := ⟨_, _, _, rfl⟩

theorem sameButFetch_askLine (s : State) (cx : Nat) : sameButFetch s (s.askLine cx) := by
  unfold State.askLine
  split
  · rfl
  · exact ⟨_, _, _, rfl⟩

/-- Filling ahead trims the context's buffer, and then asks for a line or leaves it at that (R272). -/
theorem fillAhead_cases (s : State) (cx : Nat) :
    s.fillAhead cx = s.updCtx cx Ctx.trim ∨ s.fillAhead cx = (s.updCtx cx Ctx.trim).askLine cx := by
  unfold State.fillAhead
  dsimp only
  split_ifs <;> simp

theorem sameButFetch_fillAhead (s : State) (cx : Nat) : sameButFetch s (s.fillAhead cx) := by
  have trimmed := sameButFetch_updCtx s cx Ctx.trim
  obtain h | h := fillAhead_cases s cx
  · rwa [h]
  · rw [h]
    exact sameButFetch_trans trimmed (sameButFetch_askLine _ cx)

theorem sameButFetch_fillAll (s : State) : sameButFetch s s.fillAll :=
  sameButFetch_foldl (fun t cx => by
    split
    · rfl
    · exact sameButFetch_fillAhead t cx) _ s

theorem sameButFetch_countHeld (s : State) : sameButFetch s s.countHeld :=
  sameButFetch_foldl (fun t cx => by
    split
    · rfl
    · exact ⟨_, _, _, rfl⟩) _ s

/-- The tick of a module that has power raises the clock, and else changes only contexts, counts, inputs and agenda. -/
theorem tick_of_powered {s : State} (hp : s.boot.powered = true) :
    ∃ u later agenda, sameButFetch { s with clock := s.clock + 1 } u ∧ s.tick = { u with inputs := later, agenda := agenda } := by
  rw [State.tick, if_neg (by simp [hp])]
  exact ⟨_, _, _, sameButFetch_trans (sameButFetch_countHeld _) (sameButFetch_fillAll _), rfl⟩

theorem tick_of_unpowered {s : State} (hp : s.boot.powered = false) (hi : s.inputs = []) : s.tick = s := by
  simp [State.tick, hp, hi]

theorem step_of_agenda_nil {s : State} (ha : s.agenda = []) : step s = .next s.tick := by
  simp [step, ha]

theorem clockTicks : ClockTicks := by
  intro s ha
  rw [step_of_agenda_nil ha]
  constructor
  · intro hp
    obtain ⟨u, later, agenda, ⟨cs, n, h, rfl⟩, ht⟩ := tick_of_powered hp
    rw [ht]
    exact ⟨_, rfl, rfl, ⟨fun _ => rfl, fun _ => rfl, fun _ => rfl, fun _ => rfl, fun _ => rfl, fun _ => rfl⟩, rfl, rfl⟩
  · intro hp hi
    rw [tick_of_unpowered hp hi]

/-! ## Every instruction and every step has a next state -/

/-- No meaning chooses between outcomes: each arm is the next state of an operation that decides inside the state, most of them
through `guarded` (R96), `packet` (R28) or `State.spdmTake` (R403). -/
theorem exec_completes (i : Instr) (s : State) : completes (exec i s) := by
  cases i with
  | _ => exact ⟨_, rfl⟩

theorem streamMove_completes (s : State) (st : StreamId) : completes (s.streamMove st) := by
  unfold State.streamMove
  split
  case h_1 => exact ⟨_, rfl⟩
  case h_2 i t _ => exact exec_completes i t
  case h_3 => exact ⟨_, rfl⟩

theorem move_completes (s : State) (a : Agent) : completes (s.move a) := by
  cases a with
  | ev i => exact exec_completes i s
  | core c => exact ⟨_, rfl⟩
  | stream st => exact streamMove_completes s st
  | input x => exact ⟨_, rfl⟩
  | stage n => exact ⟨_, rfl⟩

theorem step_completes (s : State) : completes (step s) := by
  unfold step
  split
  · exact move_completes _ _
  · exact ⟨_, rfl⟩

theorem nothingStops : NothingStops := ⟨exec_completes, step_completes⟩

/-- Settles O55: with nothing left to move a step is the tick, which changes neither memory nor boot nor issue registers; and no
meaning answers a fault or a refusal. -/
theorem clockAndCompletion : Obligations.ClockAndCompletion := ⟨clockTicks, nothingStops⟩

/-! ## What module reset leaves (R7, R388) -/

theorem reset_unwritten (a : Nat) : Memory.get State.reset.mem a = 0 ∧ inSet State.reset.full a = false := ⟨rfl, rfl⟩

theorem reset_cluster (k : Nat) : (clusterOf_ State.reset k).mode = .night ∧ (clusterOf_ State.reset k).eff = 0 ∧
    (clusterOf_ State.reset k).target = 0xFFFF := ⟨rfl, rfl, rfl⟩

theorem reset_die (d : Nat) : dieAt State.reset d = {} := rfl

theorem reset_region (d r : Nat) : regionAt State.reset d r = {} := rfl

theorem reset_port (p : Nat) : portAt State.reset p = {} := rfl

theorem reset_head (st : StreamId) : headOf State.reset st = {} := rfl

/-- Settles O54: no map of the reset state lists anything, so every register reads as the default of its record, which is its
Reset value. -/
theorem resetState : Obligations.ResetState := by
  refine ⟨rfl, rfl, rfl, rfl, rfl, rfl, rfl, rfl, rfl, rfl, rfl, rfl, rfl, reset_unwritten, fun _ => rfl, reset_cluster, ?die, ?region,
    ?port, fun _ => rfl, fun _ => rfl, ?head⟩
  case die => intro d; simp [muOf, reset_die]
  case region => intro d r; simp [reset_region]
  case port => intro p; simp [reset_port]
  case head => intro st; simp [reset_head]

end Sys2Proof.Machine
end

section
/-!
SUPPORT. Lanes of a register, results written under a mask, and draws in ascending order: the rules that the statements about vector
and lattice instructions share.
-/
open Sys2Proof.Claims

namespace Sys2Proof.Machine

/-! ## Lanes (R79) -/

/-- A type's width is one of five (Table 05-2). -/
theorem width_cases (t : Ty) : t.width = 4 ∨ t.width = 8 ∨ t.width = 16 ∨ t.width = 32 ∨ t.width = 64 := by
  cases t <;> simp [Ty.width]

theorem laneN_lt (w x i : Nat) : laneN w x i < 2 ^ w := Nat.mod_lt _ (Nat.two_pow_pos w)

theorem laneN_zero (w x : Nat) : laneN w x 0 = x % 2 ^ w := by simp [laneN]

theorem laneN_succ (w x i : Nat) : laneN w x (i + 1) = laneN w (x / 2 ^ w) i := by
  rw [laneN, laneN, Nat.div_div_eq_div_mul, ← Nat.pow_add, Nat.mul_succ, Nat.add_comm]

theorem laneN_ofLanes (w : Nat) (l : List Nat) (i : Nat) : laneN w (ofLanes w l) i = l.getD i 0 % 2 ^ w := by
  induction l generalizing i with
  | nil => simp [ofLanes, laneN]
  | cons a r ih =>
    cases i with
    | zero => simp [ofLanes, laneN_zero]
    | succ i =>
      have rest : (a % 2 ^ w + 2 ^ w * ofLanes w r) / 2 ^ w = ofLanes w r := by
        rw [Nat.add_mul_div_left _ _ (Nat.two_pow_pos w), Nat.div_eq_of_lt (Nat.mod_lt _ (Nat.two_pow_pos w)), Nat.zero_add]
      rw [ofLanes, laneN_succ, rest, ih, List.getD_cons_succ]

theorem ofLanes_lt (w : Nat) (l : List Nat) : ofLanes w l < 2 ^ (w * l.length) := by
  induction l with
  | nil => simp [ofLanes]
  | cons a r ih =>
    have low := Nat.mod_lt a (Nat.two_pow_pos w)
    calc ofLanes w (a :: r) < 2 ^ w * (ofLanes w r + 1) := by rw [ofLanes, Nat.mul_succ]; omega
      _ ≤ 2 ^ w * 2 ^ (w * r.length) := Nat.mul_le_mul_left _ ih
      _ = 2 ^ (w * (a :: r).length) := by rw [← Nat.pow_add, List.length_cons, Nat.mul_succ, Nat.add_comm]

/-- A lane that lies inside `b` bits is a lane of the value modulo 2^b. -/
theorem laneN_mod (w x i b : Nat) (h : w * (i + 1) ≤ b) : laneN w (x % 2 ^ b) i = laneN w x i := by
  obtain ⟨c, rfl⟩ : ∃ c, b = w * i + w + c := ⟨b - (w * i + w), by rw [Nat.mul_succ] at h; omega⟩
  rw [laneN, laneN, Nat.add_assoc, Nat.pow_add, Nat.mod_mul_right_div_self,
    Nat.mod_mod_of_dvd _ (Nat.pow_dvd_pow 2 (Nat.le_add_right w c))]

theorem elemAt_eq_laneN (w : Nat) (v : BitVec 1024) (i : Nat) : elemAt w v i = laneN w v.toNat i := rfl

theorem elemAt_lt (w : Nat) (v : BitVec 1024) (i : Nat) : elemAt w v i < 2 ^ w := laneN_lt _ _ _

theorem laneN_ofNat {b w x i : Nat} (h : w * (i + 1) ≤ b) : laneN w (BitVec.ofNat b x).toNat i = laneN w x i := by
  rw [BitVec.toNat_ofNat, laneN_mod _ _ _ _ h]

theorem elemAt_ofNat {w x i : Nat} (h : w * (i + 1) ≤ 1024) : elemAt w (BitVec.ofNat 1024 x) i = laneN w x i := laneN_ofNat h

theorem lane_fits {w i : Nat} (h : i < 1024 / w) : w * (i + 1) ≤ 1024 :=
  (Nat.mul_le_mul_left w h).trans (Nat.mul_div_le 1024 w)

/-- Lane residue `j` of residues laid out in lanes of four bits. -/
theorem lres_ofLanes (l : List Nat) (j : Nat) (hj : j < 32) : (lres (BitVec.ofNat 128 (ofLanes 4 l)) j).toNat = l.getD j 0 % 16 := by
  have h := laneN_mod 4 (ofLanes 4 l) j 128 (by omega)
  rw [laneN_ofLanes] at h
  rw [lres, BitVec.toNat_ofNat, BitVec.toNat_ofNat]
  exact h

theorem laneRes_toNat (r : BitVec 128) (j : Nat) : (laneRes r j).toNat = (lres r j).toNat := by
  simp [laneRes, lres, BitVec.extractLsb'_toNat, Nat.shiftRight_eq_div_pow]

/-! ## Sources and results in the terms of the statements -/

theorem rdV_eq_srcV (s : State) (a : Src) : s.rdV a = ⟨(srcV s a).1, (srcV s a).2⟩ := by cases a <;> rfl

theorem rdK_eq_srcK (s : State) (a : Src) : s.rdK a = srcK s a := by
  cases a with
  | reg n =>
    have h : n.toNat = 0 ↔ n = 0 := by rw [← BitVec.toNat_inj]; rfl
    simp only [State.rdK, Strand.getK, srcK, h]
  | latch n => rfl

theorem rdG_val (s : State) (a : Src) : (s.rdG a).val = srcG s a := by
  cases a with
  | reg n =>
    have h : n.toNat = 0 ↔ n = 0 := by rw [← BitVec.toNat_inj]; rfl
    simp only [State.rdG, Strand.getG, srcG, h]
    split_ifs <;> rfl
  | latch n => rfl

theorem rdG_res (s : State) (a : Src) : (s.rdG a).res = resG s a := by
  cases a with
  | reg n =>
    have h : n.toNat = 0 ↔ n = 0 := by rw [← BitVec.toNat_inj]; rfl
    simp only [State.rdG, Strand.getG, resG, h]
    split_ifs <;> rfl
  | latch n => rfl

theorem getV_eq_oldV (s : State) (d : Dst) : s.cur.st.getV d.n.toNat = ⟨(oldV s d).1, (oldV s d).2⟩ := rfl

theorem flightPut_eq_entering (s : State) (op : FlightOp) (x : Option (Nat × Latch)) (l : Nat) :
    s.flightPut op x l = s.entering [entryOf s op x l] := rfl

theorem wrV_eq_entering (s : State) (d : Dst) (l : Nat) (v : VVal) : s.wrV d l v = s.entering [vEntry s d l v.val v.res] := rfl

theorem flag_eq_flagging (s : State) (f : MFlags) : s.flag f = s.flagging f := rfl

theorem elems_eq_range (t : Ty) (v : VVal) : elems t v = (List.range (1024 / t.width)).map fun i => elemAt t.width v.val i := rfl

/-- A union of flags has a flag that one of them has. -/
theorem getLsbD_orFlags (l : List MFlags) (b : Nat) : (orFlags l).getLsbD b = true ↔ ∃ f ∈ l, f.getLsbD b = true := by
  induction l with
  | nil => simp [orFlags]
  | cons f r ih => simp [orFlags, ih]

/-! ## A result under a mask (R197 to R199) -/

/-- The elements of a 32-bit lane: those whose bits meet the lane's. -/
theorem laneActive_iff (t : Ty) (m : BitVec 256) {j : Nat} (hj : j < 32) : laneActive t.width m j = true ↔
    ∃ i < 1024 / t.width, m.getLsbD i = true ∧ t.width * i < 32 * (j + 1) ∧ 32 * j < t.width * (i + 1) := by
  by_cases hw : t.width = 64
  · rw [hw, laneActive, if_pos rfl]
    constructor
    · exact fun h => ⟨j / 2, by omega, h, by omega, by omega⟩
    · rintro ⟨i, _, hm, _, _⟩
      obtain rfl : i = j / 2 := by omega
      exact hm
  · obtain ⟨k, hk, hdiv, hcount⟩ : ∃ k, t.width * k = 32 ∧ 32 / t.width = k ∧ 1024 / t.width = 32 * k := by
      rcases width_cases t with h | h | h | h | h
      · exact ⟨8, by simp [h]⟩
      · exact ⟨4, by simp [h]⟩
      · exact ⟨2, by simp [h]⟩
      · exact ⟨1, by simp [h]⟩
      · exact absurd h hw
    have hpos : 0 < t.width := by rcases width_cases t with h | h | h | h | h <;> omega
    have below (i c : Nat) : t.width * i < 32 * c ↔ i < k * c := by rw [← hk, Nat.mul_assoc, Nat.mul_lt_mul_left hpos]
    have above (i c : Nat) : 32 * c < t.width * i ↔ k * c < i := by rw [← hk, Nat.mul_assoc, Nat.mul_lt_mul_left hpos]
    simp only [laneActive, if_neg hw, hdiv, hcount, below, above, List.any_eq_true, List.mem_range]
    constructor
    · rintro ⟨i, hi, hm⟩
      refine ⟨j * k + i, ?_, hm, ?_, ?_⟩ <;> nlinarith
    · rintro ⟨i, _, hm, hlt, hle⟩
      rw [Nat.mul_succ] at hlt
      have hj' : j * k = k * j := Nat.mul_comm j k
      exact ⟨i - j * k, by omega, by rwa [Nat.add_sub_cancel' (by omega)]⟩

/-- The elements that a masked write leaves (R197). -/
theorem laneN_mergeLanes {w : Nat} {rs : List Nat} (zero : Bool) (old : Nat) (m : BitVec 256) {i : Nat} (hi : i < rs.length)
    (hr : rs[i] < 2 ^ w) : laneN w (ofLanes w (mergeLanes w zero old m rs)) i =
      if m.getLsbD i then rs[i] else if zero then 0 else laneN w old i := by
  rw [laneN_ofLanes, mergeLanes, List.getD_eq_getElem _ _ (by simpa using hi)]
  simp only [List.getElem_map, List.getElem_zipIdx, Nat.zero_add]
  have hold := Nat.mod_eq_of_lt (laneN_lt w old i)
  by_cases hm : m.getLsbD i = true
  · simp [hm, Nat.mod_eq_of_lt hr]
  · cases zero <;> simp [hm, hold]

/-- The flags that a masked write sets (R199). -/
theorem getLsbD_activeFlags (m : BitVec 256) (n : Nat) (r : Nat → Nat) (fl : Nat → MFlags) (b : Nat) :
    (activeFlags m ((List.range n).map fun i => (r i, fl i))).getLsbD b = true ↔
      ∃ i < n, m.getLsbD i = true ∧ (fl i).getLsbD b = true := by
  rw [activeFlags, getLsbD_orFlags]
  constructor
  · rintro ⟨f, hf, hb⟩
    obtain ⟨⟨x, i⟩, hx, rfl⟩ := List.mem_map.1 hf
    rw [List.mk_mem_zipIdx_iff_getElem?] at hx
    obtain ⟨a, ha, rfl⟩ : ∃ a, (List.range n)[i]? = some a ∧ (r a, fl a) = x := by simpa using hx
    obtain ⟨hi, rfl⟩ : i < n ∧ i = a := by simpa [List.getElem?_eq_some_iff] using ha
    by_cases hm : m.getLsbD i = true
    · exact ⟨i, hi, hm, by simpa [hm] using hb⟩
    · simp [hm] at hb
  · rintro ⟨i, hi, hm, hb⟩
    refine ⟨fl i, List.mem_map.2 ⟨((r i, fl i), i), ?_, by simp [hm]⟩, hb⟩
    exact List.mk_mem_zipIdx_iff_getElem?.2 (by simp [hi])

/-- The lane residues that a masked write leaves (R198). -/
theorem lres_vecResidues (t : Ty) (zero : Bool) (old : BitVec 128) (m : BitVec 256) (act : Nat → BitVec 4) {j : Nat} (hj : j < 32) :
    (lres (vecResidues t zero old m act) j).toNat =
      if laneActive t.width m j then (if tracked t then (act j).toNat else 15) else if zero then 0 else (lres old j).toNat := by
  rw [vecResidues, lres_ofLanes _ _ hj, List.getD_eq_getElem _ _ (by simpa using hj)]
  simp only [List.getElem_map, List.getElem_range, laneRes_toNat]
  have ha := (act j).isLt
  have ho := (lres old j).isLt
  split_ifs <;> omega

theorem tracked_iff (t : Ty) : tracked t = true ↔ t = .s32 ∨ t = .z32 := by simp [tracked]

/-- A masked write is the vector result of the statements, where its results fit their elements. -/
theorem vectorResult_vecWriteRes (s : State) (d : Dst) (l : Nat) (t : Ty) (m : BitVec 256) {r : Nat → Nat} (fl : Nat → MFlags)
    {act : Nat → BitVec 4} {rr : Nat → Nat} (hr : ∀ i < 1024 / t.width, r i < 2 ^ t.width)
    (hact : tracked t = true → ∀ j < 32, (act j).toNat = rr j) :
    vectorResult s s (s.vecWriteRes d l t m ((List.range (1024 / t.width)).map fun i => (r i, fl i)) act) d l t m r fl rr := by
  refine ⟨_, _, _, rfl, ?_, fun b _ => getLsbD_activeFlags m _ r fl b, ?_⟩
  · intro i hi
    rw [elemAt_ofNat (lane_fits hi), laneN_mergeLanes _ _ _ (by simpa using hi) (by simpa using hr i hi)]
    simp [elemAt_eq_laneN, getV_eq_oldV]
  · intro j hj
    rw [lres_vecResidues _ _ _ _ _ hj]
    simp only [laneActive_iff t m hj, tracked_iff] at hact ⊢
    refine if_congr Iff.rfl (ite_congr rfl (fun ht => hact ht j hj) fun _ => rfl) rfl

/-- The same with fresh residues (R198). -/
theorem vectorResult_vecWrite (s : State) (d : Dst) (l : Nat) (t : Ty) (m : BitVec 256) {r : Nat → Nat} (fl : Nat → MFlags)
    (hr : ∀ i < 1024 / t.width, r i < 2 ^ t.width) :
    vectorResult s s (s.vecWrite d l t m ((List.range (1024 / t.width)).map fun i => (r i, fl i))) d l t m r fl (freshRes r) := by
  refine vectorResult_vecWriteRes s d l t m fl hr fun ht j hj => ?_
  have hcount : 1024 / t.width = 32 := by rcases (tracked_iff t).1 ht with rfl | rfl <;> rfl
  rw [hcount, List.getD_eq_getElem _ _ (by simpa using hj)]
  simp only [List.getElem_map, List.getElem_range, resid, freshRes, BitVec.toNat_ofNat]
  omega

/-! ## Draws in ascending order (R60, R199) -/

/-- The word that the draw after `i` others gives under SR; every other mode draws none. -/
def drawWord (rm : Rm) (G : Word) (i : Nat) : Nat := if rm = .sr then (draw (genAfter G i)).2 else 0
/-- The generator after `n` draws under SR, or after none. -/
def drawGen (rm : Rm) (G : Word) (n : Nat) : Word := if rm = .sr then genAfter G n else G

theorem wordAt_eq_drawWord (s : State) (rm : Rm) (i : Nat) : wordAt s rm i = drawWord rm s.seed i := rfl

theorem genAfter_draw (G : Word) (n : Nat) : genAfter (draw G).1 n = genAfter G (n + 1) := by
  induction n with
  | zero => rfl
  | succ n ih => exact congrArg (fun g => (draw g).1) ih

theorem genAfter_add (G : Word) (m n : Nat) : genAfter (genAfter G m) n = genAfter G (m + n) := by
  induction n with
  | zero => rfl
  | succ n ih => exact congrArg (fun g => (draw g).1) ih

theorem drawWord_add (rm : Rm) (G : Word) (m i : Nat) : drawWord rm (drawGen rm G m) i = drawWord rm G (m + i) := by
  by_cases h : rm = .sr <;> simp [drawWord, drawGen, h, genAfter_add]

theorem drawGen_add (rm : Rm) (G : Word) (m n : Nat) : drawGen rm (drawGen rm G m) n = drawGen rm G (m + n) := by
  by_cases h : rm = .sr <;> simp [drawGen, h, genAfter_add]

/-- One draw where the mode is SR: the generator and the word after it. -/
theorem drawOnce_eq (rm : Rm) (G : Word) : (if rm = .sr then draw G else (G, 0)) = (drawGen rm G 1, drawWord rm G 0) := by
  by_cases h : rm = .sr <;> simp [drawGen, drawWord, h, genAfter]

/-- Element `i` of a run of computations takes the word of draw `i`. -/
theorem mapDraw_range {α : Type} (rm : Rm) (f : Nat → α → Nat × MFlags) (n : Nat) (x : Nat → α) (G : Word) :
    mapDraw rm f ((List.range n).map x) G = ((List.range n).map fun i => f (drawWord rm G i) (x i), drawGen rm G n) := by
  induction n generalizing x G with
  | zero => simp [mapDraw, drawGen, genAfter]
  | succ n ih =>
    simp only [List.range_succ_eq_map, List.map_cons, List.map_map, mapDraw, drawOnce_eq]
    have := ih (x ∘ Nat.succ) (drawGen rm G 1)
    simp only [drawWord_add, drawGen_add, Nat.add_comm 1] at this
    rw [this]
    rfl

theorem drawn_range {α : Type} (s : State) (rm : Rm) (f : Nat → α → Nat × MFlags) (n : Nat) (x : Nat → α) :
    s.drawn rm f ((List.range n).map x) = ((List.range n).map fun i => f (wordAt s rm i) (x i), afterDraws s rm n) := by
  simp only [State.drawn, mapDraw_range, wordAt_eq_drawWord, afterDraws, drawGen]
  by_cases h : rm = .sr
  · simp only [h, if_true]
    rfl
  · simp [h]

/-! ### Draws leave everything that a result is made from -/

@[simp] theorem afterDraws_cur (s : State) (rm : Rm) (n : Nat) : (afterDraws s rm n).cur = s.cur := by
  unfold afterDraws
  split_ifs <;> rfl

@[simp] theorem oldV_afterDraws (s : State) (rm : Rm) (n : Nat) (d : Dst) : oldV (afterDraws s rm n) d = oldV s d := by
  simp [oldV]

@[simp] theorem vEntry_afterDraws (s : State) (rm : Rm) (n : Nat) (d : Dst) (l : Nat) (v : BitVec 1024) (r : BitVec 128) :
    vEntry (afterDraws s rm n) d l v r = vEntry s d l v r := by
  unfold afterDraws
  split_ifs <;> rfl

/-- A vector result after draws, in the terms of the state before them. -/
theorem vectorResult_afterDraws {s t : State} {rm : Rm} {n : Nat} {d : Dst} {l : Nat} {ty : Ty} {m : BitVec 256} {r : Nat → Nat}
    {fl : Nat → MFlags} {rr : Nat → Nat} (h : vectorResult (afterDraws s rm n) (afterDraws s rm n) t d l ty m r fl rr) :
    vectorResult s (afterDraws s rm n) t d l ty m r fl rr := by
  simpa only [vectorResult, vEntry_afterDraws, oldV_afterDraws] using h

end Sys2Proof.Machine
end

section
/-!
SUPPORT. Rounding to a floating format (R58, R59) in terms of the rational that is rounded: its step, how many steps it holds, and
which code it takes.
-/
open Sys2Proof.Claims

namespace Sys2Proof.Machine

/-! ## Fractions scaled by powers of two -/

theorem scaleQ_pos {num den : Nat} (hn : 0 < num) (hd : 0 < den) (q : Int) : 0 < (scaleQ num den q).1 ∧ 0 < (scaleQ num den q).2 := by
  unfold scaleQ
  split_ifs
  · exact ⟨hn, Nat.mul_pos hd (Nat.two_pow_pos _)⟩
  · exact ⟨Nat.mul_pos hn (Nat.two_pow_pos _), hd⟩

theorem two_pow_toNat {q : Int} (h : 0 ≤ q) : ((2 ^ q.toNat : Nat) : Rat) = 2 ^ q := by
  rw [Nat.cast_pow, Nat.cast_ofNat, ← zpow_natCast, Int.toNat_of_nonneg h]

theorem scaleQ_value (num den : Nat) (q : Int) :
    ((scaleQ num den q).1 : Rat) / (scaleQ num den q).2 = num / den / 2 ^ q := by
  unfold scaleQ
  split_ifs with h
  · rw [Nat.cast_mul, two_pow_toNat h, div_div]
  · rw [Nat.cast_mul, two_pow_toNat (by omega : 0 ≤ -q), zpow_neg, mul_div_right_comm, div_eq_mul_inv (_ / _)]

theorem scaleQ_lt_iff {num den : Nat} (hd : 0 < den) (hn : 0 < num) (q : Int) :
    (scaleQ num den q).1 < (scaleQ num den q).2 ↔ (num : Rat) / den < 2 ^ q := by
  have hpos : (0 : Rat) < (scaleQ num den q).2 := by exact_mod_cast (scaleQ_pos hn hd q).2
  rw [← div_lt_one (zpow_pos two_pos q : (0 : Rat) < 2 ^ q), ← scaleQ_value, div_lt_one hpos, Nat.cast_lt]

/-- The binary logarithm of a fraction lies within one of the difference of those of its parts. -/
theorem log2_div_bounds {num den : Nat} (hn : 0 < num) (hd : 0 < den) :
    let d : Int := (Nat.log2 num : Int) - Nat.log2 den
    (2 : Rat) ^ (d - 1) ≤ num / den ∧ (num : Rat) / den < 2 ^ (d + 1) := by
  have bounds (x : Nat) (hx : 0 < x) : (2 : Rat) ^ (Nat.log2 x : Int) ≤ x ∧ (x : Rat) < 2 ^ ((Nat.log2 x : Int) + 1) := by
    have h1 := Nat.log2_self_le hx.ne'
    have h2 := Nat.lt_log2_self (n := x)
    constructor
    · rw [zpow_natCast]; exact_mod_cast h1
    · exact_mod_cast h2
  obtain ⟨n1, n2⟩ := bounds num hn
  obtain ⟨d1, d2⟩ := bounds den hd
  have hden : (0 : Rat) < den := by exact_mod_cast hd
  intro d
  rw [le_div_iff₀ hden, div_lt_iff₀ hden]
  constructor
  · calc (2 : Rat) ^ (d - 1) * den ≤ 2 ^ (d - 1) * 2 ^ ((Nat.log2 den : Int) + 1) := by gcongr
      _ = 2 ^ (Nat.log2 num : Int) := by rw [← zpow_add₀ two_ne_zero]; congr 1; omega
      _ ≤ num := n1
  · calc (num : Rat) < 2 ^ ((Nat.log2 num : Int) + 1) := n2
      _ = 2 ^ (d + 1) * 2 ^ (Nat.log2 den : Int) := by rw [← zpow_add₀ two_ne_zero]; congr 1; omega
      _ ≤ 2 ^ (d + 1) * den := by gcongr

theorem log2Q_eq_log {num den : Nat} (hn : 0 < num) (hd : 0 < den) : log2Q num den = Int.log 2 ((num : Rat) / den) := by
  set d : Int := (Nat.log2 num : Int) - Nat.log2 den with hdef
  obtain ⟨lower, upper⟩ := log2_div_bounds hn hd
  have hv : (0 : Rat) < num / den := div_pos (by exact_mod_cast hn) (by exact_mod_cast hd)
  have le_log (x : Int) := Int.zpow_le_iff_le_log (R := Rat) one_lt_two (x := x) hv
  have log_lt (x : Int) := Int.lt_zpow_iff_log_lt (R := Rat) one_lt_two (x := x) hv
  have h1 := (le_log (d - 1)).1 lower
  have h2 := (log_lt (d + 1)).1 upper
  have below : (if 0 ≤ d then decide (num < den * 2 ^ d.toNat) else decide (num * 2 ^ (-d).toNat < den)) =
      decide (Int.log 2 ((num : Rat) / den) < d) := by
    have h3 := scaleQ_lt_iff hd hn d
    rw [show ((2 : Rat) ^ d) = ((2 : Nat) : Rat) ^ d by norm_num, log_lt] at h3
    simp only [decide_eq_decide.2 h3.symm, scaleQ]
    split_ifs <;> rfl
  rw [log2Q]
  simp only [← hdef, below, decide_eq_true_eq]
  split_ifs <;> omega

/-! ## The step of a value in a format -/

/-- The binary exponent of the step of a format at a value: that of its normal range, and no less than the least one. -/
def stepExp (f : FFmt) (v : Rat) : Int := max (1 - (f.bias : Int)) (Int.log 2 v) - f.p
/-- The least exponent of a step. -/
def leastStep (f : FFmt) : Int := 1 - (f.bias : Int) - f.p
/-- A value in units of its step. -/
def unitsOf (f : FFmt) (v : Rat) : Rat := v / 2 ^ stepExp f v
/-- The code of the candidate nearer to zero. -/
def lowerCode (f : FFmt) (v : Rat) : Nat := (stepExp f v - leastStep f).toNat * 2 ^ f.p + ⌊unitsOf f v⌋₊

theorem leastStep_le (f : FFmt) (v : Rat) : leastStep f ≤ stepExp f v := by
  have := le_max_left (1 - (f.bias : Int)) (Int.log 2 v)
  simp only [leastStep, stepExp]
  omega

theorem unitsOf_mul_step (f : FFmt) (v : Rat) : unitsOf f v * 2 ^ stepExp f v = v := div_mul_cancel₀ _ (zpow_ne_zero _ two_ne_zero)

theorem unitsOf_lt (f : FFmt) {v : Rat} (hv : 0 < v) : unitsOf f v < 2 ^ (f.p + 1) := by
  have h := (Int.lt_zpow_iff_log_lt (R := Rat) one_lt_two (x := stepExp f v + f.p + 1) hv).2 (by
    have := le_max_right (1 - (f.bias : Int)) (Int.log 2 v)
    simp only [stepExp]
    omega)
  rw [unitsOf, div_lt_iff₀ (zpow_pos two_pos _), ← zpow_natCast, ← zpow_add₀ two_ne_zero]
  rwa [Nat.cast_add, Nat.cast_one, add_comm, ← add_assoc]

/-- Above the least step the value fills its binade. -/
theorem le_unitsOf (f : FFmt) {v : Rat} (hv : 0 < v) (h : leastStep f < stepExp f v) : 2 ^ f.p ≤ unitsOf f v := by
  have h := (Int.zpow_le_iff_le_log (R := Rat) one_lt_two (x := stepExp f v + f.p) hv).2 (by
    simp only [stepExp, leastStep] at h ⊢
    omega)
  rw [unitsOf, le_div_iff₀ (zpow_pos two_pos _), ← zpow_natCast, ← zpow_add₀ two_ne_zero]
  rwa [add_comm]

theorem stepExp_eq (f : FFmt) {v : Rat} {q : Int} (hv : 0 < v) (h0 : leastStep f ≤ q) (h1 : v < 2 ^ (f.p + 1) * 2 ^ q)
    (h2 : q = leastStep f ∨ 2 ^ f.p * 2 ^ q ≤ v) : stepExp f v = q := by
  have upper := (Int.lt_zpow_iff_log_lt (R := Rat) one_lt_two (x := f.p + 1 + q) hv).1 (by
    rw [zpow_add₀ (by norm_num)]
    exact_mod_cast h1)
  simp only [stepExp, leastStep] at h0 h2 ⊢
  rcases h2 with rfl | h2
  · omega
  · have lower := (Int.zpow_le_iff_le_log (R := Rat) one_lt_two (x := f.p + q) hv).1 (by
      rw [zpow_add₀ (by norm_num)]
      exact_mod_cast h2)
    omega

/-! ## The code that a rounding answers -/

theorem floor_natDiv (a d : Nat) : ⌊(a : Rat) / d⌋₊ = a / d := Nat.floor_div_eq_div a d

theorem natDiv_fract {a d : Nat} (hd : 0 < d) : (a : Rat) / d = (a / d : Nat) + ((a % d : Nat) : Rat) / d := by
  have hd' : (d : Rat) ≠ 0 := by exact_mod_cast hd.ne'
  rw [eq_comm, ← eq_sub_iff_add_eq', div_eq_iff hd', sub_mul, div_mul_cancel₀ _ hd', eq_sub_iff_add_eq]
  exact_mod_cast Nat.mod_add_div' a d

/-- The lower candidate is the greatest finite code, or beyond it, and the value is greater. -/
def beyondMax (f : FFmt) (v : Rat) (a d : Nat) : Prop :=
  f.maxCode < lowerCode f v ∨ f.maxCode = lowerCode f v ∧ a % d ≠ 0

/-- The code and the flags of `roundMag` under RNE, the value in units of its step being a / d. -/
theorem roundMag_parts (f : FFmt) (neg : Bool) {num den : Nat} (hn : 0 < num) (hd : 0 < den) :
    ∃ a d : Nat, 0 < d ∧ (a : Rat) / d = unitsOf f (num / den) ∧
      let base := lowerCode f (num / den)
      let up := roundsUp .rne neg (a / d) (a % d) d 0
      (beyondMax f (num / den) a d → (roundMag f .rne 0 neg num den).2 = fOF ||| fNX ∧
        (f.hasInf = true → base = f.maxCode → up = false → (roundMag f .rne 0 neg num den).1 = signed f neg base)) ∧
      (¬ beyondMax f (num / den) a d → (roundMag f .rne 0 neg num den).1 = signed f neg (if up then base + 1 else base) ∧
        (a % d ≠ 0 → (roundMag f .rne 0 neg num den).2.getLsbD 3 = true)) := by
  have hstep : (if log2Q num den < 1 - (f.bias : Int) then 1 - (f.bias : Int) else log2Q num den) - f.p = stepExp f (num / den) := by
    rw [log2Q_eq_log hn hd, stepExp, max_def]
    split_ifs <;> omega
  have hval : ((scaleQ num den (stepExp f (num / den))).1 : Rat) / (scaleQ num den (stepExp f (num / den))).2 =
      unitsOf f (num / den) := scaleQ_value _ _ _
  refine ⟨_, _, (scaleQ_pos hn hd (stepExp f (num / den))).2, hval, ?_⟩
  have hbase : (stepExp f (num / den) - (1 - (f.bias : Int) - f.p)).toNat * 2 ^ f.p +
      (scaleQ num den (stepExp f (num / den))).1 / (scaleQ num den (stepExp f (num / den))).2 = lowerCode f (num / den) := by
    rw [lowerCode, leastStep, ← hval, floor_natDiv]
  have hbeyond (a d : Nat) : ((decide (f.maxCode < lowerCode f (num / den)) ||
      (decide (f.maxCode = lowerCode f (num / den)) && a % d != 0)) = true) ↔ beyondMax f (num / den) a d := by
    simp [beyondMax]
  simp only [roundMag]
  rw [hstep, hbase]
  constructor <;> intro h
  · rw [if_pos ((hbeyond _ _).mpr h)]
    cases hi : f.hasInf
    · exact ⟨rfl, fun h => absurd h Bool.false_ne_true⟩
    · exact ⟨rfl, fun _ hmax hup => by simp [hmax, hup]⟩
  · rw [if_neg (mt (hbeyond _ _).mp h)]
    refine ⟨rfl, fun hr => ?_⟩
    have tinyNX : (fUF ||| fNX).getLsbD 3 = true := by decide
    have plainNX : fNX.getLsbD 3 = true := by decide
    rw [if_neg hr]
    split_ifs <;> assumption

theorem roundsUp_rne_of_lt {neg : Bool} {n r d w : Nat} (h : 2 * r < d) : roundsUp .rne neg n r d w = false := by
  simp only [roundsUp, Bool.and_eq_false_iff, Bool.or_eq_false_iff, decide_eq_false_iff_not, beq_eq_false_iff_ne]
  omega

theorem roundsUp_rne_of_gt {neg : Bool} {n r d w : Nat} (h : d < 2 * r) : roundsUp .rne neg n r d w = true := by
  simp only [roundsUp, bne_iff_ne, Bool.and_eq_true, Bool.or_eq_true, decide_eq_true_eq]
  omega

/-- A fraction beyond its floor, against a half. -/
theorem two_mul_mod_lt_iff {a d : Nat} (hd : 0 < d) : 2 * (a % d) < d ↔ (a : Rat) / d - ⌊(a : Rat) / d⌋₊ < 1 / 2 := by
  have hd' : (0 : Rat) < d := by exact_mod_cast hd
  rw [floor_natDiv, natDiv_fract hd, add_sub_cancel_left, div_lt_div_iff₀ hd' two_pos, one_mul, mul_comm]
  exact_mod_cast Iff.rfl

theorem lt_two_mul_mod_iff {a d : Nat} (hd : 0 < d) : d < 2 * (a % d) ↔ 1 / 2 < (a : Rat) / d - ⌊(a : Rat) / d⌋₊ := by
  have hd' : (0 : Rat) < d := by exact_mod_cast hd
  rw [floor_natDiv, natDiv_fract hd, add_sub_cancel_left, div_lt_div_iff₀ two_pos hd', one_mul, mul_comm]
  exact_mod_cast Iff.rfl

section
variable (f : FFmt) (neg : Bool) {num den : Nat} (hn : 0 < num) (hd : 0 < den)
include hn hd

/-- A rounding that does not set NX meets a value of the format. -/
theorem exact_of_not_inexact (h : (roundMag f .rne 0 neg num den).2.getLsbD 3 = false) :
    (⌊unitsOf f (num / den)⌋₊ : Rat) = unitsOf f (num / den) ∧ lowerCode f (num / den) ≤ f.maxCode := by
  obtain ⟨a, d, hd0, hunits, hbeyond, hwithin⟩ := roundMag_parts f neg hn hd
  by_cases hb : beyondMax f (num / den) a d
  · rw [(hbeyond hb).1] at h
    exact absurd h (by decide)
  · have hr : a % d = 0 := by
      by_contra hr
      rw [(hwithin hb).2 hr] at h
      exact absurd h (by decide)
    refine ⟨?_, not_lt.1 fun hlt => hb (.inl hlt)⟩
    rw [← hunits, floor_natDiv, natDiv_fract hd0, hr, Nat.cast_zero, zero_div, add_zero]

/-- Less than half a step beyond the lower candidate, that one is taken. -/
theorem code_of_lt_half (hinf : f.hasInf = true) (hmax : lowerCode f (num / den) ≤ f.maxCode)
    (hhalf : unitsOf f (num / den) - ⌊unitsOf f (num / den)⌋₊ < 1 / 2) :
    (roundMag f .rne 0 neg num den).1 = signed f neg (lowerCode f (num / den)) := by
  obtain ⟨a, d, hd0, hunits, hbeyond, hwithin⟩ := roundMag_parts f neg hn hd
  rw [← hunits, ← two_mul_mod_lt_iff hd0] at hhalf
  have hup := roundsUp_rne_of_lt (neg := neg) (n := a / d) (w := 0) hhalf
  by_cases hb : beyondMax f (num / den) a d
  · refine (hbeyond hb).2 hinf ?_ hup
    rcases hb with hlt | ⟨heq, _⟩ <;> omega
  · rw [(hwithin hb).1, hup]
    rfl

/-- More than half a step beyond the lower candidate, the other one is taken. -/
theorem code_of_half_lt (hmax : lowerCode f (num / den) < f.maxCode)
    (hhalf : 1 / 2 < unitsOf f (num / den) - ⌊unitsOf f (num / den)⌋₊) :
    (roundMag f .rne 0 neg num den).1 = signed f neg (lowerCode f (num / den) + 1) := by
  obtain ⟨a, d, hd0, hunits, -, hwithin⟩ := roundMag_parts f neg hn hd
  rw [← hunits, ← lt_two_mul_mod_iff hd0] at hhalf
  have hb : ¬ beyondMax f (num / den) a d := by
    rintro (hlt | ⟨heq, _⟩) <;> omega
  rw [(hwithin hb).1, roundsUp_rne_of_gt hhalf]
  rfl

end

/-! ## Values close to one of the format -/

section
variable {f : FFmt} {q : Int} {N : Nat} {δ u : Rat} (hu0 : 0 < u) (hu : u = (N + δ) * 2 ^ q)
include hu0 hu

/-- Just above `N` steps of 2^q, the lower candidate is at `N`. -/
theorem lower_of_above (hq : leastStep f ≤ q) (hN : N < 2 ^ (f.p + 1)) (hfull : q = leastStep f ∨ 2 ^ f.p ≤ N) (h0 : 0 ≤ δ)
    (h1 : δ < 1 / 4) :
    lowerCode f u = (q - leastStep f).toNat * 2 ^ f.p + N ∧ unitsOf f u - ⌊unitsOf f u⌋₊ < 1 / 2 := by
  have hstep : (0 : Rat) < 2 ^ q := zpow_pos two_pos q
  have hN' : (N : Rat) + 1 ≤ 2 ^ (f.p + 1) := by exact_mod_cast hN
  have hexp : stepExp f u = q := by
    refine stepExp_eq f hu0 hq ?_ (hfull.imp_right fun h => ?_)
    · rw [hu]
      exact mul_lt_mul_of_pos_right (by linarith) hstep
    · have : (2 : Rat) ^ f.p ≤ N := by exact_mod_cast h
      rw [hu]
      exact mul_le_mul_of_nonneg_right (by linarith) hstep.le
  have hunits : unitsOf f u = N + δ := by rw [unitsOf, hexp, hu, mul_div_cancel_right₀ _ hstep.ne']
  have hfloor : ⌊unitsOf f u⌋₊ = N := by
    rw [hunits, Nat.floor_eq_iff (by positivity)]
    constructor <;> linarith
  rw [lowerCode, hexp, hfloor, hunits]
  exact ⟨rfl, by linarith⟩

/-- Just below `N` steps of 2^q, the other candidate is at `N`, whether or not a binade ends there. -/
theorem lower_of_below (hq : leastStep f ≤ q) (hN0 : 0 < N) (hN : N < 2 ^ (f.p + 1)) (hfull : q = leastStep f ∨ 2 ^ f.p ≤ N)
    (h0 : δ < 0) (h1 : -(1 / 4) < δ) :
    lowerCode f u + 1 = (q - leastStep f).toNat * 2 ^ f.p + N ∧ 1 / 2 < unitsOf f u - ⌊unitsOf f u⌋₊ := by
  have hstep : (0 : Rat) < 2 ^ q := zpow_pos two_pos q
  have hN' : (N : Rat) + 1 ≤ 2 ^ (f.p + 1) := by exact_mod_cast hN
  by_cases hlast : q = leastStep f ∨ 2 ^ f.p < N
  · obtain ⟨M, rfl⟩ : ∃ M, N = M + 1 := ⟨N - 1, by omega⟩
    have hexp : stepExp f u = q := by
      refine stepExp_eq f hu0 hq ?_ (hlast.imp_right fun h => ?_)
      · rw [hu]
        exact mul_lt_mul_of_pos_right (by linarith) hstep
      · have : (2 : Rat) ^ f.p ≤ M := by exact_mod_cast Nat.lt_succ_iff.1 h
        rw [hu]
        push_cast
        exact mul_le_mul_of_nonneg_right (by linarith) hstep.le
    have hunits : unitsOf f u = M + 1 + δ := by
      rw [unitsOf, hexp, hu, mul_div_cancel_right₀ _ hstep.ne']
      push_cast
      rfl
    have hM : (0 : Rat) ≤ M := Nat.cast_nonneg M
    have hfloor : ⌊unitsOf f u⌋₊ = M := by
      rw [hunits, Nat.floor_eq_iff (by linarith)]
      constructor <;> linarith
    rw [lowerCode, hexp, hfloor, hunits]
    exact ⟨by omega, by linarith⟩
  · obtain ⟨hne, hle⟩ := not_or.1 hlast
    obtain rfl : N = 2 ^ f.p := le_antisymm (not_lt.1 hle) (hfull.resolve_left hne)
    have hhalf : (2 : Rat) ^ q = 2 * 2 ^ (q - 1) := by rw [← zpow_one_add₀ two_ne_zero]; congr 1; omega
    have hstep' : (0 : Rat) < 2 ^ (q - 1) := zpow_pos two_pos _
    have hbig : (1 : Rat) ≤ 2 ^ f.p := one_le_pow₀ one_le_two
    have hu' : u = (2 ^ (f.p + 1) + 2 * δ) * 2 ^ (q - 1) := by
      rw [hu, hhalf]
      push_cast
      ring
    have hexp : stepExp f u = q - 1 := by
      refine stepExp_eq f hu0 (by omega) ?_ (.inr ?_)
      · rw [hu']
        exact mul_lt_mul_of_pos_right (by linarith) hstep'
      · rw [hu', pow_succ]
        exact mul_le_mul_of_nonneg_right (by linarith) hstep'.le
    have hunits : unitsOf f u = 2 ^ (f.p + 1) + 2 * δ := by rw [unitsOf, hexp, hu', mul_div_cancel_right₀ _ hstep'.ne']
    have hpos := Nat.two_pow_pos (f.p + 1)
    have hcast : ((2 ^ (f.p + 1) - 1 : Nat) : Rat) = 2 ^ (f.p + 1) - 1 := by
      rw [Nat.cast_sub hpos]
      push_cast
      rfl
    have hfloor : ⌊unitsOf f u⌋₊ = 2 ^ (f.p + 1) - 1 := by
      rw [hunits, Nat.floor_eq_iff (by rw [pow_succ]; linarith), hcast]
      constructor <;> linarith
    rw [lowerCode, hexp, hfloor, hunits, hcast]
    refine ⟨?_, by linarith⟩
    obtain ⟨Q, hQ⟩ : ∃ Q : Nat, q - leastStep f = Q + 1 := ⟨(q - 1 - leastStep f).toNat, by omega⟩
    rw [show q - 1 - leastStep f = Q by omega, hQ, Int.toNat_natCast, show ((Q : Int) + 1).toNat = Q + 1 by omega, Nat.succ_mul,
      pow_succ] at *
    omega

end

/-- A value within a quarter of a step of one of the format takes its code. -/
theorem code_eq_of_near (f : FFmt) (neg : Bool) (hinf : f.hasInf = true) {num den num' den' : Nat} (hn : 0 < num) (hd : 0 < den)
    (hn' : 0 < num') (hd' : 0 < den') (hexact : (roundMag f .rne 0 neg num den).2.getLsbD 3 = false)
    (hnear : |(num' : Rat) / den' - num / den| * 2 ^ (f.p + 3) ≤ num / den) :
    (roundMag f .rne 0 neg num' den').1 = (roundMag f .rne 0 neg num den).1 := by
  obtain ⟨hint, hmax⟩ := exact_of_not_inexact f neg hn hd hexact
  have hv : (0 : Rat) < num / den := div_pos (by exact_mod_cast hn) (by exact_mod_cast hd)
  have hu : (0 : Rat) < num' / den' := div_pos (by exact_mod_cast hn') (by exact_mod_cast hd')
  have hcode := code_of_lt_half f neg hn hd hinf hmax (by rw [hint]; norm_num)
  have hq := leastStep_le f (num / den : Rat)
  have hstep : (0 : Rat) < 2 ^ stepExp f (num / den : Rat) := zpow_pos two_pos _
  have hvN := unitsOf_mul_step f (num / den : Rat)
  have hlow : lowerCode f (num / den : Rat) =
      (stepExp f (num / den : Rat) - leastStep f).toNat * 2 ^ f.p + ⌊unitsOf f (num / den : Rat)⌋₊ := rfl
  have hlt := unitsOf_lt f hv
  have hfull := fun h => le_unitsOf f hv h
  rw [← hint] at hvN hlt hfull
  generalize ⌊unitsOf f (num / den : Rat)⌋₊ = N at *
  generalize stepExp f (num / den : Rat) = q at *
  have hNlt : N < 2 ^ (f.p + 1) := by exact_mod_cast hlt
  have hNpos : 0 < N := by
    by_contra h
    rw [Nat.eq_zero_of_not_pos h, Nat.cast_zero, zero_mul] at hvN
    exact hv.ne hvN
  have hNfull : q = leastStep f ∨ 2 ^ f.p ≤ N := hq.eq_or_lt.imp Eq.symm fun h => by exact_mod_cast hfull h
  -- the distance is less than a quarter of the step
  obtain ⟨δ, hδ, hquarter⟩ : ∃ δ : Rat, (num' : Rat) / den' = (N + δ) * 2 ^ q ∧ |δ| < 1 / 4 := by
    refine ⟨(num' / den' - num / den) / 2 ^ q, ?_, ?_⟩
    · rw [add_mul, hvN, div_mul_cancel₀ _ hstep.ne', add_sub_cancel]
    · rw [abs_div, abs_of_pos hstep, div_lt_iff₀ hstep]
      refine lt_of_mul_lt_mul_right (lt_of_le_of_lt hnear ?_) (by positivity : (0 : Rat) ≤ 2 ^ (f.p + 3))
      calc (num : Rat) / den < 2 ^ (f.p + 1) * 2 ^ q := by rw [← hvN]; exact mul_lt_mul_of_pos_right hlt hstep
        _ = 1 / 4 * 2 ^ q * 2 ^ (f.p + 3) := by ring
  obtain ⟨hdown, hup⟩ := abs_lt.1 hquarter
  rw [hcode, hlow]
  by_cases h0 : 0 ≤ δ
  · obtain ⟨hl, hhalf⟩ := lower_of_above hu hδ hq hNlt hNfull h0 hup
    rw [code_of_lt_half f neg hn' hd' hinf (by omega) hhalf, hl]
  · obtain ⟨hl, hhalf⟩ := lower_of_below hu hδ hq hNpos hNlt hNfull (not_le.1 h0) hdown
    rw [code_of_half_lt f neg hn' hd' (by omega) hhalf, hl]

theorem signed_inj {f : FFmt} {neg : Bool} {a b : Nat} (h : signed f neg a = signed f neg b) : a = b := by
  cases neg
  · exact h
  · exact Nat.add_left_cancel h

theorem lowerCode_lt_of_stepExp_lt (f : FFmt) {v u : Rat} (hv : 0 < v) (hu : 0 < u) (h : stepExp f v < stepExp f u) :
    lowerCode f v < lowerCode f u := by
  have hq := leastStep_le f v
  have hlt : ⌊unitsOf f v⌋₊ < 2 ^ (f.p + 1) := by
    rw [Nat.floor_lt' (by positivity)]
    exact_mod_cast unitsOf_lt f hv
  have hle : 2 ^ f.p ≤ ⌊unitsOf f u⌋₊ := Nat.le_floor (by exact_mod_cast le_unitsOf f hu (by omega))
  have hmul := Nat.mul_le_mul_right (2 ^ f.p)
    (by omega : (stepExp f v - leastStep f).toNat + 1 ≤ (stepExp f u - leastStep f).toNat)
  rw [Nat.succ_mul] at hmul
  rw [pow_succ] at hlt
  rw [lowerCode, lowerCode]
  omega

/-- Two values of the format that round to one code are one value. -/
theorem eq_of_exact_code (f : FFmt) (neg : Bool) (hinf : f.hasInf = true) {num den num' den' : Nat} (hn : 0 < num) (hd : 0 < den)
    (hn' : 0 < num') (hd' : 0 < den') (hexact : (roundMag f .rne 0 neg num den).2.getLsbD 3 = false)
    (hexact' : (roundMag f .rne 0 neg num' den').2.getLsbD 3 = false)
    (hcode : (roundMag f .rne 0 neg num den).1 = (roundMag f .rne 0 neg num' den').1) : (num : Rat) / den = num' / den' := by
  obtain ⟨hint, hmax⟩ := exact_of_not_inexact f neg hn hd hexact
  obtain ⟨hint', hmax'⟩ := exact_of_not_inexact f neg hn' hd' hexact'
  have hv : (0 : Rat) < num / den := div_pos (by exact_mod_cast hn) (by exact_mod_cast hd)
  have hu : (0 : Rat) < num' / den' := div_pos (by exact_mod_cast hn') (by exact_mod_cast hd')
  rw [code_of_lt_half f neg hn hd hinf hmax (by rw [hint]; norm_num),
    code_of_lt_half f neg hn' hd' hinf hmax' (by rw [hint']; norm_num)] at hcode
  have hlow := signed_inj hcode
  have hstep : stepExp f (num / den) = stepExp f (num' / den') := by
    rcases lt_trichotomy (stepExp f (num / den)) (stepExp f (num' / den')) with h | h | h
    · exact absurd hlow (lowerCode_lt_of_stepExp_lt f hv hu h).ne
    · exact h
    · exact absurd hlow (lowerCode_lt_of_stepExp_lt f hu hv h).ne'
  have hfloor : ⌊unitsOf f (num / den : Rat)⌋₊ = ⌊unitsOf f (num' / den' : Rat)⌋₊ := by
    rw [lowerCode, lowerCode, hstep] at hlow
    exact Nat.add_left_cancel hlow
  rw [← unitsOf_mul_step f (num / den), ← unitsOf_mul_step f (num' / den'), ← hint, ← hint', hfloor, hstep]

/-! ## Codes fit their width -/

/-- The codes of a format with infinities, and of its canonical NaN, fit its width. -/
def fitsWidth (f : FFmt) : Prop := 0 < f.width ∧ f.maxCode + 1 < 2 ^ (f.width - 1) ∧ f.nanCode.getD 0 < 2 ^ f.width

theorem fitsWidth_fmtOf {t : Ty} (h : t.setF = true) : fitsWidth (fmtOf t) ∧ (fmtOf t).width = t.width ∧ (fmtOf t).hasInf = true := by
  cases t <;> simp_all [Ty.setF, fmtOf, Ty.width, fitsWidth]

theorem signed_lt {f : FFmt} (hf : fitsWidth f) (neg : Bool) {c : Nat} (h : c ≤ f.maxCode + 1) : signed f neg c < 2 ^ f.width := by
  obtain ⟨hpos, hmax, -⟩ := hf
  obtain ⟨w, hw⟩ : ∃ w, f.width = w + 1 := ⟨f.width - 1, by omega⟩
  rw [hw] at hmax ⊢
  rw [Nat.add_sub_cancel] at hmax
  rw [signed, pow_succ, hw, Nat.add_sub_cancel]
  split_ifs <;> omega

theorem roundMag_lt {f : FFmt} (hf : fitsWidth f) (rm : Rm) (w : Nat) (neg : Bool) (num den : Nat) :
    (roundMag f rm w neg num den).1 < 2 ^ f.width := by
  simp only [roundMag]
  generalize (if log2Q num den < 1 - (f.bias : Int) then 1 - (f.bias : Int) else log2Q num den) - f.p = q
  generalize (q - _).toNat * 2 ^ f.p + _ = base
  split
  next =>
    split
    · exact signed_lt hf neg (Nat.le_succ _)
    · refine signed_lt hf neg ?_
      split_ifs <;> omega
  next hwithin =>
    refine signed_lt hf neg ?_
    simp only [Bool.or_eq_true, decide_eq_true_eq, not_or, not_lt] at hwithin
    split_ifs <;> omega

theorem roundTo_lt {t : Ty} (h : t.setF = true) (rm : Rm) (w : Nat) (x : XNum) : (roundTo t rm w x).1 < 2 ^ t.width := by
  obtain ⟨hf, hw, hinf⟩ := fitsWidth_fmtOf h
  rw [← hw]
  cases x with
  | fin m e =>
    simp only [roundTo]
    split_ifs
    · exact Nat.two_pow_pos _
    · exact roundMag_lt hf _ _ _ _ _
  | negZero => exact signed_lt hf true (by omega)
  | inf neg =>
    simp only [roundTo, hinf, if_true]
    exact signed_lt hf neg le_rfl
  | nan =>
    obtain ⟨-, -, hnan⟩ := hf
    simp only [roundTo]
    cases hn : (fmtOf t).nanCode with
    | none => exact Nat.two_pow_pos _
    | some c => simpa [hn] using hnan

theorem canonNaN_lt {t : Ty} (h : t.setF = true) : canonNaN t < 2 ^ t.width := by
  obtain ⟨⟨-, -, hnan⟩, hw, -⟩ := fitsWidth_fmtOf h
  rw [← hw]
  exact hnan

end Sys2Proof.Machine
end

section
/-!
SUPPORT. `vexp2` (R208): how far the approximations of 2^(f / 2^q) at one precision lie from those at twice the precision, and why the
rounding that ends the search sets NX.
-/
open Sys2Proof.Claims

namespace Sys2Proof.Machine

/-! ## The terms of ln 2 at two precisions -/

theorem ln2Sum_add (p i k l : Nat) : ln2Sum p i (k + l) = ln2Sum p i k + ln2Sum p (i + k) l := by
  induction k generalizing i with
  | zero => simp [ln2Sum]
  | succ k ih => rw [Nat.succ_add, ln2Sum, ln2Sum, ih, ← Nat.add_assoc, Nat.add_right_comm i 1 k, Nat.add_assoc i k 1]

/-- The terms from the i-th on add up to no more than 2^(p - i + 1). -/
theorem ln2Sum_le (p i k : Nat) (hi : 0 < i) : 2 ^ i * ln2Sum p i k ≤ 2 * 2 ^ p := by
  induction k generalizing i with
  | zero => simp [ln2Sum]
  | succ k ih =>
    have first : 2 ^ i * (2 ^ p / (i * 2 ^ i)) ≤ 2 ^ p := by
      rw [← Nat.div_div_eq_div_mul]
      exact (Nat.mul_div_le _ _).trans (Nat.div_le_self _ _)
    have rest := ih (i + 1) (by omega)
    rw [pow_succ] at rest
    rw [ln2Sum, Nat.mul_add]
    nlinarith

/-- A floor at one precision, and at another that is `c` times finer. -/
theorem mul_div_bounds (c a d : Nat) : c * (a / d) ≤ c * a / d ∧ c * a / d ≤ c * (a / d + 1) := by
  refine ⟨Nat.mul_div_le_mul_div_assoc c a d, ?_⟩
  rcases Nat.eq_zero_or_pos d with rfl | hd
  · simp
  · apply Nat.div_le_of_le_mul
    have := Nat.lt_mul_div_succ a hd
    calc c * a ≤ c * (d * (a / d + 1)) := Nat.mul_le_mul_left c this.le
      _ = d * (c * (a / d + 1)) := Nat.mul_left_comm _ _ _

theorem ln2Sum_double_terms (p i k : Nat) :
    2 ^ p * ln2Sum p i k ≤ ln2Sum (2 * p) i k ∧ ln2Sum (2 * p) i k ≤ 2 ^ p * (ln2Sum p i k + k) := by
  induction k generalizing i with
  | zero => simp [ln2Sum]
  | succ k ih =>
    obtain ⟨lower, upper⟩ := ih (i + 1)
    obtain ⟨l1, u1⟩ := mul_div_bounds (2 ^ p) (2 ^ p) (i * 2 ^ i)
    rw [← pow_add, ← Nat.two_mul] at l1 u1
    rw [ln2Sum, ln2Sum]
    constructor <;> nlinarith

/-- ln 2 at twice the precision. -/
theorem ln2Sum_double (p : Nat) :
    2 ^ p * ln2Sum p 1 p ≤ ln2Sum (2 * p) 1 (2 * p) ∧ ln2Sum (2 * p) 1 (2 * p) ≤ 2 ^ p * (ln2Sum p 1 p + p + 1) := by
  obtain ⟨lower, upper⟩ := ln2Sum_double_terms p 1 p
  have tail : ln2Sum (2 * p) (1 + p) p ≤ 2 ^ p := by
    have h := ln2Sum_le (2 * p) (1 + p) p (by omega)
    rw [pow_add, Nat.two_mul p, pow_add, pow_one, Nat.mul_assoc, ← Nat.two_mul p] at h
    exact Nat.le_of_mul_le_mul_left (Nat.le_of_mul_le_mul_left h two_pos) (Nat.two_pow_pos p)
  have split : ln2Sum (2 * p) 1 (2 * p) = ln2Sum (2 * p) 1 p + ln2Sum (2 * p) (1 + p) p := by
    rw [← ln2Sum_add, ← Nat.two_mul]
  rw [split]
  constructor <;> nlinarith

/-! ## The exponent of e at two precisions -/

/-- `exp2Frac`'s x: ln 2 times f / 2^q, in units of 2^-p. -/
def expArg (p f q : Nat) : Nat := ln2Sum p 1 p * f / 2 ^ q

theorem expArg_le {p f q : Nat} (hf : f < 2 ^ q) : expArg p f q ≤ 2 ^ p := by
  have h := ln2Sum_le p 1 p one_pos
  rw [pow_one] at h
  apply Nat.div_le_of_le_mul
  rw [Nat.mul_comm]
  exact Nat.mul_le_mul hf.le (Nat.le_of_mul_le_mul_left h two_pos)

theorem expArg_double {p f q : Nat} (hf : f < 2 ^ q) :
    2 ^ p * expArg p f q ≤ expArg (2 * p) f q ∧ expArg (2 * p) f q ≤ 2 ^ p * (expArg p f q + (p + 2)) := by
  obtain ⟨lower, upper⟩ := ln2Sum_double p
  constructor
  · calc 2 ^ p * expArg p f q ≤ 2 ^ p * (ln2Sum p 1 p * f) / 2 ^ q := (mul_div_bounds _ _ _).1
      _ ≤ expArg (2 * p) f q := Nat.div_le_div_right (by rw [← Nat.mul_assoc]; exact Nat.mul_le_mul_right f lower)
  · apply Nat.div_le_of_le_mul
    have floor := (Nat.lt_mul_div_succ (ln2Sum p 1 p * f) (Nat.two_pow_pos q)).le
    calc ln2Sum (2 * p) 1 (2 * p) * f ≤ 2 ^ p * (ln2Sum p 1 p + p + 1) * f := Nat.mul_le_mul_right f upper
      _ = 2 ^ p * (ln2Sum p 1 p * f + (p + 1) * f) := by ring
      _ ≤ 2 ^ p * (2 ^ q * (expArg p f q + 1) + (p + 1) * 2 ^ q) :=
        Nat.mul_le_mul_left _ (Nat.add_le_add floor (Nat.mul_le_mul_left _ hf.le))
      _ = 2 ^ q * (2 ^ p * (expArg p f q + (p + 2))) := by ring

/-! ## The terms of e^x -/

/-- The term of e^x that lies `k` terms after `t`. -/
def expTerm (p x t i : Nat) : Nat → Nat
  | 0 => t
  | k + 1 => expTerm p x (t * x / (i * 2 ^ p)) (i + 1) k

theorem expSum_add (p x t i k l : Nat) : expSum p x t i (k + l) = expSum p x t i k + expSum p x (expTerm p x t i k) (i + k) l := by
  induction k generalizing t i with
  | zero => simp [expSum, expTerm]
  | succ k ih =>
    simp only [Nat.succ_add, expSum, expTerm, ih]
    rw [← Nat.add_assoc]
    rfl

/-- Each term is at most the i-th part of the one before it. -/
theorem mul_next_le {p x t i : Nat} (hx : x ≤ 2 ^ p) : i * (t * x / (i * 2 ^ p)) ≤ t := by
  rw [Nat.mul_comm i (2 ^ p), ← Nat.div_div_eq_div_mul]
  refine (Nat.mul_div_le _ _).trans (Nat.div_le_of_le_mul ?_)
  rw [Nat.mul_comm (2 ^ p)]
  exact Nat.mul_le_mul_left t hx

theorem next_le {p x t i : Nat} (hx : x ≤ 2 ^ p) (hi : 0 < i) : t * x / (i * 2 ^ p) ≤ t :=
  (Nat.le_mul_of_pos_left _ hi).trans (mul_next_le hx)

theorem expSum_le {p x : Nat} (hx : x ≤ 2 ^ p) (t i k : Nat) (hi : 2 ≤ i) : expSum p x t i k ≤ t := by
  induction k generalizing t i with
  | zero => exact Nat.zero_le _
  | succ k ih =>
    have next := mul_next_le (t := t) (i := i) hx
    have rest := ih (t * x / (i * 2 ^ p)) (i + 1) (by omega)
    rw [expSum]
    nlinarith

theorem expTerm_le {p x : Nat} (hx : x ≤ 2 ^ p) (t i k : Nat) (hi : 2 ≤ i) : 2 ^ k * expTerm p x t i k ≤ t := by
  induction k generalizing t i with
  | zero => simp [expTerm]
  | succ k ih =>
    have next := mul_next_le (t := t) (i := i) hx
    have rest := ih (t * x / (i * 2 ^ p)) (i + 1) (by omega)
    rw [expTerm, pow_succ]
    nlinarith

/-- One term at two precisions, the coarser being 1 / `c`: an error of `b` grows by the error of x and by one. -/
theorem next_double {c i t x t' x' b d : Nat} (ht : t ≤ c) (hx' : x' ≤ c * c) (htl : c * t ≤ t')
    (htu : t' ≤ c * (t + b)) (hxl : c * x ≤ x') (hxu : x' ≤ c * (x + d)) :
    c * (t * x / (i * c)) ≤ t' * x' / (i * (c * c)) ∧ t' * x' / (i * (c * c)) ≤ c * (t * x / (i * c) + (b + 1 + d)) := by
  rcases Nat.eq_zero_or_pos i with rfl | hi
  · simp
  rcases Nat.eq_zero_or_pos c with rfl | hc
  · simp
  have hic : 0 < i * c := Nat.mul_pos hi hc
  constructor
  · rw [Nat.le_div_iff_mul_le (Nat.mul_pos hi (Nat.mul_pos hc hc))]
    calc c * (t * x / (i * c)) * (i * (c * c)) = c * c * (t * x / (i * c) * (i * c)) := by ring
      _ ≤ c * c * (t * x) := Nat.mul_le_mul_left _ (Nat.div_mul_le_self _ _)
      _ = (c * t) * (c * x) := by ring
      _ ≤ t' * x' := Nat.mul_le_mul htl hxl
  · apply Nat.div_le_of_le_mul
    have floor := (Nat.lt_mul_div_succ (t * x) hic).le
    calc t' * x' ≤ c * (t + b) * x' := Nat.mul_le_mul_right _ htu
      _ = c * (t * x') + c * b * x' := by ring
      _ ≤ c * (t * (c * (x + d))) + c * b * (c * c) := by gcongr
      _ = c * c * (t * x) + c * c * (t * d) + c * c * (c * b) := by ring
      _ ≤ c * c * (i * c * (t * x / (i * c) + 1)) + c * c * (c * d) + c * c * (c * b) := by gcongr
      _ ≤ c * c * (i * c * (t * x / (i * c) + 1)) + i * (c * c * (c * d)) + i * (c * c * (c * b)) := by
        have h1 := Nat.le_mul_of_pos_left (c * c * (c * d)) hi
        have h2 := Nat.le_mul_of_pos_left (c * c * (c * b)) hi
        omega
      _ = i * (c * c) * (c * (t * x / (i * c) + (b + 1 + d))) := by ring

theorem expSum_double_terms {p x x' d : Nat} (hx : x ≤ 2 ^ p) (hx' : x' ≤ 2 ^ (2 * p)) (hxl : 2 ^ p * x ≤ x')
    (hxu : x' ≤ 2 ^ p * (x + d)) (k : Nat) {t t' i b : Nat} (hi : 0 < i) (ht : t ≤ 2 ^ p) (htl : 2 ^ p * t ≤ t')
    (htu : t' ≤ 2 ^ p * (t + b)) :
    2 ^ p * expSum p x t i k ≤ expSum (2 * p) x' t' i k ∧
      expSum (2 * p) x' t' i k ≤ 2 ^ p * (expSum p x t i k + k * (b + k * (1 + d))) := by
  induction k generalizing t t' i b with
  | zero => simp [expSum]
  | succ k ih =>
    have square : 2 ^ (2 * p) = 2 ^ p * 2 ^ p := by rw [Nat.two_mul, pow_add]
    obtain ⟨l1, u1⟩ := next_double (i := i) ht (square ▸ hx') htl htu hxl hxu
    rw [← square] at l1 u1
    obtain ⟨l2, u2⟩ := ih (i := i + 1) (by omega) ((next_le hx hi).trans ht) l1 u1
    rw [expSum, expSum]
    refine ⟨by nlinarith, ?_⟩
    calc _ ≤ 2 ^ p * (t * x / (i * 2 ^ p) + (b + 1 + d)) + _ := Nat.add_le_add u1 u2
      _ = 2 ^ p * (t * x / (i * 2 ^ p) + expSum p x (t * x / (i * 2 ^ p)) (i + 1) k +
          ((b + 1 + d) + k * ((b + 1 + d) + k * (1 + d)))) := by ring
      _ ≤ _ := by
        refine Nat.mul_le_mul_left _ (Nat.add_le_add_left ?_ _)
        nlinarith [Nat.zero_le (k * (1 + d))]

/-- The lower approximation of 2^(f / 2^q) at twice the precision: no less than that at the single one, and not much more. -/
theorem exp2Frac_double {p f q : Nat} (hp : 0 < p) (hf : f < 2 ^ q) :
    2 ^ p * (exp2Frac p f q).1 ≤ (exp2Frac (2 * p) f q).1 ∧
      (exp2Frac (2 * p) f q).1 ≤ 2 ^ p * ((exp2Frac p f q).1 + (p * (p * (p + 3)) + 2)) := by
  obtain ⟨hxl, hxu⟩ := expArg_double (p := p) hf
  have hx := expArg_le (p := p) hf
  have hx' := expArg_le (p := 2 * p) hf
  have square : 2 ^ (2 * p) = 2 ^ p * 2 ^ p := by rw [Nat.two_mul, pow_add]
  obtain ⟨lower, upper⟩ := expSum_double_terms hx hx' hxl hxu p (i := 1) (t := 2 ^ p) (t' := 2 ^ (2 * p)) (b := 0) one_pos le_rfl
    square.ge square.le
  have term : expTerm (2 * p) (expArg (2 * p) f q) (2 ^ (2 * p)) 1 p ≤ 2 * 2 ^ p := by
    obtain ⟨k, rfl⟩ : ∃ k, p = k + 1 := ⟨p - 1, by omega⟩
    have h := (expTerm_le hx' _ 2 k le_rfl).trans (next_le (t := 2 ^ (2 * (k + 1))) hx' one_pos)
    have split : 2 ^ (2 * (k + 1)) = 2 ^ k * (2 * 2 ^ (k + 1)) := by ring
    rw [expTerm]
    exact Nat.le_of_mul_le_mul_left (h.trans split.le) (Nat.two_pow_pos k)
  have tail := (expSum_le hx' (expTerm (2 * p) (expArg (2 * p) f q) (2 ^ (2 * p)) 1 p) (1 + p) p (by omega)).trans term
  have split : expSum (2 * p) (expArg (2 * p) f q) (2 ^ (2 * p)) 1 (2 * p) = _ + _ :=
    (congrArg _ (Nat.two_mul p)).trans (expSum_add (2 * p) (expArg (2 * p) f q) (2 ^ (2 * p)) 1 p p)
  have value (r : Nat) : (exp2Frac r f q).1 = 2 ^ r + expSum r (expArg r f q) (2 ^ r) 1 r := rfl
  rw [value, value, split]
  constructor <;> nlinarith

/-! ## The rounding that ends the search -/

/-- `exp2Round`'s rounding of 2^n × u / 2^p. -/
def roundScaled (t : Ty) (n : Int) (p u : Nat) : Nat × MFlags :=
  roundMag (fmtOf t) .rne 0 false (scaleQ u (2 ^ p) (-n)).1 (scaleQ u (2 ^ p) (-n)).2

theorem exp2Frac_pos (p f q : Nat) : 0 < (exp2Frac p f q).1 := Nat.add_pos_left (Nat.two_pow_pos p) _

theorem roundScaled_value {u p : Nat} (n : Int) :
    ((scaleQ u (2 ^ p) (-n)).1 : Rat) / (scaleQ u (2 ^ p) (-n)).2 = u / 2 ^ p * 2 ^ n := by
  rw [scaleQ_value, zpow_neg, div_inv_eq_mul, Nat.cast_pow, Nat.cast_ofNat]

/-- Two approximations at one precision that round to one code are not both values of the format. -/
theorem inexact_of_code_eq {t : Ty} (ht : t.setF = true) {n : Int} {p u v : Nat} (hu : 0 < u) (huv : u < v)
    (hcode : (roundScaled t n p u).1 = (roundScaled t n p v).1) :
    ((roundScaled t n p u).2 ||| (roundScaled t n p v).2).getLsbD 3 = true := by
  obtain ⟨-, -, hinf⟩ := fitsWidth_fmtOf ht
  obtain ⟨hn, hd⟩ := scaleQ_pos hu (Nat.two_pow_pos p) (-n)
  obtain ⟨hn', hd'⟩ := scaleQ_pos (hu.trans huv) (Nat.two_pow_pos p) (-n)
  by_contra h
  rw [BitVec.getLsbD_or, Bool.not_eq_true, Bool.or_eq_false_iff] at h
  have heq := eq_of_exact_code (fmtOf t) false hinf hn hd hn' hd' h.1 h.2 hcode
  rw [roundScaled_value, roundScaled_value, mul_left_inj' (zpow_ne_zero n two_ne_zero),
    div_left_inj' (pow_ne_zero p two_ne_zero)] at heq
  exact huv.ne (by exact_mod_cast heq)

/-- An approximation that is a value of the format gives its code to every coarser one close to it. -/
theorem code_eq_of_close {t : Ty} (ht : t.setF = true) {n : Int} {p u v k : Nat} (hu : 0 < u) (hv : 2 ^ (2 * p) ≤ v)
    (hlower : v ≤ 2 ^ p * (u + k)) (hupper : 2 ^ p * u ≤ v + 2 ^ p * k) (hk : k * 2 ^ ((fmtOf t).p + 3) ≤ 2 ^ p)
    (hexact : (roundScaled t n (2 * p) v).2.getLsbD 3 = false) : (roundScaled t n p u).1 = (roundScaled t n (2 * p) v).1 := by
  obtain ⟨-, -, hinf⟩ := fitsWidth_fmtOf ht
  obtain ⟨hn, hd⟩ := scaleQ_pos ((Nat.two_pow_pos (2 * p)).trans_le hv) (Nat.two_pow_pos (2 * p)) (-n)
  obtain ⟨hn', hd'⟩ := scaleQ_pos hu (Nat.two_pow_pos p) (-n)
  refine code_eq_of_near (fmtOf t) false hinf hn hd hn' hd' hexact ?_
  rw [roundScaled_value, roundScaled_value]
  have hc : (0 : Rat) < 2 ^ p := pow_pos two_pos p
  have hscale : (0 : Rat) < 2 ^ n := zpow_pos two_pos n
  have square : (2 : Rat) ^ (2 * p) = 2 ^ p * 2 ^ p := by rw [two_mul, pow_add]
  have l : (v : Rat) ≤ 2 ^ p * (u + k) := by exact_mod_cast hlower
  have r : (2 : Rat) ^ p * u ≤ v + 2 ^ p * k := by exact_mod_cast hupper
  have hv' : (2 : Rat) ^ p * 2 ^ p ≤ v := by rw [← square]; exact_mod_cast hv
  have hk' : (k : Rat) * 2 ^ ((fmtOf t).p + 3) ≤ 2 ^ p := by exact_mod_cast hk
  have hdiff : |(2 : Rat) ^ p * u - v| ≤ 2 ^ p * k := by
    rw [abs_le]
    constructor <;> linarith
  have hfactor : (u : Rat) / 2 ^ p * 2 ^ n - v / 2 ^ (2 * p) * 2 ^ n = (2 ^ p * u - v) * (2 ^ n / (2 ^ p * 2 ^ p)) := by
    rw [square]
    field_simp
  have hunit : (0 : Rat) < 2 ^ n / (2 ^ p * 2 ^ p) := by positivity
  rw [hfactor, abs_mul, abs_of_pos hunit, square]
  calc |(2 : Rat) ^ p * u - v| * (2 ^ n / (2 ^ p * 2 ^ p)) * 2 ^ ((fmtOf t).p + 3)
      ≤ 2 ^ p * k * (2 ^ n / (2 ^ p * 2 ^ p)) * 2 ^ ((fmtOf t).p + 3) := by gcongr
    _ = 2 ^ p * (k * 2 ^ ((fmtOf t).p + 3)) * (2 ^ n / (2 ^ p * 2 ^ p)) := by ring
    _ ≤ v * (2 ^ n / (2 ^ p * 2 ^ p)) := by
      refine mul_le_mul_of_nonneg_right (le_trans ?_ hv') hunit.le
      exact mul_le_mul_of_nonneg_left hk' hc.le
    _ = v / (2 ^ p * 2 ^ p) * 2 ^ n := by ring

theorem mantissa_le {t : Ty} (ht : t.setF = true) : (fmtOf t).p ≤ 23 := by
  cases t <;> simp_all [Ty.setF, fmtOf]

/-- Where the ends at precision 512 round to two codes, a boundary lies between them, and the approximation at precision 1024 is too
close to it to be a value of the format. -/
theorem inexact_of_code_ne {t : Ty} (ht : t.setF = true) {n : Int} {p f q : Nat} (hp : p = 512) (hf : f < 2 ^ q)
    (hcode : (roundScaled t n p (exp2Frac p f q).1).1 ≠ (roundScaled t n p (exp2Frac p f q).2).1) :
    (roundScaled t n (2 * p) (exp2Frac (2 * p) f q).1).2.getLsbD 3 = true := by
  by_contra h
  rw [Bool.not_eq_true] at h
  obtain ⟨lower, upper⟩ := exp2Frac_double (p := p) (by omega) hf
  have hv : 2 ^ (2 * p) ≤ (exp2Frac (2 * p) f q).1 := Nat.le_add_right _ _
  have hu := exp2Frac_pos p f q
  have hhi : (exp2Frac p f q).2 = (exp2Frac p f q).1 + 8 * p := rfl
  have hk : (p * (p * (p + 3)) + 2) * 2 ^ ((fmtOf t).p + 3) ≤ 2 ^ p := by
    have hmant := mantissa_le ht
    calc (p * (p * (p + 3)) + 2) * 2 ^ ((fmtOf t).p + 3) ≤ 2 ^ 28 * 2 ^ (23 + 3) := by
          refine Nat.mul_le_mul (by rw [hp]; norm_num) (Nat.pow_le_pow_right two_pos (by omega))
      _ = 2 ^ 54 := by rw [← pow_add]
      _ ≤ 2 ^ p := Nat.pow_le_pow_right two_pos (by omega)
  have h8 : 8 * p ≤ p * (p * (p + 3)) + 2 := by rw [hp]; norm_num
  refine hcode ((code_eq_of_close ht hu hv upper ?_ hk h).trans (code_eq_of_close ht (by omega) hv ?_ ?_ hk h).symm)
  · nlinarith
  · rw [hhi]
    nlinarith
  · rw [hhi]
    nlinarith

/-- The search ends in a rounding that sets NX: at a precision where both ends take one code, one of them is no value of the format;
at the last one the approximation is none. -/
theorem exp2Round_inexact {t : Ty} (ht : t.setF = true) (n : Int) {f q : Nat} (hf0 : f ≠ 0) (hf : f < 2 ^ q) (k p : Nat)
    (hpk : p * 2 ^ k = 1024) (hlast : k = 0 → ∃ r, p = 2 * r ∧
      (roundScaled t n r (exp2Frac r f q).1).1 ≠ (roundScaled t n r (exp2Frac r f q).2).1) :
    (exp2Round t n f q k p).2.getLsbD 3 = true := by
  induction k generalizing p with
  | zero =>
    obtain ⟨r, rfl, hne⟩ := hlast rfl
    exact inexact_of_code_ne ht (by omega) hf hne
  | succ k ih =>
    have hstep : exp2Round t n f q (k + 1) p =
        if (roundScaled t n p (exp2Frac p f q).1).1 = (roundScaled t n p (exp2Frac p f q).2).1 ∧
            ((roundScaled t n p (exp2Frac p f q).1).2 = (roundScaled t n p (exp2Frac p f q).2).2 ∨ f ≠ 0) then
          ((roundScaled t n p (exp2Frac p f q).1).1,
            (roundScaled t n p (exp2Frac p f q).1).2 ||| (roundScaled t n p (exp2Frac p f q).2).2)
        else exp2Round t n f q k (2 * p) := rfl
    have hp : 0 < p := Nat.pos_of_ne_zero fun h => by rw [h, Nat.zero_mul] at hpk; exact absurd hpk (by norm_num)
    rw [hstep]
    split_ifs with h
    · exact inexact_of_code_eq ht (exp2Frac_pos p f q) (Nat.lt_add_of_pos_right (by omega)) h.1
    · refine ih (2 * p) (by rw [← hpk, pow_succ]; ring) fun _ => ⟨p, rfl, fun heq => h ⟨heq, .inr hf0⟩⟩

end Sys2Proof.Machine
end

section
/-!
SUPPORT. The floating vector members (R205 to R208): what each element takes, and the obligation about them.
-/
open Sys2Proof.Claims

namespace Sys2Proof.Machine

/-! ## Element by element (R199) -/

theorem zip_map_range {α β : Type} (n : Nat) (f : Nat → α) (g : Nat → β) :
    ((List.range n).map f).zip ((List.range n).map g) = (List.range n).map fun i => (f i, g i) := by
  rw [List.zip_map']

theorem zipWith_map_range {α β γ : Type} (h : α → β → γ) (n : Nat) (f : Nat → α) (g : Nat → β) :
    List.zipWith h ((List.range n).map f) ((List.range n).map g) = (List.range n).map fun i => h (f i) (g i) := by
  rw [← List.map_uncurry_zip_eq_zipWith, zip_map_range, List.map_map]
  rfl

theorem vec1_result (o : OpVRRR) (l : Nat) (f : Nat → Nat × MFlags) {s : State} (hp : Pred.holds o.p s.cur.st.q = true)
    (hf : ∀ a < 2 ^ o.ty.width, (f a).1 < 2 ^ o.ty.width) :
    ∃ t, vec1 o l f s = .next t ∧ vectorResult s s t o.d l o.ty (srcK s o.k)
      (fun i => (f (elemAt o.ty.width (srcV s o.a).1 i)).1) (fun i => (f (elemAt o.ty.width (srcV s o.a).1 i)).2)
      (freshRes fun i => (f (elemAt o.ty.width (srcV s o.a).1 i)).1) := by
  refine ⟨_, guarded_holds _ hp, ?_⟩
  rw [elems_eq_range, List.map_map, rdV_eq_srcV, rdK_eq_srcK]
  exact vectorResult_vecWrite s o.d l o.ty _ _ fun i _ => hf _ (elemAt_lt _ _ _)

theorem vec2_result (o : OpVRRR) (l : Nat) (f : Nat → Nat → Nat × MFlags) {s : State} (hp : Pred.holds o.p s.cur.st.q = true)
    (hf : ∀ a < 2 ^ o.ty.width, ∀ b < 2 ^ o.ty.width, (f a b).1 < 2 ^ o.ty.width) :
    let c (i : Nat) : Nat × MFlags := f (elemAt o.ty.width (srcV s o.a).1 i) (elemAt o.ty.width (srcV s o.b).1 i)
    ∃ t, vec2 o l f s = .next t ∧ vectorResult s s t o.d l o.ty (srcK s o.k) (fun i => (c i).1) (fun i => (c i).2)
      (freshRes fun i => (c i).1) := by
  refine ⟨_, guarded_holds _ hp, ?_⟩
  rw [elems_eq_range, elems_eq_range, zipWith_map_range, rdV_eq_srcV, rdV_eq_srcV, rdK_eq_srcK]
  exact vectorResult_vecWrite s o.d l o.ty _ _ fun i _ => hf _ (elemAt_lt _ _ _) _ (elemAt_lt _ _ _)

theorem vecWrite_drawn_result {α : Type} (s : State) (d : Dst) (l : Nat) (t : Ty) (rm : Rm) (k : BitVec 256)
    (f : Nat → α → Nat × MFlags) (x : Nat → α) (hf : ∀ w p, (f w p).1 < 2 ^ t.width) :
    let c (i : Nat) : Nat × MFlags := f (wordAt s rm i) (x i)
    let n := 1024 / t.width
    let (rs, s') := s.drawn rm f ((List.range n).map x)
    vectorResult s (afterDraws s rm n) (s'.vecWrite d l t k rs) d l t k (fun i => (c i).1) (fun i => (c i).2)
      (freshRes fun i => (c i).1) := by
  intro c n
  rw [drawn_range]
  exact vectorResult_afterDraws (vectorResult_vecWrite (afterDraws s rm n) d l t k (r := fun i => (c i).1) _ fun i _ => hf _ _)

/-- The floating members of two sources (R205): one rounding of the exact result, one draw for each element. -/
theorem vecFloat_result (o : OpVRRR) (f : XNum → XNum → XNum × MFlags) {s : State} (hp : Pred.holds o.p s.cur.st.q = true)
    (hF : o.ty.setF = true) :
    let c (i : Nat) : Nat × MFlags :=
      round2 o.ty o.rm f (wordAt s o.rm i) (elemAt o.ty.width (srcV s o.a).1 i, elemAt o.ty.width (srcV s o.b).1 i)
    ∃ t, vecFloat o f s = .next t ∧ vectorResult s (afterDraws s o.rm (1024 / o.ty.width)) t o.d 4 o.ty (srcK s o.k)
      (fun i => (c i).1) (fun i => (c i).2) (freshRes fun i => (c i).1) := by
  refine ⟨_, guarded_holds _ hp, ?_⟩
  rw [elems_eq_range, elems_eq_range, zip_map_range, rdV_eq_srcV, rdV_eq_srcV, rdK_eq_srcK]
  exact vecWrite_drawn_result s o.d 4 o.ty o.rm _ (round2 o.ty o.rm f) _ fun w p => roundTo_lt hF _ _ _

/-- The parts of an element of `vfma`: an exact product, an exact sum, one rounding, and the flags of each. -/
theorem fmaElem_parts (t : Ty) (rm : Rm) (neg : Bool) (w a b c : Nat) :
    let x := valueOf t a
    let y := valueOf t b
    let z := valueOf t c
    let p := (if neg then x.1.opp else x.1).mul y.1
    let e := p.1.add rm z.1
    let r := roundTo t rm w e.1
    fmaElem t rm neg w (a, b, c) = (r.1, x.2 ||| y.2 ||| z.2 ||| p.2 ||| e.2 ||| r.2) := by
  intro x y z p e r
  have h : fmaElem t rm neg w (a, b, c) = (r.1, x.2 ||| y.2 ||| z.2 ||| (p.2 ||| e.2) ||| r.2) := rfl
  rw [h, ← BitVec.or_assoc]

theorem vfma_result (o : OpVF) {s : State} (hp : Pred.holds o.p s.cur.st.q = true) (hF : o.ty.setF = true) :
    let c (i : Nat) : Nat × MFlags := fmaElem o.ty o.rm o.neg (wordAt s o.rm i)
      (elemAt o.ty.width (srcV s o.a).1 i, elemAt o.ty.width (srcV s o.b).1 i, elemAt o.ty.width (srcV s o.c).1 i)
    ∃ t, execVfma o s = .next t ∧ vectorResult s (afterDraws s o.rm (1024 / o.ty.width)) t o.d 4 o.ty
      (srcK s (.reg (o.k.setWidth 5))) (fun i => (c i).1) (fun i => (c i).2) (freshRes fun i => (c i).1) := by
  have hk (s' : State) (h : s'.cur = s.cur) : s'.cur.st.getK o.k.toNat = srcK s (.reg (o.k.setWidth 5)) := by
    rw [← rdK_eq_srcK, State.rdK, h, BitVec.toNat_setWidth, Nat.mod_eq_of_lt (by omega)]
  refine ⟨_, guarded_holds _ hp, ?_⟩
  rw [elems_eq_range, elems_eq_range, elems_eq_range, zip_map_range, zip_map_range, rdV_eq_srcV, rdV_eq_srcV, rdV_eq_srcV, hk s rfl]
  exact vecWrite_drawn_result s o.d 4 o.ty o.rm _ (fmaElem o.ty o.rm o.neg) _ fun w p => roundTo_lt hF _ _ _

/-- The residues of a result at a type that carries none (R198). -/
theorem vectorResult_of_untracked {s s1 t : State} {d : Dst} {l : Nat} {ty : Ty} {m : BitVec 256} {r : Nat → Nat} {fl : Nat → MFlags}
    {rr rr' : Nat → Nat} (hty : ¬ (ty = .s32 ∨ ty = .z32)) (h : vectorResult s s1 t d l ty m r fl rr) :
    vectorResult s s1 t d l ty m r fl rr' := by
  simpa only [vectorResult, if_neg hty] using h

theorem untracked_of_setF {t : Ty} (h : t.setF = true) : ¬ (t = .s32 ∨ t = .z32) := by
  rintro (rfl | rfl) <;> exact Bool.false_ne_true h

/-! ## Least and greatest (R206) -/

theorem minMaxF_lt {t : Ty} (ht : t.setF = true) (greater : Bool) {a b : Nat} (ha : a < 2 ^ t.width) (hb : b < 2 ^ t.width) :
    (minMaxF t greater a b).1 < 2 ^ t.width := by
  simp only [minMaxF]
  have := canonNaN_lt ht
  split_ifs <;> assumption

theorem minMaxF_parts (t : Ty) (greater : Bool) (a b : Nat) :
    let nan := (valueOf t a).1 == .nan || (valueOf t b).1 == .nan
    minMaxF t greater a b =
      (if nan then canonNaN t
        else if (valueOf t a).1.below (valueOf t b).1 then (if greater then b else a) else (if greater then a else b),
        if nan then (valueOf t a).2 ||| (valueOf t b).2 else 0) := by
  simp only [minMaxF]
  split_ifs <;> rfl

/-- −0 orders below +0 (R72, R206). -/
theorem negZero_below_zero (e : Int) : XNum.below .negZero (.fin 0 e) = true ∧ XNum.below (.fin 0 e) .negZero = false := by
  simp [XNum.below, XNum.cmp, XNum.cmp.fin, XNum.isZero, XNum.neg]

/-! ## Signs -/

theorem vfneg_elem {w a : Nat} (hw : 0 < w) (ha : a < 2 ^ w) :
    (a + 2 ^ (w - 1)) % 2 ^ w = a % 2 ^ (w - 1) + (1 - a / 2 ^ (w - 1)) * 2 ^ (w - 1) := by
  obtain ⟨v, rfl⟩ : ∃ v, w = v + 1 := ⟨w - 1, by omega⟩
  rw [Nat.add_sub_cancel, pow_succ] at *
  generalize 2 ^ v = h at *
  by_cases hs : a < h
  · rw [Nat.mod_eq_of_lt (by omega), Nat.mod_eq_of_lt hs, Nat.div_eq_of_lt hs]
    omega
  · obtain ⟨b, rfl⟩ : ∃ b, a = h + b := ⟨a - h, by omega⟩
    have hdiv : (h + b) / h = 1 := Nat.div_eq_of_lt_le (by omega) (by omega)
    rw [hdiv, Nat.add_mod_left, Nat.mod_eq_of_lt (by omega : b < h), show h + b + h = b + h * 2 by omega, Nat.add_mod_right,
      Nat.mod_eq_of_lt (by omega)]
    omega

theorem width_pos (t : Ty) : 0 < t.width := by rcases width_cases t with h | h | h | h | h <;> omega

theorem vectorFloatResults : VectorFloatResults := by
  intro s
  refine ⟨fun o hp hF => ⟨?arith, ?extreme, ?abs, ?neg⟩, fun o hp hF => ?fma⟩
  case arith =>
    intro r hr
    simp only [List.mem_cons, List.not_mem_nil, or_false] at hr
    rcases hr with rfl | rfl | rfl <;> exact vecFloat_result o _ hp hF
  case extreme =>
    intro greater
    refine ⟨?_, negZero_below_zero⟩
    have h := vec2_result o 1 (minMaxF o.ty greater) hp fun a ha b hb => minMaxF_lt hF greater ha hb
    simp only [minMaxF_parts] at h
    cases greater <;> exact h
  case abs =>
    obtain ⟨t, ht, h⟩ := vec1_result o 1 (fun a => (a % 2 ^ (o.ty.width - 1), 0)) hp fun a ha => (Nat.mod_le _ _).trans_lt ha
    exact ⟨t, ht, vectorResult_of_untracked (untracked_of_setF hF) h⟩
  case neg =>
    obtain ⟨t, ht, h⟩ := vec1_result o 1 (fun a => ((a + 2 ^ (o.ty.width - 1)) % 2 ^ o.ty.width, 0)) hp
      fun a _ => Nat.mod_lt _ (Nat.two_pow_pos _)
    simp only [vfneg_elem (width_pos o.ty) (elemAt_lt _ _ _)] at h
    exact ⟨t, ht, vectorResult_of_untracked (untracked_of_setF hF) h⟩
  case fma =>
    have h := vfma_result o hp hF
    simp only [fmaElem_parts] at h
    exact h

/-! ## Reciprocal and power of two (R208) -/

theorem valueOf_of_setF {t : Ty} (h : t.setF = true) (code : Nat) :
    valueOf t code = (decodeFloat t code, if isSNaN t code then fNV else 0) := by
  have hint : t.isInt = false := by cases t <;> simp_all [Ty.setF, Ty.isInt]
  simp [valueOf, hint]

theorem exp2Round_lt {t : Ty} (ht : t.setF = true) (n : Int) (f q k p : Nat) : (exp2Round t n f q k p).1 < 2 ^ t.width := by
  obtain ⟨hf, hw, -⟩ := fitsWidth_fmtOf ht
  rw [← hw]
  induction k generalizing p with
  | zero => exact roundMag_lt hf _ _ _ _ _
  | succ k ih =>
    simp only [exp2Round]
    split_ifs
    · exact roundMag_lt hf _ _ _ _ _
    · exact ih _

theorem exp2Elem_lt {t : Ty} (ht : t.setF = true) (code : Nat) : (exp2Elem t code).1 < 2 ^ t.width := by
  simp only [exp2Elem]
  split
  · exact canonNaN_lt ht
  · split_ifs
    · exact Nat.two_pow_pos _
    · exact roundTo_lt ht _ _ _
  · exact roundTo_lt ht _ _ _
  · split_ifs
    all_goals first | exact roundTo_lt ht _ _ _ | exact exp2Round_lt ht _ _ _ _ _

theorem rcpElem_lt {t : Ty} (ht : t.setF = true) (code : Nat) : (rcpElem t code).1 < 2 ^ t.width := by
  obtain ⟨hf, hw, -⟩ := fitsWidth_fmtOf ht
  simp only [rcpElem]
  split
  · exact canonNaN_lt ht
  · exact roundTo_lt ht _ _ _
  · split
    · exact roundTo_lt ht _ _ _
    · split
      · rw [← hw]
        exact roundMag_lt hf _ _ _ _ _
      · exact Nat.two_pow_pos _

theorem ratOf_eq (m e : Int) : ratOf m e = (decide (m < 0), m.natAbs * 2 ^ e.toNat, 2 ^ (-e).toNat) := by
  unfold ratOf
  split_ifs with h
  · rw [show (-e).toNat = 0 by omega, pow_zero]
  · rw [show e.toNat = 0 by omega, pow_zero, Nat.mul_one]

section
variable {t : Ty} (ht : t.setF = true) {code : Nat}
include ht

theorem exp2Elem_of_nan (h : decodeFloat t code = .nan) : (exp2Elem t code).1 = canonNaN t := by
  simp [exp2Elem, valueOf_of_setF ht, h]

theorem rcpElem_of_nan (h : decodeFloat t code = .nan) : (rcpElem t code).1 = canonNaN t := by
  simp [rcpElem, valueOf_of_setF ht, h]

theorem exp2Elem_of_inf {neg : Bool} (h : decodeFloat t code = .inf neg) :
    exp2Elem t code = if neg then (0, 0) else roundTo t .rne 0 (.inf false) := by
  simp [exp2Elem, valueOf_of_setF ht, h]

theorem rcpElem_of_inf {neg : Bool} (h : decodeFloat t code = .inf neg) : rcpElem t code = roundTo t .rne 0 (.zero neg) := by
  simp [rcpElem, valueOf_of_setF ht, h]

/-- The power of two of a zero is one, and its reciprocal an infinity. -/
theorem exp2Elem_of_zero (h : (decodeFloat t code).isZero = true) : exp2Elem t code = roundTo t .rne 0 (.fin 1 0) := by
  simp only [exp2Elem, valueOf_of_setF ht]
  cases hx : decodeFloat t code with
  | fin m e =>
    obtain rfl : m = 0 := by simpa [hx, XNum.isZero] using h
    simp
  | negZero => rfl
  | inf neg => simp [hx, XNum.isZero] at h
  | nan => simp [hx, XNum.isZero] at h

theorem rcpElem_of_zero (h : (decodeFloat t code).isZero = true) :
    rcpElem t code = ((roundTo t .rne 0 (.inf (decodeFloat t code).neg)).1, fOF) := by
  simp only [rcpElem, valueOf_of_setF ht]
  cases hx : decodeFloat t code with
  | fin m e => rw [hx] at h; simp [h]
  | negZero => rfl
  | inf neg => simp [hx, XNum.isZero] at h
  | nan => simp [hx, XNum.isZero] at h

theorem rcpElem_of_fin {m e : Int} (h : decodeFloat t code = .fin m e) (hm : m ≠ 0) :
    rcpElem t code = roundMag (fmtOf t) .rne 0 (decide (m < 0)) (2 ^ (-e).toNat) (m.natAbs * 2 ^ e.toNat) := by
  simp [rcpElem, valueOf_of_setF ht, h, XNum.isZero, hm, ratOf_eq]

/-- An element's integer part and what lies beyond it, in units of 2^-(−e): the floor, and a fraction that is no less than 0 and is 0
only where the element is an integer. -/
theorem exp2Elem_of_fin {m e : Int} (h : decodeFloat t code = .fin m e) :
    let whole := m * ((2 ^ e.toNat : Nat) : Int)
    let q : Nat := 2 ^ (-e).toNat
    let n := max (-1100) (min 1100 (whole / q))
    exp2Elem t code = if (whole % q).toNat = 0 then roundTo t .rne 0 (.fin 1 n)
      else exp2Round t n (whole % q).toNat (-e).toNat 4 64 := by
  intro whole q n
  have hfloor : whole.fdiv q = whole / q := Int.fdiv_eq_ediv_of_nonneg _ (Int.natCast_nonneg q)
  have hrest : whole - whole / q * q = whole % q := by rw [Int.emod_def, Int.mul_comm]
  have hclamp : (if whole / q < -1100 then -1100 else if 1100 < whole / q then 1100 else whole / q) = n := by
    simp only [n]
    split_ifs <;> omega
  simp only [exp2Elem, valueOf_of_setF ht, h]
  rw [show m * ((2 ^ e.toNat : Nat) : Int) = whole from rfl, show ((2 ^ (-e).toNat : Nat) : Int) = (q : Int) from rfl, hfloor,
    hrest, hclamp]

theorem exp2Elem_of_integer {m e : Int} (h : decodeFloat t code = .fin m e) :
    let p : Nat := m.natAbs * 2 ^ e.toNat
    let q : Nat := 2 ^ (-e).toNat
    p % q = 0 → p / q ≤ 1000 →
      exp2Elem t code = roundTo t .rne 0 (.fin 1 (if m < 0 then -(p / q : Nat) else (p / q : Nat))) := by
  intro p q hpq hle
  obtain ⟨k, hk⟩ := Nat.dvd_of_mod_eq_zero hpq
  have hq : 0 < q := Nat.two_pow_pos _
  have hdiv : p / q = k := by rw [hk, Nat.mul_div_cancel_left _ hq]
  have hwhole : m * ((2 ^ e.toNat : Nat) : Int) = (q : Int) * (if m < 0 then -(k : Int) else k) := by
    have hp : ((m.natAbs : Int) * (2 ^ e.toNat : Nat)) = q * k := by exact_mod_cast hk
    split_ifs with hm
    · rw [show (m.natAbs : Int) = -m by omega] at hp
      linarith
    · rw [show (m.natAbs : Int) = m by omega] at hp
      exact hp
  have hq' : (q : Int) ≠ 0 := by exact_mod_cast hq.ne'
  have hmain := exp2Elem_of_fin ht h
  simp only [show 2 ^ (-e).toNat = q from rfl, hwhole, Int.mul_emod_right, Int.mul_ediv_cancel_left _ hq', Int.toNat_zero,
    if_true] at hmain
  rw [hmain, hdiv]
  congr 2
  rw [hdiv] at hle
  split_ifs <;> omega

theorem exp2Elem_inexact {m e : Int} (h : decodeFloat t code = .fin m e)
    (hpq : m.natAbs * 2 ^ e.toNat % 2 ^ (-e).toNat ≠ 0) : (exp2Elem t code).2.getLsbD 3 = true := by
  have hq : (0 : Int) < ((2 ^ (-e).toNat : Nat) : Int) := by exact_mod_cast Nat.two_pow_pos _
  have hmain := exp2Elem_of_fin ht h
  have hnonneg := Int.emod_nonneg (m * ((2 ^ e.toNat : Nat) : Int)) hq.ne'
  have hlt := Int.emod_lt_of_pos (m * ((2 ^ e.toNat : Nat) : Int)) hq
  have hne : (m * ((2 ^ e.toNat : Nat) : Int) % ((2 ^ (-e).toNat : Nat) : Int)).toNat ≠ 0 := by
    intro hz
    have hdvd := Int.natAbs_dvd_natAbs.2 (Int.dvd_of_emod_eq_zero (by omega :
      m * ((2 ^ e.toNat : Nat) : Int) % ((2 ^ (-e).toNat : Nat) : Int) = 0))
    rw [Int.natAbs_mul, Int.natAbs_natCast, Int.natAbs_natCast] at hdvd
    exact hpq (Nat.mod_eq_zero_of_dvd hdvd)
  rw [hmain, if_neg hne]
  exact exp2Round_inexact ht _ hne (by omega) 4 64 (by norm_num) fun h => absurd h (by norm_num)

end

theorem vectorReciprocalAndPower : VectorReciprocalAndPower := by
  refine ⟨fun s o hp hF => ?result, fun ty hty code => ?value⟩
  case result =>
    intro a r hr
    simp only [List.mem_cons, List.not_mem_nil, or_false] at hr
    rcases hr with rfl | rfl
    · exact vec1_result o 8 (exp2Elem o.ty) hp fun a _ => exp2Elem_lt hF a
    · exact vec1_result o 8 (rcpElem o.ty) hp fun a _ => rcpElem_lt hF a
  case value =>
    have ht : ty.setF = true := by
      simp only [List.mem_cons, List.not_mem_nil, or_false] at hty
      rcases hty with rfl | rfl | rfl <;> rfl
    exact ⟨fun h => ⟨exp2Elem_of_nan ht h, rcpElem_of_nan ht h⟩, fun h => exp2Elem_of_inf ht h, fun h => exp2Elem_of_inf ht h,
      fun _ h => rcpElem_of_inf ht h, fun h => ⟨exp2Elem_of_zero ht h, rcpElem_of_zero ht h⟩,
      fun _ _ h hm => ⟨rcpElem_of_fin ht h hm, exp2Elem_of_integer ht h, exp2Elem_inexact ht h⟩⟩

/-- Settles O21: every member is a masked write of what its elements take, in the order of their draws; and the search of `vexp2`
ends in an inexact rounding, because its last approximation lies next to a boundary between two codes. -/
theorem vectorFloat : Obligations.VectorFloat := ⟨vectorFloatResults, vectorReciprocalAndPower⟩

end Sys2Proof.Machine
end

section
/-!
SUPPORT. The reductions (R72, R73, R216): the order of the values of a floating type, the pairwise tree, and the obligation about them.
-/
open Sys2Proof.Claims

namespace Sys2Proof.Machine

/-! ## Integers of a type (R46, R63) -/

theorem narrow_eq_pat (w : Nat) (x : Int) : narrow w x = pat w x := by
  rw [narrow, pat, Nat.cast_pow, Nat.cast_ofNat]

theorem pat_lt (w : Nat) (x : Int) : pat w x < 2 ^ w := by
  have h := Int.emod_lt_of_pos x (by positivity : (0 : Int) < 2 ^ w)
  have h' : ((pat w x : Nat) : Int) < ((2 ^ w : Nat) : Int) := by
    rw [pat, Int.toNat_of_nonneg (Int.emod_nonneg _ (by positivity))]
    exact_mod_cast h
  exact_mod_cast h'

theorem intOf_eq_intAt {t : Ty} {x : Nat} (hx : x < 2 ^ t.width) : intOf t x = intAt t x := by
  obtain ⟨w, hw⟩ : ∃ w, t.width = w + 1 := ⟨t.width - 1, by have := width_pos t; omega⟩
  have hmod := Nat.mod_eq_of_lt hx
  have hcast : ((2 ^ t.width : Nat) : Int) = 2 ^ t.width := by norm_cast
  simp only [intOf, intAt, sextN, hmod, hcast]
  cases t.isSigned
  · rfl
  · rw [hw, Nat.add_sub_cancel, Nat.pow_succ]
    simp only [true_and, if_true]
    split_ifs <;> first | rfl | omega

/-- The ends of a type's range, as `heldTo` names them. -/
theorem tyLo_eq (t : Ty) : tyLo t = if t.isSigned then -(2 ^ (t.width - 1)) else 0 := by
  simp [tyLo]
theorem tyHi_eq (t : Ty) : tyHi t = if t.isSigned then 2 ^ (t.width - 1) - 1 else 2 ^ t.width - 1 := by
  simp [tyHi]

theorem tyLo_le_tyHi (t : Ty) : tyLo t ≤ tyHi t := by
  rw [tyLo_eq, tyHi_eq]
  have h1 : (1 : Int) ≤ 2 ^ (t.width - 1) := one_le_pow₀ one_le_two
  have h2 : (1 : Int) ≤ 2 ^ t.width := one_le_pow₀ one_le_two
  split_ifs <;> linarith

theorem clamp_eq_heldTo (t : Ty) (x : Int) : clamp (tyLo t) (tyHi t) x = heldTo t x := by
  have h := tyLo_le_tyHi t
  have held : heldTo t x = (max (tyLo t) (min (tyHi t) x), decide (x < tyLo t) || decide (tyHi t < x)) := by
    rw [heldTo, tyLo_eq, tyHi_eq]
  rw [held, clamp]
  split_ifs with h1 h2
  · simp [h1, (min_le_right (tyHi t) x).trans h1.le]
  · simp [h2, h2.le, h]
  · simp [not_lt.1 h1, not_lt.1 h2]

theorem clampTo_eq (t : Ty) (x : Int) : clampTo t x = (pat t.width (heldTo t x).1, if (heldTo t x).2 then fSAT else 0) := by
  simp only [clampTo, clamp_eq_heldTo, narrow_eq_pat]

/-- An element of a type lies in its range. -/
theorem intAt_range {t : Ty} {x : Nat} (hx : x < 2 ^ t.width) : tyLo t ≤ intAt t x ∧ intAt t x ≤ tyHi t := by
  obtain ⟨w, hw⟩ : ∃ w, t.width = w + 1 := ⟨t.width - 1, by have := width_pos t; omega⟩
  have hx' : (x : Int) < 2 ^ t.width := by exact_mod_cast hx
  have hcast : ((2 ^ w : Nat) : Int) = 2 ^ w := by norm_cast
  rw [tyLo_eq, tyHi_eq, intAt]
  rw [hw] at hx' ⊢
  rw [Nat.add_sub_cancel, pow_succ] at *
  cases t.isSigned
  · simp only [Bool.false_eq_true, false_and, if_false]
    constructor <;> omega
  · simp only [true_and, if_true]
    split_ifs <;> constructor <;> omega

/-! ## Active lanes -/

theorem zipIdx_map_range {α : Type} (n : Nat) (f : Nat → α) :
    ((List.range n).map f).zipIdx = (List.range n).map fun i => (f i, i) := by
  apply List.ext_getElem <;> simp

theorem activeLanes_range (m : BitVec 256) (n : Nat) (a : Nat → Nat) :
    activeLanes m ((List.range n).map a) = ((List.range n).filter fun i => m.getLsbD i).map a := by
  rw [activeLanes, zipIdx_map_range, List.filter_map, List.map_map]
  rfl

/-! ## The residues of a reduction's result (assumption 18) -/

theorem foldr_lanes (n : Nat) (g : Nat → Nat) (hg : ∀ j, g j < 16) :
    (List.range n).foldr (fun j acc => acc + g j * 16 ^ j) 0 = ofLanes 4 ((List.range n).map g) := by
  have sums (l : List Nat) : l.foldr (fun j acc => acc + g j * 16 ^ j) 0 = (l.map fun j => g j * 16 ^ j).sum := by
    induction l with
    | nil => rfl
    | cons a l ih => rw [List.foldr_cons, ih, List.map_cons, List.sum_cons, Nat.add_comm]
  rw [sums]
  clear sums
  induction n generalizing g with
  | zero => rfl
  | succ n ih =>
    have rest := ih (fun j => g (j + 1)) fun j => hg _
    rw [List.range_succ_eq_map, List.map_cons, List.map_cons, List.sum_cons, List.map_map, List.map_map, ofLanes,
      Nat.mod_eq_of_lt (show g 0 < 2 ^ 4 from hg 0), pow_zero, Nat.mul_one]
    congr 1
    rw [show (g ∘ Nat.succ) = fun j => g (j + 1) from rfl, ← rest, ← List.sum_map_mul_left]
    congr 2
    funext j
    simp only [Function.comp, Nat.succ_eq_add_one, pow_succ]
    ring

theorem laneResid_eq_ofLanes (v : Nat) :
    laneResid v = BitVec.ofNat 128 (ofLanes 4 ((List.range 32).map fun j => laneN 32 v j % 15)) := by
  rw [laneResid, foldr_lanes _ _ fun j => by omega]

theorem ofLanes_of_zeros (w n : Nat) : ofLanes w ((List.range n).map fun _ => 0) = 0 := by
  rw [List.map_const']
  generalize (List.range n).length = k
  induction k with
  | zero => rfl
  | succ k ih => rw [List.replicate_succ, ofLanes, ih, Nat.zero_mod, Nat.mul_zero]

theorem laneResid_of_lt {v : Nat} (h : v < 2 ^ 32) : laneResid v = BitVec.ofNat 128 (v % 15) := by
  have above (j : Nat) : laneN 32 v (j + 1) % 15 = 0 := by
    rw [laneN_succ, Nat.div_eq_of_lt h]
    simp [laneN]
  rw [laneResid_eq_ofLanes, List.range_succ_eq_map, List.map_cons, List.map_map, ofLanes]
  simp only [Function.comp_def, Nat.succ_eq_add_one, above, ofLanes_of_zeros, laneN_zero]
  congr 1
  omega

/-- A reduction's result in the terms of the statements. -/
theorem reduced_eq (s : State) (d : Dst) (l : Nat) (t : Ty) (x : Nat) (f : MFlags) :
    s.reduced d l t x f =
      (s.entering [vEntry s d l (BitVec.ofNat 1024 (x % 2 ^ t.width)) (reducedRes t (x % 2 ^ t.width))]).flagging f := by
  have hres : (if tracked t then laneResid (x % 2 ^ 32) else untracked) = reducedRes t (x % 2 ^ t.width) := by
    simp only [reducedRes, tracked_iff]
    split_ifs with ht
    · have hw : t.width = 32 := by rcases ht with rfl | rfl <;> rfl
      rw [hw, Nat.mod_mod]
      exact laneResid_of_lt (Nat.mod_lt _ (by norm_num))
    · rfl
  rw [State.reduced, hres]
  rfl

theorem reducedRes_of_setF {t : Ty} (h : t.setF = true) (x : Nat) : reducedRes t x = BitVec.allOnes 128 :=
  if_neg (untracked_of_setF h)

/-! ## A fold that keeps one of two -/

/-- A fold that always keeps the better of two ends at one of its elements, and at none that another betters. -/
theorem foldl_keeps {α : Type} (P : α → Prop) (le : α → α → Prop) (f : α → α → α) (hrefl : ∀ a, le a a)
    (htrans : ∀ a b c, le a b → le b c → le a c) (hpick : ∀ a b, f a b = a ∨ f a b = b)
    (hle : ∀ a b, P a → P b → le a (f a b) ∧ le b (f a b)) (l : List α) (a : α) (ha : P a) (hl : ∀ x ∈ l, P x) :
    (l.foldl f a = a ∨ l.foldl f a ∈ l) ∧ le a (l.foldl f a) ∧ ∀ x ∈ l, le x (l.foldl f a) := by
  induction l generalizing a with
  | nil => simp [hrefl]
  | cons b l ih =>
    have hb := hl b (by simp)
    have hf : P (f a b) := by rcases hpick a b with h | h <;> rwa [h]
    obtain ⟨hmem, hfirst, hrest⟩ := ih (f a b) hf fun x hx => hl x (by simp [hx])
    obtain ⟨h1, h2⟩ := hle a b ha hb
    rw [List.foldl_cons]
    refine ⟨?_, htrans _ _ _ h1 hfirst, ?_⟩
    · rcases hmem with h | h
      · rw [h, List.mem_cons]
        exact (hpick a b).imp_right .inl
      · exact .inr (List.mem_cons_of_mem _ h)
    · intro x hx
      rcases List.mem_cons.1 hx with rfl | hx
      · exact htrans _ _ _ h2 hfirst
      · exact hrest x hx

/-! ## The order of values (R72) -/

theorem ratOfNum_fin (m e : Int) : ratOfNum (.fin m e) = m * 2 ^ e := rfl

/-- A dyadic number scaled to a lower exponent. -/
theorem scaled_mul {m e b : Int} (h : b ≤ e) : ((m * ((2 ^ (e - b).toNat : Nat) : Int) : Int) : Rat) * 2 ^ b = m * 2 ^ e := by
  rw [Int.cast_mul, Int.cast_natCast, two_pow_toNat (by omega), mul_assoc, ← zpow_add₀ two_ne_zero, Int.sub_add_cancel]

theorem scaled_lt_iff (m e m' e' : Int) :
    m * ((2 ^ (e - min e e').toNat : Nat) : Int) < m' * ((2 ^ (e' - min e e').toNat : Nat) : Int) ↔
      (m : Rat) * 2 ^ e < m' * 2 ^ e' := by
  rw [← scaled_mul (min_le_left e e'), ← scaled_mul (min_le_right e e'), mul_lt_mul_iff_left₀ (zpow_pos two_pos _), Int.cast_lt]

theorem scaled_eq_iff (m e m' e' : Int) :
    m * ((2 ^ (e - min e e').toNat : Nat) : Int) = m' * ((2 ^ (e' - min e e').toNat : Nat) : Int) ↔
      (m : Rat) * 2 ^ e = m' * 2 ^ e' := by
  rw [← scaled_mul (min_le_left e e'), ← scaled_mul (min_le_right e e'), mul_left_inj' (zpow_ne_zero _ two_ne_zero), Int.cast_inj]

/-- A number that is neither an infinity nor a NaN. -/
def isFinite : XNum → Prop
  | .fin _ _ | .negZero => True
  | .inf _ | .nan => False

theorem ratOfNum_parts {x : XNum} (hx : isFinite x) : ratOfNum x = ((XNum.cmp.fin x).1 : Rat) * 2 ^ (XNum.cmp.fin x).2 := by
  cases x <;> simp_all [isFinite, ratOfNum, XNum.cmp.fin]

theorem cmp_of_finite {x y : XNum} (hx : isFinite x) (hy : isFinite y) :
    XNum.cmp x y = some (if ratOfNum x < ratOfNum y then .lt else if ratOfNum x = ratOfNum y then .eq else .gt) := by
  rw [ratOfNum_parts hx, ratOfNum_parts hy, ← if_congr (scaled_lt_iff _ _ _ _) rfl (if_congr (scaled_eq_iff _ _ _ _) rfl rfl)]
  cases x <;> cases y <;> first | rfl | exact hx.elim | exact hy.elim

/-- A value's place on the line, an infinity being an end of it. -/
noncomputable def placeOf (x : XNum) : EReal :=
  if x = .inf true then ⊥ else if x = .inf false then ⊤ else ((ratOfNum x : Real) : EReal)

/-- −0 comes before +0, which has the same place. -/
def signRank (x : XNum) : Nat := if x = .negZero then 0 else 1

theorem placeOf_finite {x : XNum} (hx : isFinite x) : placeOf x = ((ratOfNum x : Real) : EReal) := by
  cases x <;> simp_all [isFinite, placeOf]

/-- What kinds of numbers there are but NaN. -/
theorem kind_of_ne_nan {x : XNum} (hx : x ≠ .nan) : x = .inf true ∨ x = .inf false ∨ isFinite x := by
  cases x with
  | inf neg => cases neg <;> simp
  | nan => exact absurd rfl hx
  | fin m e => exact .inr (.inr trivial)
  | negZero => exact .inr (.inr trivial)

theorem cmp_place {x y : XNum} (hx : x ≠ .nan) (hy : y ≠ .nan) :
    (XNum.cmp x y = some .lt ↔ placeOf x < placeOf y) ∧ (XNum.cmp x y = some .eq ↔ placeOf x = placeOf y) := by
  have bot : placeOf (.inf true) = ⊥ := rfl
  have top : placeOf (.inf false) = ⊤ := rfl
  have inf_fin {n : Bool} {z : XNum} (hz : isFinite z) : XNum.cmp (.inf n) z = some (if n then .lt else .gt) ∧
      XNum.cmp z (.inf n) = some (if n then .gt else .lt) := by
    cases z <;> first | exact ⟨rfl, rfl⟩ | exact hz.elim
  rcases kind_of_ne_nan hx with rfl | rfl | hx <;> rcases kind_of_ne_nan hy with rfl | rfl | hy
  case inr.inr.inr.inr =>
    rw [cmp_of_finite hx hy, placeOf_finite hx, placeOf_finite hy, EReal.coe_lt_coe_iff, EReal.coe_eq_coe_iff, Rat.cast_lt,
      Rat.cast_inj]
    rcases lt_trichotomy (ratOfNum x) (ratOfNum y) with h | h | h
    · simp [h, h.ne]
    · simp [h]
    · simp [h.not_gt, h.ne']
  case inl.inr.inr => simp [(inf_fin hy).1, bot, placeOf_finite hy]
  case inr.inl.inr.inr => simp [(inf_fin hy).1, top, placeOf_finite hy]
  case inr.inr.inl => simp [(inf_fin hx).2, bot, placeOf_finite hx]
  case inr.inr.inr.inl => simp [(inf_fin hx).2, top, placeOf_finite hx]
  all_goals simp [XNum.cmp, bot, top]

/-- The order of values but NaN: by place, and then −0 before +0. -/
noncomputable def orderKey (x : XNum) : EReal ×ₗ Nat := toLex (placeOf x, signRank x)

theorem minusZero_iff (x : XNum) : (x.isZero && x.neg) = true ↔ x = .negZero := by
  cases x with
  | fin m e =>
    simp only [XNum.isZero, XNum.neg, Bool.and_eq_true, beq_iff_eq, decide_eq_true_eq, reduceCtorEq, iff_false, not_and]
    omega
  | negZero => simp [XNum.isZero, XNum.neg]
  | inf n => simp [XNum.isZero]
  | nan => simp [XNum.isZero]

/-- Of the values equal to zero only −0 is negative. -/
theorem neg_of_cmp_negZero {y : XNum} (h : XNum.cmp .negZero y = some .eq) : y.neg = false ↔ y ≠ .negZero := by
  cases y with
  | fin m e =>
    have hy : isFinite (.fin m e) := trivial
    rw [cmp_of_finite (x := .negZero) trivial hy] at h
    have hzero : (0 : Rat) = m * 2 ^ e := by
      by_contra hne
      have hlt : ¬ ratOfNum .negZero = ratOfNum (.fin m e) := hne
      rw [if_neg hlt] at h
      split_ifs at h
      all_goals cases h
    obtain rfl : m = 0 := by simpa [zpow_ne_zero] using hzero.symm
    simp [XNum.neg]
  | negZero => simp [XNum.neg]
  | inf n => cases n <;> simp [XNum.cmp] at h
  | nan => simp [XNum.cmp] at h

theorem below_iff {x y : XNum} (hx : x ≠ .nan) (hy : y ≠ .nan) : x.below y = true ↔ orderKey x < orderKey y := by
  obtain ⟨hlt, heq⟩ := cmp_place hx hy
  rw [orderKey, orderKey, Prod.Lex.toLex_lt_toLex, ← hlt, ← heq]
  have hrank (h : XNum.cmp x y = some .eq) : (x.isZero && x.neg && !y.neg) = true ↔ signRank x < signRank y := by
    rw [Bool.and_eq_true, minusZero_iff, Bool.not_eq_true']
    constructor
    · rintro ⟨rfl, hneg⟩
      simp [signRank, (neg_of_cmp_negZero h).1 hneg]
    · intro hs
      have hx0 : x = .negZero := by
        by_contra hx0
        simp only [signRank, hx0, if_false] at hs
        split_ifs at hs <;> omega
      subst hx0
      refine ⟨rfl, (neg_of_cmp_negZero h).2 fun hy0 => ?_⟩
      simp [hy0] at hs
  rw [XNum.below]
  cases h : XNum.cmp x y with
  | none => simp
  | some c => cases c <;> simp [hrank, h]

theorem not_below_iff {x y : XNum} (hx : x ≠ .nan) (hy : y ≠ .nan) : x.below y = false ↔ orderKey y ≤ orderKey x := by
  rw [← not_lt, ← below_iff hx hy, Bool.not_eq_true]

/-! ## The greatest or least floating lane (R72) -/

/-- What a reduction to the greatest or least keeps of two codes. -/
def keepF (t : Ty) (greater : Bool) (a b : Nat) : Nat :=
  if (if greater then (decodeFloat t a).below (decodeFloat t b) else (decodeFloat t b).below (decodeFloat t a)) then b else a

/-- `b` is no worse than `a`. -/
def noWorse (t : Ty) (greater : Bool) (a b : Nat) : Prop :=
  if greater then orderKey (decodeFloat t a) ≤ orderKey (decodeFloat t b) else orderKey (decodeFloat t b) ≤ orderKey (decodeFloat t a)

theorem keepF_noWorse {t : Ty} {greater : Bool} {a b : Nat} (ha : decodeFloat t a ≠ .nan) (hb : decodeFloat t b ≠ .nan) :
    noWorse t greater a (keepF t greater a b) ∧ noWorse t greater b (keepF t greater a b) := by
  cases greater
  · simp only [noWorse, keepF, Bool.false_eq_true, if_false]
    split_ifs with h
    · exact ⟨((below_iff hb ha).1 h).le, le_rfl⟩
    · exact ⟨le_rfl, (not_below_iff hb ha).1 (by simpa using h)⟩
  · simp only [noWorse, keepF, if_true]
    split_ifs with h
    · exact ⟨((below_iff ha hb).1 h).le, le_rfl⟩
    · exact ⟨le_rfl, (not_below_iff ha hb).1 (by simpa using h)⟩

theorem foldF_eq (t : Ty) (greater : Bool) (xs : List Nat) :
    foldF t greater xs = (if xs.any fun x => decodeFloat t x == .nan then canonNaN t
      else xs.foldl (keepF t greater) (roundTo t .rne 0 (.inf greater)).1, orFlags (xs.map fun x => (valueOf t x).2)) := by
  rw [foldF]
  by_cases h : (xs.any fun x => decodeFloat t x == .nan) = true
  · rw [if_pos h, if_pos h]
  · rw [if_neg h, if_neg h]
    rfl

/-- The value that a reduction starts from. -/
theorem decode_start {t : Ty} (h : t.setF = true) (greater : Bool) :
    decodeFloat t (roundTo t .rne 0 (.inf greater)).1 = .inf greater := by
  cases t <;> first | exact absurd h Bool.false_ne_true | cases greater <;> rfl

theorem foldl_keepF {t : Ty} (ht : t.setF = true) (greater : Bool) {xs : List Nat} (hxs : ∀ x ∈ xs, decodeFloat t x ≠ .nan) :
    let c := xs.foldl (keepF t greater) (roundTo t .rne 0 (.inf greater)).1
    (c = (roundTo t .rne 0 (.inf greater)).1 ∨ c ∈ xs) ∧ ∀ x ∈ xs,
      (if greater then (decodeFloat t c).below (decodeFloat t x) else (decodeFloat t x).below (decodeFloat t c)) = false := by
  intro c
  have hstart : decodeFloat t (roundTo t .rne 0 (.inf greater)).1 ≠ .nan := by simp [decode_start ht]
  obtain ⟨hmem, -, hrest⟩ := foldl_keeps (fun a => decodeFloat t a ≠ .nan) (noWorse t greater) (keepF t greater)
    (fun a => by cases greater <;> exact le_rfl)
    (fun a b c h1 h2 => by cases greater <;> [exact le_trans h2 h1; exact le_trans h1 h2])
    (fun a b => by unfold keepF; split_ifs <;> simp)
    (fun a b ha hb => keepF_noWorse ha hb) xs _ hstart hxs
  have hc : decodeFloat t c ≠ .nan := by
    rcases hmem with h | h
    · rw [show c = _ from h]
      exact hstart
    · exact hxs _ h
  refine ⟨hmem, fun x hx => ?_⟩
  have h := hrest x hx
  cases greater
  · exact (not_below_iff (hxs x hx) hc).2 h
  · exact (not_below_iff hc (hxs x hx)).2 h

/-! ## The pairwise tree (R72) -/

/-- One level of the tree: its nodes, the flags that they set, and one draw for each. -/
theorem treeLevel_range (t : Ty) (rm : Rm) (k : Nat) (x : Nat → Nat) (G : Word) :
    let c (i : Nat) : Nat × MFlags := round2 t rm (XNum.add rm) (drawWord rm G i) (x (2 * i), x (2 * i + 1))
    treeLevel t rm ((List.range (2 * k)).map x) G =
      ((List.range k).map fun i => (c i).1, orFlags ((List.range k).map fun i => (c i).2), drawGen rm G k) := by
  induction k generalizing x G with
  | zero => simp [treeLevel, drawGen, genAfter, orFlags]
  | succ k ih =>
    intro c
    have hpair : (List.range (2 * (k + 1))).map x = x 0 :: x 1 :: (List.range (2 * k)).map fun i => x (i + 2) := by
      rw [show 2 * (k + 1) = 2 * k + 1 + 1 from rfl, List.range_succ_eq_map, List.range_succ_eq_map]
      simp [Function.comp_def]
    have rest := ih (fun i => x (i + 2)) (drawGen rm G 1)
    simp only [drawWord_add, drawGen_add, Nat.add_comm 1] at rest
    rw [hpair, treeLevel]
    simp only [drawOnce_eq, rest, List.range_succ_eq_map, List.map_cons, List.map_map, orFlags]
    rfl

theorem treeSum_succ (t : Ty) (rm : Rm) (k : Nat) (l : List Nat) (G : Word) :
    let level := treeLevel t rm l G
    let above := treeSum t rm k level.1 level.2.2
    treeSum t rm (k + 1) l G = (above.1, level.2.1 ||| above.2.1, above.2.2) := rfl

/-- The tree over 2^(j+k) leaves from level `j` up. -/
theorem treeSum_from (s : State) (t : Ty) (rm : Rm) (leaf : Nat → Nat) (k j : Nat) :
    let n := 2 ^ (j + k)
    let node := treeAt s t rm n leaf
    ∃ f, treeSum t rm k ((List.range (2 ^ k)).map fun i => (node j i).1) (drawGen rm s.seed (n - 2 ^ k)) =
        ((node (j + k) 0).1, f, drawGen rm s.seed (n - 1)) ∧
      ∀ b, f.getLsbD b = true ↔ ∃ l, j ≤ l ∧ l < j + k ∧ ∃ i < n / 2 ^ (l + 1), (node (l + 1) i).2.getLsbD b = true := by
  induction k generalizing j with
  | zero =>
    refine ⟨0, rfl, fun b => ⟨fun h => absurd h (by simp), ?_⟩⟩
    rintro ⟨l, h1, h2, -⟩
    omega
  | succ k ih =>
    intro n node
    have hn : n = 2 ^ (j + 1 + k) := by rw [Nat.add_right_comm]; rfl
    have hdiv : n / 2 ^ j = 2 ^ (k + 1) := by
      rw [show n = 2 ^ j * 2 ^ (k + 1) from pow_add _ _ _, Nat.mul_div_cancel_left _ (Nat.two_pow_pos j)]
    have hdiv' : n / 2 ^ (j + 1) = 2 ^ k := by rw [hn, pow_add, Nat.mul_div_cancel_left _ (Nat.two_pow_pos _)]
    have hle : 2 ^ (k + 1) ≤ n := Nat.pow_le_pow_right two_pos (by omega)
    have hdraws : n - 2 ^ (k + 1) + 2 ^ k = n - 2 ^ k := by rw [pow_succ] at *; omega
    have hlevel := treeLevel_range t rm (2 ^ k) (fun i => (node j i).1) (drawGen rm s.seed (n - 2 ^ (k + 1)))
    simp only [drawWord_add, drawGen_add, hdraws, ← Nat.pow_succ'] at hlevel
    have hnode (i : Nat) : round2 t rm (XNum.add rm) (drawWord rm s.seed (n - 2 ^ (k + 1) + i))
        ((node j (2 * i)).1, (node j (2 * i + 1)).1) = node (j + 1) i := by
      rw [← hdiv]
      rfl
    simp only [hnode] at hlevel
    obtain ⟨f, hsum, hflags⟩ := ih (j + 1)
    rw [← hn] at hsum hflags
    refine ⟨orFlags ((List.range (2 ^ k)).map fun i => (node (j + 1) i).2) ||| f, ?_, fun b => ?_⟩
    · have hsum' : treeSum t rm k ((List.range (2 ^ k)).map fun i => (node (j + 1) i).1) (drawGen rm s.seed (n - 2 ^ k)) =
        ((node (j + 1 + k) 0).1, f, drawGen rm s.seed (n - 1)) := hsum
      rw [treeSum_succ, hlevel, hsum', Nat.add_right_comm j 1 k]
      rfl
    · rw [BitVec.getLsbD_or, Bool.or_eq_true, getLsbD_orFlags, hflags]
      constructor
      · rintro (⟨_, hmem, hb⟩ | ⟨l, h1, h2, h⟩)
        · obtain ⟨i, hi, rfl⟩ := List.mem_map.1 hmem
          exact ⟨j, le_rfl, by omega, i, by rw [hdiv']; exact List.mem_range.1 hi, hb⟩
        · exact ⟨l, by omega, by omega, h⟩
      · rintro ⟨l, h1, h2, i, hi, hb⟩
        rcases Nat.eq_or_lt_of_le h1 with rfl | h1
        · exact .inl ⟨_, List.mem_map.2 ⟨i, List.mem_range.2 (hdiv' ▸ hi), rfl⟩, hb⟩
        · exact .inr ⟨l, h1, by omega, i, hi, hb⟩

/-! ## The reductions (R216) -/

theorem activeElems_eq (s : State) (t : Ty) (a k : Src) :
    activeLanes (s.rdK k) (elems t (s.rdV a)) =
      ((List.range (1024 / t.width)).filter fun i => (srcK s k).getLsbD i).map fun i => elemAt t.width (srcV s a).1 i := by
  rw [elems_eq_range, activeLanes_range, rdK_eq_srcK, rdV_eq_srcV]

/-- Active lanes as integers. -/
theorem map_intOf_active (t : Ty) (v : BitVec 1024) (l : List Nat) :
    (l.map fun i => elemAt t.width v i).map (intOf t) = l.map fun i => intAt t (elemAt t.width v i) := by
  rw [List.map_map]
  exact List.map_congr_left fun i _ => intOf_eq_intAt (elemAt_lt _ _ _)

theorem vredsum_int {s : State} {o : OpVRRR} (hp : Pred.holds o.p s.cur.st.q = true) (hI : o.ty.isInt = true) :
    let rt : Ty := if o.sub.getLsbD 0 then (if o.ty.isSigned then .s64 else .z64) else o.ty
    let act := (List.range (1024 / o.ty.width)).filter fun i => (srcK s o.k).getLsbD i
    let sum : Int := (act.map fun i => intAt o.ty (elemAt o.ty.width (srcV s o.a).1 i)).sum
    let h := if o.sub.getLsbD 1 then heldTo rt sum else (sum, false)
    exec (.vredsum o) s = .next ((s.entering [vEntry s o.d 6 (BitVec.ofNat 1024 (pat rt.width h.1))
      (reducedRes rt (pat rt.width h.1))]).flagging (if h.2 then fSAT else 0)) := by
  intro rt act sum h
  have hsum : ((activeLanes (s.rdK o.k) (elems o.ty (s.rdV o.a))).map (intOf o.ty)).foldl (· + ·) 0 = sum := by
    rw [activeElems_eq, map_intOf_active, ← List.sum_eq_foldl]
  have hresult : (if o.sub.getLsbD 1 then clampTo rt sum else wrapTo rt sum) = (pat rt.width h.1, if h.2 then fSAT else 0) := by
    by_cases hc : o.sub.getLsbD 1 = true
    · simp only [h, hc, if_true, clampTo_eq]
    · simp only [h, hc, if_false, wrapTo, narrow_eq_pat, Bool.false_eq_true]
  change execVredsum o s = _
  rw [execVredsum, guarded_holds _ hp]
  simp only [hI, if_true, hsum]
  rw [hresult]
  rw [reduced_eq, Nat.mod_eq_of_lt (pat_lt _ _)]

/-- The leaves of a floating sum: active lanes as their result type holds them, inactive ones +0. -/
def sumLeaf (s : State) (o : OpVRRR) (rt : Ty) (i : Nat) : Nat × MFlags :=
  if (srcK s o.k).getLsbD i then
    (if rt = o.ty then (elemAt o.ty.width (srcV s o.a).1 i, 0) else convert o.ty rt .rne 0 (elemAt o.ty.width (srcV s o.a).1 i))
  else (0, 0)

theorem count_eq_pow (t : Ty) : t.count = 2 ^ Nat.log2 t.count := by cases t <;> decide

theorem vredsum_float {s : State} {o : OpVRRR} (hp : Pred.holds o.p s.cur.st.q = true) (hI : o.ty.isInt = false) :
    let n := 1024 / o.ty.width
    let rt : Ty := if o.sub.getLsbD 0 then .f else o.ty
    let node := treeAt s rt o.rm n (fun i => (sumLeaf s o rt i).1)
    let r := (node (Nat.log2 n) 0).1 % 2 ^ rt.width
    ∃ f, exec (.vredsum o) s = .next (((afterDraws s o.rm (n - 1)).entering
        [vEntry s o.d 6 (BitVec.ofNat 1024 r) (reducedRes rt r)]).flagging f) ∧
      ∀ b < 8, f.getLsbD b = true ↔ (∃ i < n, (sumLeaf s o rt i).2.getLsbD b = true) ∨
        ∃ k < Nat.log2 n, ∃ i < n / 2 ^ (k + 1), (node (k + 1) i).2.getLsbD b = true := by
  intro n rt node r
  have hn : n = 2 ^ Nat.log2 n := count_eq_pow o.ty
  obtain ⟨f, hsum, hflags⟩ := treeSum_from s rt o.rm (fun i => (sumLeaf s o rt i).1) (Nat.log2 n) 0
  rw [Nat.zero_add, ← hn, Nat.sub_self] at hsum
  rw [Nat.zero_add, ← hn] at hflags
  have hleaves : (elems o.ty (s.rdV o.a)).zipIdx.map (fun p => if (s.rdK o.k).getLsbD p.2 then
      (if rt = o.ty then (p.1, (0 : MFlags)) else convert o.ty rt .rne 0 p.1) else (0, 0)) = (List.range n).map (sumLeaf s o rt) := by
    rw [elems_eq_range, zipIdx_map_range, List.map_map, rdK_eq_srcK, rdV_eq_srcV]
    rfl
  have htree : treeSum rt o.rm (Nat.log2 o.ty.count) (((List.range n).map (sumLeaf s o rt)).map (·.1)) s.seed =
      ((node (Nat.log2 n) 0).1, f, drawGen o.rm s.seed (n - 1)) := by
    rw [List.map_map]
    have hgen : drawGen o.rm s.seed 0 = s.seed := by simp [drawGen, genAfter]
    rw [hgen] at hsum
    exact hsum
  have hstate : (if o.rm = .sr then s.setSeed (drawGen o.rm s.seed (n - 1)) else s) = afterDraws s o.rm (n - 1) := by
    rw [afterDraws, drawGen]
    split_ifs <;> rfl
  refine ⟨f ||| orFlags (((List.range n).map (sumLeaf s o rt)).map (·.2)), ?_, fun b _ => ?_⟩
  · change execVredsum o s = _
    rw [execVredsum, guarded_holds _ hp]
    simp only [hI, Bool.false_eq_true, if_false]
    rw [hleaves, htree]
    simp only [hstate]
    rw [reduced_eq, vEntry_afterDraws]
  · rw [BitVec.getLsbD_or, Bool.or_eq_true, getLsbD_orFlags, hflags, or_comm]
    simp only [List.map_map, List.mem_map, List.mem_range, Nat.zero_le, true_and, exists_exists_and_eq_and, Function.comp]
    exact Iff.rfl

theorem exec_vredextreme (o : OpVRRR) (greater : Bool) (s : State) :
    exec (if greater then .vredmax o else .vredmin o) s = vecExtreme o greater s := by cases greater <;> rfl

theorem vredextreme_int {s : State} {o : OpVRRR} (hp : Pred.holds o.p s.cur.st.q = true) (hI : o.ty.isInt = true) (greater : Bool) :
    let act := (List.range (1024 / o.ty.width)).filter fun i => (srcK s o.k).getLsbD i
    let a (i : Nat) : Int := intAt o.ty (elemAt o.ty.width (srcV s o.a).1 i)
    let first : Int := if greater then tyLo o.ty else tyHi o.ty
    ∃ x, vecExtreme o greater s = .next (s.entering [vEntry s o.d 3 (BitVec.ofNat 1024 (pat o.ty.width x))
        (reducedRes o.ty (pat o.ty.width x))]) ∧
      (act = [] → x = first) ∧
      (act ≠ [] → (∃ i ∈ act, x = a i) ∧ ∀ i ∈ act, if greater then a i ≤ x else x ≤ a i) := by
  intro act a first
  have hfirst (i : Nat) : if greater then first ≤ a i else a i ≤ first := by
    have h := intAt_range (elemAt_lt o.ty.width (srcV s o.a).1 i)
    cases greater
    · exact h.2
    · exact h.1
  obtain ⟨hmem, -, hbest⟩ := foldl_keeps (fun _ => True) (fun x y : Int => if greater then x ≤ y else y ≤ x)
    (if greater then max else min) (fun x => by cases greater <;> exact le_rfl)
    (fun x y z h1 h2 => by cases greater <;> [exact le_trans h2 h1; exact le_trans h1 h2])
    (fun x y => by cases greater <;> [exact min_choice x y; exact max_choice x y])
    (fun x y _ _ => by
      cases greater
      · exact ⟨min_le_left x y, min_le_right x y⟩
      · exact ⟨le_max_left x y, le_max_right x y⟩)
    (act.map a) first trivial fun _ _ => trivial
  refine ⟨(act.map a).foldl (if greater then max else min) first, ?_, ?_, fun hne => ⟨?_, fun i hi => ?_⟩⟩
  · rw [vecExtreme, guarded_holds _ hp]
    simp only [hI, if_true]
    rw [activeElems_eq, map_intOf_active, reduced_eq, narrow_eq_pat, Nat.mod_eq_of_lt (pat_lt _ _)]
    rfl
  · rintro h
    rw [h]
    rfl
  · rcases hmem with h | h
    · obtain ⟨i, hi⟩ := List.exists_mem_of_ne_nil act hne
      refine ⟨i, hi, ?_⟩
      have h1 := hbest (a i) (List.mem_map_of_mem hi)
      have h2 := hfirst i
      rw [h] at h1 ⊢
      cases greater
      · exact le_antisymm h1 h2
      · exact le_antisymm h2 h1
    · obtain ⟨i, hi, h⟩ := List.mem_map.1 h
      exact ⟨i, hi, h.symm⟩
  · exact hbest (a i) (List.mem_map_of_mem hi)

theorem vredextreme_float {s : State} {o : OpVRRR} (hp : Pred.holds o.p s.cur.st.q = true) (hI : o.ty.isInt = false)
    (hF : o.ty.setF = true) (greater : Bool) :
    let act := (List.range (1024 / o.ty.width)).filter fun i => (srcK s o.k).getLsbD i
    let a (i : Nat) : Nat := elemAt o.ty.width (srcV s o.a).1 i
    let start : Nat := (roundTo o.ty .rne 0 (.inf greater)).1
    ∃ c f, vecExtreme o greater s =
        .next ((s.entering [vEntry s o.d 3 (BitVec.ofNat 1024 c) (BitVec.allOnes 128)]).flagging f) ∧
      (∀ b < 8, f.getLsbD b = true ↔ ∃ i ∈ act, (valueOf o.ty (a i)).2.getLsbD b = true) ∧
      ((∃ i ∈ act, decodeFloat o.ty (a i) = .nan) → c = canonNaN o.ty) ∧
      (act = [] → c = start) ∧
      ((∀ i ∈ act, decodeFloat o.ty (a i) ≠ .nan) → act ≠ [] → (c = start ∨ ∃ i ∈ act, c = a i) ∧
        ∀ i ∈ act, (if greater then (decodeFloat o.ty c).below (decodeFloat o.ty (a i))
          else (decodeFloat o.ty (a i)).below (decodeFloat o.ty c)) = false) := by
  intro act a start
  have hany : ((act.map a).any fun x => decodeFloat o.ty x == .nan) = true ↔ ∃ i ∈ act, decodeFloat o.ty (a i) = .nan := by
    simp [List.any_eq_true]
  have hkept (h : ∀ i ∈ act, decodeFloat o.ty (a i) ≠ .nan) := foldl_keepF hF greater (xs := act.map a) fun x hx => by
    obtain ⟨i, hi, rfl⟩ := List.mem_map.1 hx
    exact h i hi
  have hwithin (h : ∀ i ∈ act, decodeFloat o.ty (a i) ≠ .nan) :
      (foldF o.ty greater (act.map a)).1 = (act.map a).foldl (keepF o.ty greater) start := by
    rw [foldF_eq, if_neg]
    rw [hany]
    rintro ⟨i, hi, hn⟩
    exact h i hi hn
  have hlt : (foldF o.ty greater (act.map a)).1 < 2 ^ o.ty.width := by
    by_cases h : ∃ i ∈ act, decodeFloat o.ty (a i) = .nan
    · rw [foldF_eq, if_pos (hany.2 h)]
      exact canonNaN_lt hF
    · have hnone : ∀ i ∈ act, decodeFloat o.ty (a i) ≠ .nan := fun i hi hn => h ⟨i, hi, hn⟩
      rw [hwithin hnone]
      rcases (hkept hnone).1 with h' | h'
      · rw [h']
        exact roundTo_lt hF _ _ _
      · obtain ⟨i, -, hi⟩ := List.mem_map.1 h'
        rw [← hi]
        exact elemAt_lt _ _ _
  refine ⟨(foldF o.ty greater (act.map a)).1, (foldF o.ty greater (act.map a)).2, ?_, fun b _ => ?_, fun h => ?_, fun h => ?_,
    fun h _ => ?_⟩
  · rw [vecExtreme, guarded_holds _ hp]
    simp only [hI, Bool.false_eq_true, if_false]
    rw [activeElems_eq, reduced_eq, Nat.mod_eq_of_lt hlt, reducedRes_of_setF hF]
  · rw [foldF_eq, getLsbD_orFlags]
    simp [act]
  · rw [foldF_eq, if_pos (hany.2 h)]
  · rw [hwithin (by simp [h]), h]
    rfl
  · rw [hwithin h]
    obtain ⟨hmem, hbest⟩ := hkept h
    exact ⟨hmem.imp_right fun hm => by obtain ⟨i, hi, hc⟩ := List.mem_map.1 hm; exact ⟨i, hi, hc.symm⟩,
      fun i hi => hbest (a i) (List.mem_map_of_mem hi)⟩

theorem setF_of_not_isInt {t : Ty} (h : t.setI = true ∨ t.setF = true) (hI : t.isInt = false) : t.setF = true := by
  rcases h with h | h
  · simp [Ty.setI, hI] at h
  · exact h

/-- Settles O24: integer sums and extremes are folds over the active lanes; the floating sum is the tree, level by level; and the
floating extremes keep the better of two in an order that puts −0 before +0. -/
theorem vectorReductions : Obligations.VectorReductions := by
  intro s o hp hty w n m a act wide rt
  refine ⟨fun hI => ?intSum, fun hI => ?floatSum, fun hI greater => ?intExtreme, fun hI greater => ?floatExtreme⟩
  case intSum =>
    have h := vredsum_int hp hI
    simp only [rt, hI, if_true]
    exact h
  case floatSum =>
    have h := vredsum_float hp hI
    simp only [rt, hI, Bool.false_eq_true, if_false]
    exact h
  case intExtreme =>
    have h := vredextreme_int hp hI greater
    rw [tyLo_eq, tyHi_eq, ← exec_vredextreme] at h
    exact h
  case floatExtreme =>
    have h := vredextreme_float hp hI (setF_of_not_isInt hty hI) greater
    rw [← exec_vredextreme] at h
    exact h

end Sys2Proof.Machine
end

section
/-!
SUPPORT. The exact sums of a lattice beat (R70, R71): sums of dyadic numbers, the sums of whole numbers, and the values of a K4O row
(R54, R55).
-/
open Sys2Proof.Claims

namespace Sys2Proof.Machine

/-! ## Sums of dyadic numbers -/

theorem addDy_value (m e m' e' : Int) :
    ((addDy m e m' e').1 : Rat) * 2 ^ (addDy m e m' e').2 = m * 2 ^ e + m' * 2 ^ e' := by
  simp only [addDy]
  rw [Int.cast_add, add_mul, scaled_mul (min_le_left e e'), scaled_mul (min_le_right e e')]

/-- What `beatSum` does with one product. -/
def addProduct (acc : Int × Int) (p : XNum × MFlags) : Int × Int :=
  match p.1 with
  | .fin m e => addDy acc.1 acc.2 m e
  | _ => acc

theorem addProduct_value (acc : Int × Int) {p : XNum × MFlags} :
    ((addProduct acc p).1 : Rat) * 2 ^ (addProduct acc p).2 = acc.1 * 2 ^ acc.2 + ratOfNum p.1 := by
  obtain ⟨x, f⟩ := p
  cases x with
  | fin m e => exact addDy_value _ _ _ _
  | _ => simp [addProduct, ratOfNum]

theorem foldl_addProduct_value (ps : List (XNum × MFlags)) (acc : Int × Int) :
    ((ps.foldl addProduct acc).1 : Rat) * 2 ^ (ps.foldl addProduct acc).2 =
      acc.1 * 2 ^ acc.2 + (ps.map fun p => ratOfNum p.1).sum := by
  induction ps generalizing acc with
  | nil => simp
  | cons p ps ih => rw [List.foldl_cons, ih, addProduct_value, List.map_cons, List.sum_cons, add_assoc]

theorem beatSum_eq (ps : List (XNum × MFlags)) :
    let bad := ps.any fun p => p.1 == .nan
    let pinf := ps.any fun p => p.1 == .inf false
    let ninf := ps.any fun p => p.1 == .inf true
    beatSum ps =
      if bad || (pinf && ninf) then (.nan, true)
      else if pinf then (.inf false, false)
      else if ninf then (.inf true, false)
      else if ps.all fun p => p.1 == .negZero then (.negZero, false)
      else (.fin (ps.foldl addProduct (0, 0)).1 (ps.foldl addProduct (0, 0)).2, false) := rfl

theorem any_range_eq_true {n : Nat} {p : Nat → XNum × MFlags} {y : XNum} :
    (((List.range n).map p).any fun q => q.1 == y) = true ↔ ∃ k < n, (p k).1 = y := by
  simp [List.any_eq_true]

theorem all_range_eq_true {n : Nat} {p : Nat → XNum × MFlags} {y : XNum} :
    (((List.range n).map p).all fun q => q.1 == y) = true ↔ ∀ k < n, (p k).1 = y := by
  simp [List.all_eq_true]

/-- The sum of a beat is the exact sum of its products (R70). -/
theorem isSum_beatSum (n : Nat) (p : Nat → XNum × MFlags) :
    isSum n (fun k => (p k).1) (beatSum ((List.range n).map p)).1 (beatSum ((List.range n).map p)).2 := by
  have hnan := any_range_eq_true (n := n) (p := p) (y := .nan)
  have hpos := any_range_eq_true (n := n) (p := p) (y := .inf false)
  have hneg := any_range_eq_true (n := n) (p := p) (y := .inf true)
  have hzero := all_range_eq_true (n := n) (p := p) (y := .negZero)
  rw [beatSum_eq]
  unfold isSum
  simp only [← hnan, ← hpos, ← hneg]
  refine ⟨fun h => ?_, fun h1 h2 h3 => ?_, fun h1 h2 h3 => ?_, fun h1 h2 h3 => ?_⟩
  · rw [if_pos (by simpa using h)]
    exact ⟨rfl, rfl⟩
  · simp only [Bool.not_eq_true] at h1 h3
    simp [h1, h2, h3]
  · simp only [Bool.not_eq_true] at h1 h3
    simp [h1, h2, h3]
  · simp only [Bool.not_eq_true] at h1 h2 h3
    simp only [h1, h2, h3, Bool.and_false, Bool.or_false, Bool.false_eq_true, if_false]
    by_cases hz : (((List.range n).map p).all fun q => q.1 == .negZero) = true
    · rw [if_pos hz]
      refine ⟨rfl, fun _ => rfl, fun ⟨k, hk, hne⟩ => absurd (hzero.1 hz k hk) hne⟩
    · rw [if_neg hz]
      refine ⟨rfl, fun h => absurd (hzero.2 h) hz, fun _ => ⟨_, _, rfl, ?_⟩⟩
      rw [foldl_addProduct_value, List.map_map]
      simp [Function.comp_def]

/-! ## Sums of whole numbers (R71) -/

/-- `x` is the whole number `v`, a zero of either sign. -/
def isWhole (x : XNum) (v : Int) : Prop := x = .fin v 0 ∨ x = .negZero ∧ v = 0

theorem isWhole_mul (a b : Int) : isWhole ((XNum.fin a 0).mul (.fin b 0)).1 (a * b) := by
  simp only [XNum.mul]
  split_ifs with h
  · rw [h]
    cases ((XNum.fin a 0).neg != (XNum.fin b 0).neg)
    · exact .inl rfl
    · exact .inr ⟨rfl, rfl⟩
  · exact .inl rfl

theorem addProduct_whole {x : XNum} {v : Int} (h : isWhole x v) (f : MFlags) (u : Int) : addProduct (u, 0) (x, f) = (u + v, 0) := by
  rcases h with rfl | ⟨rfl, rfl⟩
  · simp [addProduct, addDy]
  · simp [addProduct]

theorem foldl_addProduct_whole (l : List Nat) (p : Nat → XNum × MFlags) (v : Nat → Int) (h : ∀ k, isWhole (p k).1 (v k)) (u : Int) :
    (l.map p).foldl addProduct (u, 0) = (u + (l.map v).sum, 0) := by
  induction l generalizing u with
  | nil => simp
  | cons k l ih =>
    rw [List.map_cons, List.foldl_cons, List.map_cons, List.sum_cons, ← add_assoc, ← ih, ← addProduct_whole (h k) (p k).2 u]

theorem beatSum_whole (n : Nat) (p : Nat → XNum × MFlags) (v : Nat → Int) (h : ∀ k, isWhole (p k).1 (v k)) :
    isWhole (beatSum ((List.range n).map p)).1 ((List.range n).map v).sum ∧ (beatSum ((List.range n).map p)).2 = false := by
  have none_of (y : XNum) (hy : ∀ v, ¬ isWhole y v) : (((List.range n).map p).any fun q => q.1 == y) = false := by
    rw [Bool.eq_false_iff, ne_eq, any_range_eq_true]
    rintro ⟨k, -, hk⟩
    exact hy (v k) (hk ▸ h k)
  rw [beatSum_eq, none_of .nan (by simp [isWhole]), none_of (.inf false) (by simp [isWhole]), none_of (.inf true) (by simp [isWhole])]
  simp only [Bool.false_and, Bool.or_false, Bool.false_eq_true, if_false]
  split_ifs with hz
  · rw [all_range_eq_true] at hz
    have hsum : ((List.range n).map v).sum = 0 := List.sum_eq_zero fun x hx => by
      obtain ⟨k, hk, rfl⟩ := List.mem_map.1 hx
      rcases h k with h | ⟨-, h⟩
      · rw [hz k (List.mem_range.1 hk)] at h
        cases h
      · exact h
    exact ⟨.inr ⟨rfl, hsum⟩, rfl⟩
  · rw [foldl_addProduct_whole _ _ _ h, zero_add]
    exact ⟨.inl rfl, rfl⟩

/-! ## The values of a K4O row (R54, R55) -/

theorem nib_eq_nibAt (pay i : Nat) : nib pay i = nibAt pay i := by
  rw [nib, bits, nibAt, show 4 * i + 3 + 1 - 4 * i = 4 by omega]
  rfl

theorem ordinal_succ (pay j : Nat) : ordinal pay (j + 1) = ordinal pay j + if marked pay j then 1 else 0 := by
  rw [ordinal, ordinal, List.range_succ, List.filter_append, List.length_append]
  cases h : marked pay j <;> simp [h]

theorem sextN_nibble (x : Nat) (h : x < 16) : sextN 4 x = if 8 ≤ x then (x : Int) - 16 else x := by
  simp only [sextN]
  split_ifs <;> omega

theorem nibAt_lt (pay i : Nat) : nibAt pay i < 16 := Nat.mod_lt _ (by norm_num)

/-- The value of a marked element whose ordinal is `ord`. -/
def outlierAt (md pay ord part : Nat) : XNum :=
  if ord ≤ 2 then decodeFloat .e4 (md / 2 ^ (20 + 4 * ord) % 16 * 16 + nibAt pay part) else .fin 0 0

/-- The two code values of a pair (R54). -/
theorem codeAt_pair (md pay j : Nat) :
    (codeAt md pay (2 * j), codeAt md pay (2 * j + 1)) =
      if nibAt pay (2 * j) = 8 then (outlierAt md pay (ordinal pay j) (2 * j + 1), .fin 0 0)
      else if nibAt pay (2 * j + 1) = 8 then (.fin 0 0, outlierAt md pay (ordinal pay j) (2 * j))
      else (.fin (sextN 4 (nibAt pay (2 * j))) 0, .fin (sextN 4 (nibAt pay (2 * j + 1))) 0) := by
  have h0 : 2 * j / 2 = j := by omega
  have h1 : (2 * j + 1) / 2 = j := by omega
  have p0 : 4 * j + 1 - 2 * j = 2 * j + 1 := by omega
  have p1 : 4 * j + 1 - (2 * j + 1) = 2 * j := by omega
  simp only [codeAt, h0, h1, p0, p1, marked, markerOf, outlierAt, sextN_nibble _ (nibAt_lt _ _)]
  by_cases he : nibAt pay (2 * j) = 8
  · simp [he]
  · by_cases ho : nibAt pay (2 * j + 1) = 8
    · simp [he, ho]
    · simp [he, ho]

theorem k4oScan_succ (md pay n j : Nat) :
    (k4oScan md pay (n + 1) j (ordinal pay j)).1 =
      codeAt md pay (2 * j) :: codeAt md pay (2 * j + 1) :: (k4oScan md pay n (j + 1) (ordinal pay (j + 1))).1 := by
  have hpair := codeAt_pair md pay j
  have hslot : bits md (23 + 4 * ordinal pay j) (20 + 4 * ordinal pay j) = md / 2 ^ (20 + 4 * ordinal pay j) % 16 := by
    rw [bits, show 23 + 4 * ordinal pay j + 1 - (20 + 4 * ordinal pay j) = 4 by omega]
    rfl
  rw [ordinal_succ]
  simp only [k4oScan, nib_eq_nibAt, hslot]
  by_cases he : nibAt pay (2 * j) = 8
  · rw [if_pos he] at hpair
    obtain ⟨h0, h1⟩ := Prod.mk.inj hpair
    simp [he, h0, h1, marked, outlierAt]
  · rw [if_neg he] at hpair
    by_cases ho : nibAt pay (2 * j + 1) = 8
    · rw [if_pos ho] at hpair
      obtain ⟨h0, h1⟩ := Prod.mk.inj hpair
      simp [he, ho, h0, h1, marked, outlierAt]
    · rw [if_neg ho] at hpair
      obtain ⟨h0, h1⟩ := Prod.mk.inj hpair
      simp [he, ho, h0, h1, marked]

/-- The scan of R54 gives the code values in order. -/
theorem k4oScan_codes (md pay n j : Nat) :
    (k4oScan md pay n j (ordinal pay j)).1 = (List.range (2 * n)).map fun i => codeAt md pay (2 * j + i) := by
  induction n generalizing j with
  | zero => rfl
  | succ n ih =>
    rw [k4oScan_succ, ih, show 2 * (n + 1) = 2 * n + 1 + 1 from rfl, List.range_succ_eq_map, List.range_succ_eq_map]
    simp only [List.map_cons, List.map_map, Nat.add_zero, List.cons.injEq, true_and]
    refine List.map_congr_left fun i _ => ?_
    simp only [Function.comp, Nat.succ_eq_add_one]
    congr 1
    omega

/-- A code value times the scale is the value of its element. -/
theorem isBlockValue_scaled {md : Nat} (pay i : Nat) (h0 : scaleExp md ≠ 0) (h255 : scaleExp md ≠ 255) :
    isBlockValue md pay i (if (codeAt md pay i).isZero && !(codeAt md pay i).neg then .fin 0 0
      else ((codeAt md pay i).mul (.fin (4096 + scaleMant md : Nat) ((scaleExp md : Int) - 139))).1) := by
  have hmant : ((4096 + scaleMant md : Nat) : Int) ≠ 0 := by omega
  have hplus : ¬ ((4096 + scaleMant md : Nat) : Int) < 0 := by omega
  rw [isBlockValue, if_neg h0, if_neg h255]
  cases codeAt md pay i with
  | fin p q =>
    by_cases hp : p = 0
    · simp [hp, XNum.isZero, XNum.neg]
    · have hprod : p * ((4096 + scaleMant md : Nat) : Int) ≠ 0 := mul_ne_zero hp hmant
      simp only [XNum.isZero, beq_iff_eq, hp, Bool.and_eq_true, false_and, if_false, XNum.mul, hprod]
      refine ⟨_, _, rfl, ?_⟩
      rw [zpow_add₀ two_ne_zero]
      push_cast
      ring
  | negZero => simp only [XNum.isZero, XNum.neg, XNum.mul, XNum.zero, hplus, decide_false, Bool.not_true, Bool.and_false,
      Bool.false_eq_true, if_false, Bool.bne_false, if_true]
  | inf n => simp only [XNum.isZero, XNum.neg, XNum.mul, hplus, hmant, decide_false, beq_iff_eq, Bool.false_and,
      Bool.false_eq_true, if_false, Bool.bne_false]
  | nan => simp [XNum.isZero, XNum.mul]

/-- The list of a block's values gives each element its value (R55). -/
theorem isBlockValue_k4oValues (md pay : Nat) {i : Nat} (hi : i < 64) :
    isBlockValue md pay i ((k4oValues md pay).1.getD i (.fin 0 0)) := by
  have hexp : bits (bits md 19 0) 19 12 = scaleExp md := by
    simp only [bits, scaleExp]
    omega
  have hmant : bits (bits md 19 0) 11 0 = scaleMant md := by
    simp only [bits, scaleMant]
    omega
  by_cases h0 : scaleExp md = 0
  · rw [isBlockValue, if_pos h0]
    have hvalues : (k4oValues md pay).1 = List.replicate 64 (.fin 0 0) := by simp only [k4oValues, s20, hexp, h0, if_true]
    rw [hvalues, List.getD_eq_getElem _ _ (by simpa using hi), List.getElem_replicate]
  by_cases h255 : scaleExp md = 255
  · rw [isBlockValue, if_neg h0, if_pos h255]
    have hvalues : (k4oValues md pay).1 = List.replicate 64 .nan := by
      simp only [k4oValues, s20, hexp, h255, if_true, Nat.reduceEqDiff, if_false]
    rw [hvalues, List.getD_eq_getElem _ _ (by simpa using hi), List.getElem_replicate]
  · have hs20 : s20 (bits md 19 0) = .fin (4096 + scaleMant md : Nat) ((scaleExp md : Int) - 139) := by
      simp only [s20, hexp, hmant, if_neg h0, if_neg h255]
      congr 1
      omega
    have hscan : (k4oScan md pay 32 0 0).1 = (List.range 64).map (codeAt md pay) := by
      have h := k4oScan_codes md pay 32 0
      simp only [Nat.mul_zero, Nat.zero_add] at h
      exact h
    have hne : ((4096 + scaleMant md : Nat) : Int) ≠ 0 := by omega
    have hvalues : (k4oValues md pay).1 = (List.range 64).map fun i =>
        if (codeAt md pay i).isZero && !(codeAt md pay i).neg then XNum.fin 0 0
        else ((codeAt md pay i).mul (.fin (4096 + scaleMant md : Nat) ((scaleExp md : Int) - 139))).1 := by
      simp only [k4oValues, hs20, if_neg hne]
      rw [hscan, List.map_map]
      rfl
    rw [hvalues, List.getD_eq_getElem _ _ (by simpa using hi), List.getElem_map, List.getElem_range]
    exact isBlockValue_scaled pay i h0 h255

end Sys2Proof.Machine
end

section
/-!
SUPPORT. The lattice (R230 to R235): operands, what an entry of the in-flight table does to a tile, and the obligation about beats and
tiles.
-/
open Sys2Proof.Claims

namespace Sys2Proof.Machine

/-! ## Counts leave everything but the counters -/

theorem count_only (s : State) (cx : Nat) (c : Counter) (n : Nat) : ∃ a, s.count cx c n = { s with acct := a } := by
  unfold State.count
  split_ifs
  · exact ⟨_, rfl⟩
  · split <;> exact ⟨_, rfl⟩

theorem storeEcc_only (s : State) (cx core n : Nat) : ∃ d a, s.storeEcc cx core n = { s with dies := d, acct := a } := by
  unfold State.storeEcc
  split_ifs
  · exact ⟨_, _, rfl⟩
  · obtain ⟨a, ha⟩ := count_only (s.updDie (core / 256) fun d => { d with uncorr := satWord d.uncorr n }) cx .eccu n
    exact ⟨_, a, ha⟩

theorem storeEcc_zero (s : State) (cx core : Nat) : s.storeEcc cx core 0 = s := rfl

theorem ctx_count (s : State) (cx : Nat) (c : Counter) (n j : Nat) : (s.count cx c n).ctx j = s.ctx j := by
  obtain ⟨a, h⟩ := count_only s cx c n
  rw [h]
  rfl

theorem ctx_storeEcc (s : State) (cx core n j : Nat) : (s.storeEcc cx core n).ctx j = s.ctx j := by
  obtain ⟨d, a, h⟩ := storeEcc_only s cx core n
  rw [h]
  rfl

/-- An entry that acts on the lattice has no latch to lose in a template. -/
theorem entryOf_lattice (s : State) (op : FlightOp) (l : Nat) : entryOf s op none l = latticeEntry s op l := by
  rw [entryOf, latticeEntry]
  split_ifs <;> rfl

theorem flightPut_lattice (s : State) (op : FlightOp) (l : Nat) : s.flightPut op none l = s.entering [latticeEntry s op l] := by
  rw [flightPut_eq_entering, entryOf_lattice]

/-- The state but for its counters and its free values. -/
def recounted (s : State) (fr : Nat) (d : FMap Die) (a : FMap Word) : State := { s with free := fr, dies := d, acct := a }

/-- An entry that is put in flight changes the strand's in-flight table alone, beside counters and free values. -/
theorem entering_recounted (s : State) (fr : Nat) (d : FMap Die) (a : FMap Word) (e : Flight) :
    sameMemory s ((recounted s fr d a).entering [e]) ∧ sameOthers s ((recounted s fr d a).entering [e]) ∧
      (((recounted s fr d a).entering [e]).ctx s.iss.cx).st = { s.cur.st with flight := s.cur.st.flight ++ [e] } :=
  ⟨⟨fun _ => rfl, fun _ => rfl, fun _ => rfl, fun _ => rfl, fun _ => rfl, fun _ => rfl⟩,
    fun _ hcx => FMap.getD_put_ne _ hcx.symm _ _, congrArg Ctx.st (FMap.getD_put_self _ _ _ _)⟩

/-! ## Bytes of an operand -/

theorem leValue_eq_ofLanes (bs : List Byte) : leValue bs = ofLanes 8 (bs.map BitVec.toNat) := by
  induction bs with
  | nil => rfl
  | cons b r ih =>
    rw [leValue, ih, List.map_cons, ofLanes, Nat.mod_eq_of_lt b.isLt]
    rfl

theorem leValue_lt (bs : List Byte) : leValue bs < 2 ^ (8 * bs.length) := by
  have h := ofLanes_lt 8 (bs.map BitVec.toNat)
  rwa [← leValue_eq_ofLanes, List.length_map] at h

theorem byte_of_leValue (bs : List Byte) (b : Nat) : leValue bs / 256 ^ b % 256 = (bs.getD b 0).toNat := by
  have h := laneN_ofLanes 8 (bs.map BitVec.toNat) b
  rw [← leValue_eq_ofLanes, laneN, pow_mul] at h
  have hget : (bs.map BitVec.toNat).getD b 0 = (bs.getD b 0).toNat := by
    rw [List.getD_eq_getElem?_getD, List.getD_eq_getElem?_getD, List.getElem?_map]
    cases bs[b]? <;> rfl
  rw [hget, Nat.mod_eq_of_lt (BitVec.isLt _)] at h
  exact h

theorem leBytes_drop (n d x : Nat) : (leBytes n x).drop d = leBytes (n - d) (x / 256 ^ d) := by
  induction d generalizing n x with
  | zero => simp
  | succ d ih =>
    cases n with
    | zero => simp [leBytes]
    | succ n => rw [leBytes, List.drop_succ_cons, ih, Nat.add_sub_add_right, Nat.div_div_eq_div_mul, pow_succ']

theorem leBytes_take {n m : Nat} (h : m ≤ n) (x : Nat) : (leBytes n x).take m = leBytes m x := by
  induction m generalizing n x with
  | zero => rfl
  | succ m ih =>
    obtain ⟨n, rfl⟩ : ∃ k, n = k + 1 := ⟨n - 1, by omega⟩
    rw [leBytes, leBytes, List.take_succ_cons, ih (by omega)]

/-- A half of a register as an A operand. -/
theorem leValue_half (v : BitVec 1024) (half : Bool) :
    leValue (((bytesOfVec v).drop (if half then 64 else 0)).take 64) = v.toNat / 2 ^ (if half then 512 else 0) % 2 ^ 512 := by
  have h256 (k : Nat) : 256 ^ k = 2 ^ (8 * k) := by
    rw [pow_mul]
    rfl
  have hshift : 8 * (if half then 64 else 0) = if half then 512 else 0 := by cases half <;> rfl
  rw [bytesOfVec, leBytes_drop, leBytes_take (by cases half <;> decide), leValue_leBytes, h256, h256, hshift]

theorem bytes_getD (m : Memory) (n a : Nat) {j : Nat} (h : j < n) : (Memory.bytes m a n).getD j 0 = Memory.get m (a + j) := by
  induction n generalizing a j with
  | zero => omega
  | succ n ih =>
    rw [Memory.bytes]
    cases j with
    | zero => rfl
    | succ j => rw [List.getD_cons_succ, ih _ (by omega), Nat.add_assoc, Nat.add_comm 1]

/-! ## A scratchpad operand (R226) -/

theorem chkG_of_passes {s : State} {a : Src} (slot : Nat) (h : passes s a) (f : State → State) : s.chkG slot (s.rdG a) f = f s := by
  have hok : (s.rdG a).ok = true := by
    rw [GVal.ok, resOk, rdG_res, rdG_val]
    rcases h with h | h <;> rw [h]
    · rfl
    · have hres : (res64 (srcG s a)).toNat = (srcG s a).toNat % 15 := by
        rw [res64, BitVec.toNat_ofNat]
        omega
      rw [Bool.or_eq_true, hres]
      exact .inr (beq_self_eq_true _)
  rw [State.chkG, if_pos hok]

theorem srcNext_eq_pairSrc (a : Src) : srcNext a = pairSrc a := by cases a <;> rfl

theorem spPair_of_passes {s : State} {a : Src} (ht : s.iss.template = false) (h : pairPasses s a) (f : Word → Word → State → State) :
    s.spPair a f = f (srcG s a) (srcG s (pairSrc a)) s := by
  simp only [State.spPair, ht, Bool.false_eq_true, if_false]
  rw [chkG_of_passes 3 h.1, srcNext_eq_pairSrc, chkG_of_passes 3 h.2, rdG_val, rdG_val]

theorem spRow_eq_tileRow (s : State) (a : Src) (row : Nat) : spRow (srcG s a) (srcG s (pairSrc a)) row = tileRow s a row := by
  simp [spRow, tileRow, bits]

/-- The own core's row, where the crew holds it. -/
theorem locCheck_own {s : State} {row : Nat} (h : row < s.cur.rows) :
    s.locCheck s.iss.cx (coreIdx s.iss.cx) row 0 =
      .ok (padKey (s.iss.cx / 4) s.cur.rowBase row 0, locAddr (coreIdx s.iss.cx) row 0) := by
  have hcore : coreAt s.iss.cx (coreIdx s.iss.cx) = s.iss.cx / 4 := by
    simp only [coreAt, coreIdx, coreOf]
    omega
  have hrow : row < (s.ctx s.iss.cx).rows := h
  rw [State.locCheck, State.crewRow, if_pos rfl]
  simp only [hrow, if_true, hcore]
  rfl

theorem rowBytes_of_clean {s : State} {k : Nat} (h : padClean s k 128) : s.rowBytes k = (s.locBytes k 128, s) := by
  have hclean : s.locSpoiled k 128 = false := by
    rw [State.locSpoiled, List.any_eq_false]
    intro w hw
    simpa using h w hw
  rw [State.rowBytes, hclean]
  rfl

/-- An operand that can be read gives its bytes and changes nothing. -/
theorem spOperand_reads {s : State} {a : Src} {row : Nat} (h : tileReads s a row) (half : Bool) (n : Nat)
    (f : List Byte → State → State) :
    s.spOperand a row half n f = f ((List.range n).map (tileByte s a row half)) s := by
  obtain ⟨ht, hpass, hrow, hclean⟩ := h
  rw [State.spOperand, spPair_of_passes ht hpass, spRow_eq_tileRow, locCheck_own hrow]
  simp only [State.checked, rowBytes_of_clean hclean, spBytes]
  congr 1
  refine List.map_congr_left fun j _ => ?_
  have hrot : bits (srcG s (pairSrc a)).toNat 33 32 * 32 = 32 * ((srcG s (pairSrc a)).toNat / 2 ^ 32 % 4) := by
    rw [Nat.mul_comm]
    rfl
  have hkey (c b r y : Nat) : padKey c b r 0 + y = padKey c b r y := by rw [padKey, padKey, Nat.add_zero]
  rw [State.locBytes, bytes_getD _ _ _ (Nat.mod_lt _ (by norm_num)), hrot, hkey, tileByte]

/-! ## What a beat's entry does when it is due -/

/-- An accumulator element after a beat: in FP32 or in INT32. -/
def accStep (fp : Bool) (x : XNum) (old : Nat) : Nat × MFlags :=
  if fp then accF old x
  else match x with
    | .fin m e => accI old (m * ((2 ^ e.toNat : Nat) : Int))
    | _ => (old, 0)

/-- One column of a beat's update. -/
def accColumn (fp : Bool) (tile row : Nat) (st : FMap (BitVec 32) × MFlags) (p : XNum × Nat) : FMap (BitVec 32) × MFlags :=
  let r := accStep fp p.1 (FMap.getD st.1 (accKey tile row p.2) 0).toNat
  (FMap.put st.1 (accKey tile row p.2) (BitVec.ofNat 32 r.1), st.2 ||| r.2)

theorem tileUpdate_macc (acc : FMap (BitVec 32)) (tile row : Nat) (fp : Bool) (sums : List XNum) (nv : Bool) :
    tileUpdate acc (.macc tile row fp sums nv) = sums.zipIdx.foldl (accColumn fp tile row) (acc, if nv then fNV else 0) := rfl

theorem accKey_inj {tile row i j : Nat} (h : accKey tile row i = accKey tile row j) : i = j := Nat.add_left_cancel h

/-- The columns of a beat: each takes its own sum, and no other element changes. -/
theorem foldl_accColumn (fp : Bool) (tile row n : Nat) (x : Nat → XNum) (acc : FMap (BitVec 32)) (f0 : MFlags) :
    let r (j : Nat) : Nat × MFlags := accStep fp (x j) (FMap.getD acc (accKey tile row j) 0).toNat
    let st := ((List.range n).map x).zipIdx.foldl (accColumn fp tile row) (acc, f0)
    (∀ k, (∀ j < n, k ≠ accKey tile row j) → FMap.getD st.1 k 0 = FMap.getD acc k 0) ∧
    (∀ j < n, FMap.getD st.1 (accKey tile row j) 0 = BitVec.ofNat 32 (r j).1) ∧
    ∀ b, st.2.getLsbD b = true ↔ f0.getLsbD b = true ∨ ∃ j < n, (r j).2.getLsbD b = true := by
  intro r
  rw [zipIdx_map_range]
  induction n with
  | zero => simp
  | succ n ih =>
    obtain ⟨hother, hown, hflags⟩ := ih
    rw [List.range_succ, List.map_append, List.foldl_append]
    simp only [List.map_cons, List.map_nil, List.foldl_cons, List.foldl_nil]
    generalize ((List.range n).map fun i => (x i, i)).foldl (accColumn fp tile row) (acc, f0) = st at *
    have hlast : FMap.getD st.1 (accKey tile row n) 0 = FMap.getD acc (accKey tile row n) 0 :=
      hother _ fun j hj h => by have := accKey_inj h; omega
    simp only [accColumn, hlast]
    refine ⟨fun k hk => ?_, fun j hj => ?_, fun b => ?_⟩
    · rw [FMap.getD_put_ne _ (hk n (by omega)).symm]
      exact hother k fun j hj => hk j (by omega)
    · rw [FMap.getD_put]
      split_ifs with h
      · rw [accKey_inj h]
      · exact hown j (Nat.lt_of_le_of_ne (Nat.lt_succ_iff.1 hj) fun e => h (by rw [e]))
    · rw [BitVec.getLsbD_or, Bool.or_eq_true, hflags, or_assoc]
      refine or_congr_right ⟨?_, ?_⟩
      · rintro (⟨j, hj, h⟩ | h)
        · exact ⟨j, by omega, h⟩
        · exact ⟨n, by omega, h⟩
      · rintro ⟨j, hj, h⟩
        rcases Nat.lt_succ_iff_lt_or_eq.1 hj with hj | rfl
        · exact .inl ⟨j, hj, h⟩
        · exact .inr h

/-- A result that is due and writes no register acts on the strand, and its flags become sticky (R66). -/
theorem ctx_deliver_macc (t : State) (cx : Nat) {e : Flight} {tile row : Nat} {fp : Bool} {sums : List XNum} {nv : Bool}
    (he : e.op = .macc tile row fp sums nv) :
    let st := (t.ctx cx).st
    let st' := ((t.deliver cx e).ctx cx).st
    st'.acc = (tileUpdate st.acc e.op).1 ∧ st'.ctl.mstat = st.ctl.mstat ||| (tileUpdate st.acc e.op).2 := by
  have hnote (u : State) (f : MFlags) : ((u.noteMstat cx f).ctx cx).st.acc = (u.ctx cx).st.acc ∧
      ((u.noteMstat cx f).ctx cx).st.ctl.mstat = (u.ctx cx).st.ctl.mstat ||| f := by
    unfold State.noteMstat
    split_ifs with h
    · simp [h]
    · simp
  have hbeaten (c : Ctx) : c.beaten e = false := by
    rw [Ctx.beaten, he]
    rfl
  simp only [State.deliver, he, State.ctx_updCtx_self, hbeaten, Bool.false_eq_true, if_false, Strand.deliver]
  obtain ⟨hacc, hmstat⟩ := hnote (t.storeEcc cx (coreOf cx) (tileMet (t.ctx cx).st.accBad e.op))
    (tileUpdate (t.ctx cx).st.acc e.op).2
  rw [ctx_storeEcc] at hacc hmstat
  rw [he] at hacc hmstat
  rw [ctx_storeEcc, hacc, hmstat]
  exact ⟨rfl, rfl⟩

/-! ## The sums of a beat (R70, R71) -/

/-- The product of element `k` of the operand with element (k, j) of the buffer. -/
def beatProduct (b : Buffer) (ty : Ty) (A j k : Nat) : XNum × MFlags :=
  (valueOf ty (laneN ty.width A k)).1.mul ((b.rowVals k).getD j (.fin 0 0))
/-- The sum of column `j`, and whether it is an invalid operation. -/
def beatColumn (b : Buffer) (ty : Ty) (A j : Nat) : XNum × Bool := beatSum ((List.range ty.depth).map (beatProduct b ty A j))

theorem beat_eq (b : Buffer) (ty : Ty) (A : Nat) :
    beat b ty A = ((List.range 64).map fun j => (beatColumn b ty A j).1, (List.range 64).any fun j => (beatColumn b ty A j).2) := by
  simp only [beat, zipWith_map_range, List.map_map, List.any_map]
  rfl

theorem depth_of_accepted {tag : BufTag} {ty : Ty} (h : ty ∈ accepted tag) : ty.depth = 512 / ty.width ∧ ty.width = tag.width := by
  cases tag <;> simp only [accepted, List.mem_cons, List.not_mem_nil, or_false] at h <;> rcases h with rfl | rfl <;> exact ⟨rfl, rfl⟩

theorem rowVals_plain {b : Buffer} (h : b.tag ≠ .k4o) (k : Nat) {j : Nat} (hj : j < 64) :
    (b.rowVals k).getD j (.fin 0 0) = (valueOf b.tag.elem (elemAt b.tag.width (FMap.getD b.rows k 0) j)).1 := by
  rw [Buffer.rowVals, if_neg h, List.getD_eq_getElem _ _ (by simpa using hj), List.getElem_map, List.getElem_range]
  rfl

/-- A buffer's values are those that its format gives (R222, R223). -/
theorem bufferValue_rowVals (b : Buffer) (k : Nat) {j : Nat} (hj : j < 64) :
    bufferValue b k j ((b.rowVals k).getD j (.fin 0 0)) := by
  by_cases h : b.tag = .k4o
  · rw [bufferValue, if_pos h, Buffer.rowVals, if_pos h]
    exact isBlockValue_k4oValues _ _ hj
  · rw [bufferValue, if_neg h]
    exact rowVals_plain h k hj

theorem isInt_iff (tag : BufTag) : tag.isInt = true ↔ tag ∈ [BufTag.s4, .z4, .s8, .z8] := by cases tag <;> decide

/-- In an integer format a column's sum is a whole number (R71). -/
theorem isWhole_beatColumn {b : Buffer} {ty : Ty} (hty : ty ∈ accepted b.tag) (hI : b.tag ∈ [BufTag.s4, .z4, .s8, .z8]) (A : Nat)
    {j : Nat} (hj : j < 64) : isWhole (beatColumn b ty A j).1 (columnSum b ty A j) ∧ (beatColumn b ty A j).2 = false := by
  obtain ⟨hdepth, hwidth⟩ := depth_of_accepted hty
  have hints : ty.isInt = true ∧ b.tag.elem.isInt = true ∧ b.tag.elem.width = b.tag.width ∧ b.tag ≠ .k4o := by
    generalize b.tag = tag at *
    cases tag <;> simp_all [accepted] <;> rcases hty with rfl | rfl <;> decide
  obtain ⟨hinta, hintb, helem, hk4o⟩ := hints
  rw [columnSum, ← hdepth]
  refine beatSum_whole _ _ _ fun k => ?_
  have ha := intOf_eq_intAt (laneN_lt ty.width A k)
  have hb := intOf_eq_intAt (elemAt_lt b.tag.elem.width (FMap.getD b.rows k 0) j)
  rw [helem, ← hwidth] at hb
  rw [beatProduct, rowVals_plain hk4o k hj, valueOf, if_pos hinta, valueOf, if_pos hintb, ha, ← hwidth, hb]
  exact isWhole_mul _ _

/-! ## Accumulators (R70, R71) -/

theorem sextN_eq_toInt (x : BitVec 32) : sextN 32 x.toNat = x.toInt := by
  rw [BitVec.toInt_eq_toNat_cond, sextN, Nat.mod_eq_of_lt x.isLt]

theorem ofNat_pat (w : Nat) (z : Int) : BitVec.ofNat w (pat w z) = BitVec.ofInt w z := by
  apply BitVec.eq_of_toNat_eq
  rw [BitVec.toNat_ofInt, BitVec.toNat_ofNat, Nat.mod_eq_of_lt (pat_lt w z), ← narrow_eq_pat, narrow]

/-- INT32 holds an integer as it is, or clamped to its range. -/
theorem clamp32_range (z : Int) : -2 ^ 31 ≤ clamp32 z ∧ clamp32 z ≤ 2 ^ 31 - 1 :=
  ⟨le_max_left _ _, max_le (by norm_num) (min_le_left _ _)⟩

theorem clamp32_of_range {z : Int} (h1 : -2 ^ 31 ≤ z) (h2 : z ≤ 2 ^ 31 - 1) : clamp32 z = z := by
  rw [clamp32, min_eq_right h2, max_eq_right h1]

theorem toInt_ofNat_pat_clamp32 (z : Int) : (BitVec.ofNat 32 (pat 32 (clamp32 z))).toInt = clamp32 z := by
  obtain ⟨h1, h2⟩ := clamp32_range z
  rw [ofNat_pat]
  exact BitVec.toInt_ofInt_eq_self (by norm_num) h1 (by omega)

/-- An INT32 element after a whole sum: clamped, with SAT where that changes it. -/
theorem accStep_whole {x : XNum} {v : Int} (h : isWhole x v) (old : BitVec 32) :
    accStep false x old.toNat =
      (pat 32 (clamp32 (old.toInt + v)), if clamp32 (old.toInt + v) ≠ old.toInt + v then fSAT else 0) := by
  have hheld (z : Int) : clampTo .s32 z = (pat 32 (clamp32 z), if clamp32 z ≠ z then fSAT else 0) := by
    have hflag : ((heldTo .s32 z).2 = true) = (clamp32 z ≠ z) := by
      simp only [heldTo, Ty.isSigned, Ty.width, if_true, Bool.or_eq_true, decide_eq_true_eq, eq_iff_iff, clamp32]
      omega
    rw [clampTo_eq]
    simp only [hflag]
    rfl
  have hold : pat 32 old.toInt = old.toNat := by
    have h := congrArg BitVec.toNat ((ofNat_pat 32 old.toInt).trans BitVec.ofInt_toInt)
    rwa [BitVec.toNat_ofNat, Nat.mod_eq_of_lt (pat_lt _ _)] at h
  rcases h with rfl | ⟨rfl, rfl⟩
  · have hsum : accStep false (.fin v 0) old.toNat = clampTo .s32 (sextN 32 old.toNat + v * 1) := rfl
    rw [hsum, hheld, sextN_eq_toInt, mul_one]
  · have h1 := BitVec.le_toInt old
    have h2 := BitVec.toInt_lt (x := old)
    have hin : clamp32 old.toInt = old.toInt := clamp32_of_range (by simpa using h1) (by simp at h2; omega)
    rw [add_zero, hin, hold, if_neg (not_not.2 rfl)]
    rfl

/-! ## Beats (R230) -/

theorem getLsbD_ite_flag (p : Prop) [Decidable p] (f : MFlags) (b : Nat) :
    (if p then f else 0).getLsbD b = true ↔ p ∧ f.getLsbD b = true := by
  by_cases h : p <;> simp [h]

theorem flags_eq_ite {f g : MFlags} {p : Prop} [Decidable p] (h : ∀ b, f.getLsbD b = true ↔ p ∧ g.getLsbD b = true) :
    f = if p then g else 0 :=
  BitVec.eq_of_getLsbD_eq fun b _ => by rw [Bool.eq_iff_iff, h, getLsbD_ite_flag]

/-- What a beat's entry adds in integers: each column's sum, clamped, and SAT where a clamp changes it. -/
theorem beatAdds_int {b : Buffer} {ty : Ty} (hty : ty ∈ accepted b.tag) (hI : b.tag ∈ [BufTag.s4, .z4, .s8, .z8]) (A tile row : Nat)
    (acc : FMap (BitVec 32)) :
    let old (j : Nat) : BitVec 32 := FMap.getD acc (tileKey tile row j) 0
    let up := tileUpdate acc (.macc tile row false (beat b ty A).1 (beat b ty A).2)
    (∀ j < 64, (FMap.getD up.1 (tileKey tile row j) 0).toInt = clamp32 ((old j).toInt + columnSum b ty A j)) ∧
      ∀ n, up.2.getLsbD n = true ↔
        (∃ j < 64, clamp32 ((old j).toInt + columnSum b ty A j) ≠ (old j).toInt + columnSum b ty A j) ∧ fSAT.getLsbD n = true := by
  intro old up
  have hvalid : (beat b ty A).2 = false := by
    rw [beat_eq, List.any_eq_false]
    exact fun j hj => by simp [(isWhole_beatColumn hty hI A (List.mem_range.1 hj)).2]
  have hup : up = ((List.range 64).map fun j => (beatColumn b ty A j).1).zipIdx.foldl (accColumn false tile row) (acc, 0) := by
    simp only [up, tileUpdate_macc, hvalid, Bool.false_eq_true, if_false]
    rw [beat_eq]
  obtain ⟨-, hown, hflags⟩ := foldl_accColumn false tile row 64 (fun j => (beatColumn b ty A j).1) acc 0
  have hstep (j : Nat) (hj : j < 64) := accStep_whole (isWhole_beatColumn hty hI A hj).1 (old j)
  rw [← hup] at hown hflags
  refine ⟨fun j hj => ?_, fun n => ?_⟩
  · refine (congrArg BitVec.toInt (hown j hj)).trans ?_
    exact (congrArg (fun r : Nat × MFlags => (BitVec.ofNat 32 r.1).toInt) (hstep j hj)).trans (toInt_ofNat_pat_clamp32 _)
  · rw [hflags]
    constructor
    · rintro (h | ⟨j, hj, h⟩)
      · simp at h
      · have h' := (congrArg (fun r : Nat × MFlags => r.2.getLsbD n) (hstep j hj)).symm.trans h
        rw [getLsbD_ite_flag] at h'
        exact ⟨⟨j, hj, h'.1⟩, h'.2⟩
    · rintro ⟨⟨j, hj, h⟩, hn⟩
      refine .inr ⟨j, hj, (congrArg (fun r : Nat × MFlags => r.2.getLsbD n) (hstep j hj)).trans ?_⟩
      exact (getLsbD_ite_flag _ _ _).2 ⟨h, hn⟩

/-- What a beat's entry adds in floats: each column's sum, rounded once into FP32. -/
theorem beatAdds_float (b : Buffer) (ty : Ty) (A tile row : Nat) (acc : FMap (BitVec 32)) :
    let old (j : Nat) : BitVec 32 := FMap.getD acc (tileKey tile row j) 0
    let r (j : Nat) : XNum × MFlags := (decodeFloat .f (old j).toNat).add .rne (beatColumn b ty A j).1
    let c (j : Nat) : Nat × MFlags := roundTo .f .rne 0 (r j).1
    let up := tileUpdate acc (.macc tile row true (beat b ty A).1 (beat b ty A).2)
    (∀ j < 64, (FMap.getD up.1 (tileKey tile row j) 0).toNat = (c j).1) ∧
      ∀ n, up.2.getLsbD n = true ↔ ∃ j < 64, ((r j).2 ||| ((c j).2 &&& fOF) |||
        (if (beatColumn b ty A j).2 ∨ isSNaN .f (old j).toNat then fNV else 0)).getLsbD n = true := by
  intro old r c up
  have hup : up = ((List.range 64).map fun j => (beatColumn b ty A j).1).zipIdx.foldl (accColumn true tile row)
      (acc, if (List.range 64).any fun j => (beatColumn b ty A j).2 then fNV else 0) := by
    simp only [up, tileUpdate_macc]
    rw [beat_eq]
  obtain ⟨-, hown, hflags⟩ := foldl_accColumn true tile row 64 (fun j => (beatColumn b ty A j).1) acc
    (if (List.range 64).any fun j => (beatColumn b ty A j).2 then fNV else 0)
  rw [← hup] at hown hflags
  have hstep (j : Nat) : accStep true (beatColumn b ty A j).1 (FMap.getD acc (accKey tile row j) 0).toNat =
      ((c j).1, ((c j).2 &&& fOF) ||| (r j).2 ||| if isSNaN .f (old j).toNat then fNV else 0) := rfl
  simp only [hstep] at hown hflags
  refine ⟨fun j hj => ?_, fun n => ?_⟩
  · refine (congrArg BitVec.toNat (hown j hj)).trans ?_
    rw [BitVec.toNat_ofNat]
    exact Nat.mod_eq_of_lt (roundTo_lt (t := .f) rfl _ _ _)
  · rw [hflags, getLsbD_ite_flag, List.any_eq_true]
    simp only [BitVec.getLsbD_or, Bool.or_eq_true, getLsbD_ite_flag, List.mem_range]
    constructor
    · rintro (⟨⟨j, hj, h⟩, hn⟩ | ⟨j, hj, (h | h) | h⟩)
      · exact ⟨j, hj, .inr ⟨.inl h, hn⟩⟩
      · exact ⟨j, hj, .inl (.inr h)⟩
      · exact ⟨j, hj, .inl (.inl h)⟩
      · exact ⟨j, hj, .inr ⟨.inr h.1, h.2⟩⟩
    · rintro ⟨j, hj, (h | h) | ⟨h | h, hn⟩⟩
      · exact .inr ⟨j, hj, .inl (.inr h)⟩
      · exact .inr ⟨j, hj, .inl (.inl h)⟩
      · exact .inl ⟨⟨j, hj, h⟩, hn⟩
      · exact .inr ⟨j, hj, .inr ⟨h, hn⟩⟩

/-- A beat's entry changes no element outside its row. -/
theorem tileUpdate_macc_other (b : Buffer) (ty : Ty) (A tile row : Nat) (fp : Bool) (acc : FMap (BitVec 32)) {k : Nat}
    (hk : ∀ j < 64, k ≠ tileKey tile row j) :
    FMap.getD (tileUpdate acc (.macc tile row fp (beat b ty A).1 (beat b ty A).2)).1 k 0 = FMap.getD acc k 0 := by
  obtain ⟨hother, -, -⟩ := foldl_accColumn fp tile row 64 (fun j => (beatColumn b ty A j).1) acc
    (if (List.range 64).any fun j => (beatColumn b ty A j).2 then fNV else 0)
  have hkey : ∀ j < 64, k ≠ accKey tile row j := hk
  rw [tileUpdate_macc, beat_eq]
  exact hother k hkey

theorem beatAdds_macc (s : State) (o : OpMA) (A : Nat) (hty : o.ty ∈ accepted s.cur.st.active.tag) :
    let b := s.cur.st.active
    beatAdds s o A (.macc o.t.toNat o.row.toNat (!b.tag.isInt) (beat b o.ty A).1 (beat b o.ty A).2) := by
  intro b
  obtain ⟨hdepth, -⟩ := depth_of_accepted hty
  refine ⟨fun t cx e he => ?_, fun hF => ⟨fun j => (beatColumn b o.ty A j).1, fun j => (beatColumn b o.ty A j).2, fun j hj => ?_,
    fun t cx e he => ?_⟩⟩
  · obtain ⟨hacc, hmstat⟩ := ctx_deliver_macc t cx he
    rw [he] at hacc hmstat
    refine ⟨fun k hk => ?_, fun hI => ?_⟩
    · rw [hacc]
      exact tileUpdate_macc_other b o.ty A _ _ _ _ hk
    · obtain ⟨hown, hflags⟩ := beatAdds_int hty hI A o.t.toNat o.row.toNat (t.ctx cx).st.acc
      rw [(isInt_iff b.tag).2 hI] at hacc hmstat
      refine ⟨fun j hj => ?_, ?_⟩
      · simp only [tileAt, hacc]
        exact hown j hj
      · rw [hmstat]
        split_ifs with h
        · exact congrArg (_ ||| ·) ((flags_eq_ite hflags).trans (if_pos h))
        · exact (congrArg (_ ||| ·) ((flags_eq_ite hflags).trans (if_neg h))).trans BitVec.or_zero
  · refine ⟨fun k => (b.rowVals k).getD j (.fin 0 0), fun k _ => bufferValue_rowVals b k hj, ?_⟩
    rw [← hdepth]
    exact isSum_beatSum _ _
  · obtain ⟨hacc, hmstat⟩ := ctx_deliver_macc t cx he
    have hfp : b.tag.isInt = false := by
      rw [Bool.eq_false_iff, ne_eq, isInt_iff]
      exact hF
    rw [he, hfp] at hacc hmstat
    obtain ⟨hown, hflags⟩ := beatAdds_float b o.ty A o.t.toNat o.row.toNat (t.ctx cx).st.acc
    refine ⟨fun j hj => ?_, fun n _ => ?_⟩
    · simp only [tileAt, hacc]
      exact hown j hj
    · rw [hmstat, BitVec.getLsbD_or, Bool.or_eq_true]
      exact or_congr_right (hflags n)

/-- The active buffer as a beat reads it: where no word that it reads is in error, as it is. -/
theorem readBuffer_only (s : State) (n : Nat) :
    ∃ b fr d a, s.readBuffer n = (b, { s with free := fr, dies := d, acct := a }) ∧
      ((∀ w ∈ s.cur.st.active.bad, n ≤ w / 16) → s.readBuffer n = (s.cur.st.active, s)) := by
  have hclean (h : ∀ w ∈ s.cur.st.active.bad, n ≤ w / 16) : s.readBuffer n = (s.cur.st.active, s) := by
    have hnone : s.cur.st.active.bad.filter (fun w => decide (w / 16 < n)) = [] := by
      rw [List.filter_eq_nil_iff]
      exact fun w hw => by simpa using h w hw
    simp only [State.readBuffer, hnone, List.length_nil, if_true]
  by_cases h : (s.cur.st.active.bad.filter fun w => decide (w / 16 < n)).length = 0
  · exact ⟨s.cur.st.active, s.free, s.dies, s.acct, by simp only [State.readBuffer, if_pos h], hclean⟩
  · obtain ⟨d, a, hecc⟩ := storeEcc_only { s with free := s.free + 1 } s.iss.cx (coreOf s.iss.cx)
      (s.cur.st.active.bad.filter fun w => decide (w / 16 < n)).length
    refine ⟨s.cur.st.active.read s.free, s.free + 1, d, a, ?_, hclean⟩
    simp only [State.readBuffer, if_neg h, State.drawFree]
    rw [← hecc]

theorem agrees_iff (tag : BufTag) (ty : Ty) : tag.agrees ty = true ↔ ty ∈ accepted tag := by
  cases tag <;> simp [BufTag.agrees, accepted]

theorem maccBeat_accepted {s : State} {o : OpMA} {bs : List Byte} (hty : o.ty ∈ accepted s.cur.st.active.tag) :
    s.maccBeat o bs =
      let r := (s.count s.iss.cx .beats 1).readBuffer o.ty.depth
      r.2.entering [latticeEntry r.2 (.macc o.t.toNat o.row.toNat (!r.1.tag.isInt) (beat r.1 o.ty (leValue bs)).1
        (beat r.1 o.ty (leValue bs)).2) 4] := by
  have hagrees := (agrees_iff _ _).2 hty
  have hsome : s.cur.st.active.tag ≠ .none := by
    intro h
    rw [h] at hty
    exact absurd hty List.not_mem_nil
  simp only [State.maccBeat, if_neg hsome, hagrees, Bool.not_true, Bool.false_eq_true, if_false]
  rw [flightPut_lattice]

/-- A beat over its A operand (R230, R405). -/
theorem beatIs_maccBeat {s : State} {i : Instr} {o : OpMA} (bs : List Byte) (hexec : exec i s = .next (s.maccBeat o bs)) :
    beatIs s i o (leValue bs) := by
  obtain ⟨ac, hcount⟩ := count_only s s.iss.cx .beats 1
  have hcur : (s.count s.iss.cx .beats 1).cur = s.cur := by rw [hcount]; rfl
  obtain ⟨b', fr, d, a, hread, hclean⟩ := readBuffer_only (s.count s.iss.cx .beats 1) o.ty.depth
  rw [hcur] at hclean
  unfold beatIs
  rw [hexec]
  refine ⟨fun hty hb => ?_, fun hty _ => ?_, fun htag => ?_, fun htag hty => ?_⟩
  · obtain ⟨hdepth, -⟩ := depth_of_accepted hty
    refine ⟨_, ?_, beatAdds_macc s o (leValue bs) hty⟩
    rw [maccBeat_accepted hty, hclean fun w hw => hdepth ▸ hb w hw, hcount]
    rfl
  · rw [maccBeat_accepted hty, hread, hcount]
    exact ⟨_, .macc o.t.toNat o.row.toNat (!b'.tag.isInt) (beat b' o.ty (leValue bs)).1 (beat b' o.ty (leValue bs)).2, rfl,
      entering_recounted s fr d a _⟩
  · rw [State.maccBeat, if_pos htag]
  · have hagrees : s.cur.st.active.tag.agrees o.ty = false := by
      rw [Bool.eq_false_iff, ne_eq, agrees_iff]
      exact hty
    simp only [State.maccBeat, if_neg htag, hagrees, Bool.not_false, if_true]

/-- The A operand of a beat over a scratchpad row. -/
def rowOperand (s : State) (o : OpMA) : List Byte := (List.range 64).map (tileByte s o.a o.row.toNat o.half)

theorem length_rowOperand (s : State) (o : OpMA) : (rowOperand s o).length = 64 := by rw [rowOperand, List.length_map, List.length_range]

theorem latticeBeats : LatticeBeats := by
  intro s o hp
  constructor
  · have h := beatIs_maccBeat (s := s) (i := .maccV o) (o := o) _
      (guarded_holds (fun s => s.maccBeat o (((bytesOfVec (s.rdV o.a).val).drop (if o.half then 64 else 0)).take 64)) hp)
    rwa [leValue_half, rdV_eq_srcV] at h
  · intro hreads
    have hexec : exec (.maccSp o) s = .next (s.maccBeat o (rowOperand s o)) := by
      change execMaccSp o s = _
      rw [execMaccSp, guarded_holds _ hp, spOperand_reads hreads, rowOperand]
    refine ⟨leValue (rowOperand s o), ?_, fun b hb => ?_, beatIs_maccBeat _ hexec⟩
    · have h := leValue_lt (rowOperand s o)
      rwa [length_rowOperand] at h
    · rw [byte_of_leValue, rowOperand, List.getD_eq_getElem _ _ (by simpa using hb), List.getElem_map, List.getElem_range]

end Sys2Proof.Machine
end

section
/-!
SUPPORT. The lattice's tiles and known answers (R231, R232, R234, R235), and the obligation about beats, tiles and known answers.
-/
open Sys2Proof.Claims

namespace Sys2Proof.Machine

/-! ## A tile's elements after its keys move -/

/-- Where a map's keys move by `g`, or leave it, a key that only `k₀` moves to has the value that `k₀` had. -/
theorem find_filterMap_of_iff {α : Type} (g : Nat → Option Nat) (m : FMap α) {k k₀ : Nat} (h : ∀ x, g x = some k ↔ x = k₀) :
    FMap.find (m.filterMap fun e => (g e.1).map fun x => (x, e.2)) k = FMap.find m k₀ := by
  induction m with
  | nil => rfl
  | cons e r ih =>
    rw [List.filterMap_cons, FMap.find]
    by_cases he : e.1 = k₀
    · rw [(h e.1).2 he, if_pos he]
      exact if_pos rfl
    · rw [if_neg he, ← ih]
      cases hg : g e.1 with
      | none => rfl
      | some x => exact if_neg fun hx : x = k => he ((h e.1).1 (hx ▸ hg))

theorem find_filterMap_of_ne {α : Type} (g : Nat → Option Nat) (m : FMap α) {k : Nat} (h : ∀ x, g x ≠ some k) :
    FMap.find (m.filterMap fun e => (g e.1).map fun x => (x, e.2)) k = none := by
  induction m with
  | nil => rfl
  | cons e r ih =>
    rw [List.filterMap_cons]
    cases hg : g e.1 with
    | none => exact ih
    | some x => exact (if_neg fun hx : x = k => h e.1 (hx ▸ hg)).trans ih

/-- Where `mshift` moves the key of an element: the rows of its tile move down by one, and the first leaves the tile. -/
def shiftKey (tile k : Nat) : Option Nat :=
  if k / 4096 ≠ tile then some k else if k % 4096 < 64 then none else some (k - 64)

/-- An element of another tile comes from itself alone. -/
theorem shiftKey_other {tile T i j : Nat} (hT : T ≠ tile) (hi : i < 64) (hj : j < 64) (x : Nat) :
    shiftKey tile x = some (tileKey T i j) ↔ x = tileKey T i j := by
  unfold shiftKey tileKey
  split_ifs <;> grind

/-- No element moves to the last row. -/
theorem shiftKey_last (T : Nat) {j : Nat} (hj : j < 64) (x : Nat) : shiftKey T x ≠ some (tileKey T 63 j) := by
  unfold shiftKey tileKey
  split_ifs <;> grind

/-- An element of any other row comes from the row after its own. -/
theorem shiftKey_next (T : Nat) {i j : Nat} (hi : i < 63) (hj : j < 64) (x : Nat) :
    shiftKey T x = some (tileKey T i j) ↔ x = tileKey T (i + 1) j := by
  unfold shiftKey tileKey
  split_ifs <;> grind

/-- `mzero` drops the keys of its tile. -/
def zeroKey (tile k : Nat) : Option Nat := if k / 4096 ≠ tile then some k else none

theorem zeroKey_own (T : Nat) {i j : Nat} (hi : i < 64) (hj : j < 64) (x : Nat) : zeroKey T x ≠ some (tileKey T i j) := by
  unfold zeroKey tileKey
  split_ifs <;> grind

theorem zeroKey_other {tile T i j : Nat} (hT : T ≠ tile) (hi : i < 64) (hj : j < 64) (x : Nat) :
    zeroKey tile x = some (tileKey T i j) ↔ x = tileKey T i j := by
  unfold zeroKey tileKey
  split_ifs <;> grind

theorem tileUpdate_mshift (acc : FMap (BitVec 32)) (tile : Nat) :
    (tileUpdate acc (.mshift tile)).1 = acc.filterMap fun e => (shiftKey tile e.1).map fun x => (x, e.2) := by
  refine List.filterMap_congr fun e _ => ?_
  simp only [shiftKey, bne_iff_ne]
  split_ifs <;> rfl

theorem tileUpdate_mzero (acc : FMap (BitVec 32)) (tile : Nat) :
    (tileUpdate acc (.mzero tile)).1 = acc.filterMap fun e => (zeroKey tile e.1).map fun x => (x, e.2) := by
  change acc.filter _ = _
  rw [← List.filterMap_eq_filter]
  refine List.filterMap_congr fun e _ => ?_
  simp only [zeroKey, Option.guard, bne_iff_ne]
  split_ifs <;> rfl

theorem tileAt_mshift (st : Strand) (tile T : Nat) {i j : Nat} (hi : i < 64) (hj : j < 64) :
    tileAt (st.deliver (.mshift tile)) T i j =
      if T ≠ tile then tileAt st T i j else if i = 63 then 0 else tileAt st T (i + 1) j := by
  simp only [tileAt, Strand.deliver, tileUpdate_mshift, FMap.getD]
  split_ifs with hT h63
  · rw [find_filterMap_of_iff _ _ (shiftKey_other hT hi hj)]
  · obtain rfl : T = tile := not_not.1 hT
    rw [h63, find_filterMap_of_ne _ _ (shiftKey_last T hj)]
    rfl
  · obtain rfl : T = tile := not_not.1 hT
    rw [find_filterMap_of_iff _ _ (shiftKey_next T (by omega) hj)]

theorem tileAt_mzero (st : Strand) (tile T : Nat) {i j : Nat} (hi : i < 64) (hj : j < 64) :
    tileAt (st.deliver (.mzero tile)) T i j = if T = tile then 0 else tileAt st T i j := by
  simp only [tileAt, Strand.deliver, tileUpdate_mzero, FMap.getD]
  split_ifs with hT
  · rw [hT, find_filterMap_of_ne _ _ (zeroKey_own tile hi hj)]
    rfl
  · rw [find_filterMap_of_iff _ _ (zeroKey_other hT hi hj)]

/-! ## Draining half a row (R232) -/

/-- Element `j` of what `mdrain` reads. -/
def drained (s : State) (o : OpMD) (j : Nat) : Nat :=
  let first := accKey o.t.toNat o.row.toNat (if o.half then 32 else 0)
  if inSet s.cur.st.accBad ((first + j) / 2) then 0 else (FMap.getD s.cur.st.acc (first + j) 0).toNat

theorem drained_eq (s : State) (o : OpMD) (j : Nat) :
    let col := (if o.half then 32 else 0) + j
    (tileWordBad s.cur.st o.t.toNat o.row.toNat col → drained s o j = 0) ∧
      (¬ tileWordBad s.cur.st o.t.toNat o.row.toNat col → drained s o j = (tileAt s.cur.st o.t.toNat o.row.toNat col).toNat) := by
  intro col
  have hkey : accKey o.t.toNat o.row.toNat (if o.half then 32 else 0) + j = tileKey o.t.toNat o.row.toNat col := Nat.add_assoc _ _ _
  simp only [drained, hkey, tileWordBad, tileAt]
  exact ⟨fun h => if_pos h, fun h => if_neg h⟩

theorem drained_lt (s : State) (o : OpMD) (j : Nat) : drained s o j < 2 ^ 32 := by
  by_cases h : tileWordBad s.cur.st o.t.toNat o.row.toNat ((if o.half then 32 else 0) + j)
  · rw [(drained_eq s o j).1 h]
    norm_num
  · rw [(drained_eq s o j).2 h]
    exact BitVec.isLt _

/-- The value of `mdrain`. -/
def drainedRow (s : State) (o : OpMD) : Nat := ofLanes 32 ((List.range 32).map (drained s o))

theorem laneN_drainedRow (s : State) (o : OpMD) {j : Nat} (hj : j < 32) : laneN 32 (drainedRow s o) j = drained s o j := by
  rw [drainedRow, laneN_ofLanes, List.getD_eq_getElem _ _ (by simpa using hj), List.getElem_map, List.getElem_range,
    Nat.mod_eq_of_lt (drained_lt s o j)]

/-- The words in error that `mdrain` reads. -/
def drainErrors (s : State) (o : OpMD) : Nat :=
  ((List.range 16).filter fun i =>
    inSet s.cur.st.accBad (accKey o.t.toNat o.row.toNat (if o.half then 32 else 0) / 2 + i)).length

theorem exec_mdrain {s : State} {o : OpMD} (hp : Pred.holds o.p s.cur.st.q = true) :
    ∃ u, exec (.mdrain o) s = .next (u.entering [vEntry u o.d 3 (BitVec.ofNat 1024 (drainedRow s o)) (laneResid (drainedRow s o))]) ∧
      (∃ d a, u = { s with dies := d, acct := a }) ∧ (s.cur.st.accBad = [] → u = s) := by
  have hexec := guarded_holds (fun s => (s.storeEcc s.iss.cx (coreOf s.iss.cx) (drainErrors s o)).wrV o.d 3
    { val := BitVec.ofNat 1024 (drainedRow s o), res := laneResid (drainedRow s o) }) hp
  refine ⟨_, hexec, storeEcc_only _ _ _ _, fun h => ?_⟩
  have hnone : drainErrors s o = 0 := by
    rw [drainErrors, h]
    rfl
  rw [hnone, storeEcc_zero]

/-! ## Known answers (R234) -/

theorem sextN_eight (x : Nat) : sextN 8 x = if 128 ≤ x % 256 then ((x % 256 : Nat) : Int) - 256 else (x % 256 : Nat) := by
  unfold sextN
  norm_num
  split_ifs <;> omega

/-- Column `j` of a known-answer beat. -/
def katColumn (p j : Nat) : Int := ((List.range 64).map fun k => katA p k * katB p k j).sum

theorem katSum_eq (p : Nat) : katSum p = pat 64 ((List.range 64).map fun (j : Nat) => ((j : Int) + 1) * katColumn p j).sum := by
  simp only [katSum, narrow_eq_pat, zipIdx_map_range, List.map_map, ← List.sum_eq_foldl, katColumn, katA, katB, sextN_eight,
    Function.comp_def, Nat.cast_add, Nat.cast_one]

theorem exec_mkat {s : State} {o : OpMK} (hp : Pred.holds o.p s.cur.st.q = true) :
    let chk : Word := BitVec.ofNat 64 (katSum o.pat.toNat)
    exec (.mkat o) s = .next ((s.entering [latticeEntry s (.mkat chk (chk != srcG s o.a)) 6]).count s.iss.cx .beats 1) := by
  intro chk
  have hlt : katSum o.pat.toNat < 2 ^ 64 := by
    rw [katSum_eq]
    exact pat_lt _ _
  have hne : (katSum o.pat.toNat != (s.rdG o.a).val.toNat) = (chk != srcG s o.a) := by
    have hnat : katSum o.pat.toNat = chk.toNat := (Nat.mod_eq_of_lt hlt).symm
    rw [Bool.eq_iff_iff, bne_iff_ne, bne_iff_ne, rdG_val, hnat, ne_eq, BitVec.toNat_inj]
  change guarded o.p (fun s => (s.flightPut (.mkat chk (katSum o.pat.toNat != (s.rdG o.a).val.toNat)) none 6).count s.iss.cx .beats 1)
    s = _
  rw [guarded_holds _ hp, hne, flightPut_lattice]

theorem latticeTilesAndKnownAnswers : LatticeTilesAndKnownAnswers := by
  intro s
  refine ⟨fun o hp => ⟨⟨.mshift o.t.toNat, ?_, fun st T i j hi hj => tileAt_mshift st _ T hi hj⟩,
    ⟨.mzero o.t.toNat, ?_, fun st T i j hi hj => tileAt_mzero st _ T hi hj⟩⟩, fun o hp => ?_, fun o hp => ?_⟩
  · change guarded o.p (fun s => s.flightPut (.mshift o.t.toNat) none 4) s = _
    rw [guarded_holds _ hp, flightPut_lattice]
  · change guarded o.p (fun s => s.flightPut (.mzero o.t.toNat) none 4) s = _
    rw [guarded_holds _ hp, flightPut_lattice]
  · obtain ⟨u, hexec, ⟨d, a, hu⟩, hclean⟩ := exec_mdrain hp
    have hentry : vEntry u = vEntry s := by rw [hu]; rfl
    rw [hentry] at hexec
    obtain ⟨hmem, hothers, hst⟩ := entering_recounted s s.free d a
      (vEntry s o.d 3 (BitVec.ofNat 1024 (drainedRow s o)) (laneResid (drainedRow s o)))
    have hrec : u = recounted s s.free d a := hu
    rw [← hrec] at hmem hothers hst
    refine ⟨_, BitVec.ofNat 1024 (drainedRow s o), laneResid (drainedRow s o), hexec, fun h => by rw [hclean h], hst, hmem, hothers,
      fun j hj => ?_⟩
    · have helem : elemAt 32 (BitVec.ofNat 1024 (drainedRow s o)) j = drained s o j :=
        (elemAt_ofNat (by omega)).trans (laneN_drainedRow s o hj)
      obtain ⟨hbad, hgood⟩ := drained_eq s o j
      refine ⟨fun h => helem.trans (hbad h), fun h => helem.trans (hgood h), ?_⟩
      rw [laneResid_eq_ofLanes, lres_ofLanes _ j hj, List.getD_eq_getElem _ _ (by simpa using hj), List.getElem_map,
        List.getElem_range, laneN_drainedRow s o hj, helem]
      omega
  · have h := exec_mkat (s := s) hp
    rwa [katSum_eq, ofNat_pat] at h

/-- Settles O27: every beat by its operand and its buffer, and the tiles' and known answers' instructions. -/
theorem beatsAndTiles : Obligations.BeatsAndTiles := ⟨latticeBeats, latticeTilesAndKnownAnswers⟩

end Sys2Proof.Machine
end
